-- ==== Sys2Proof/Word.lean ====
section
/-! DEFINITION. The words and names every file uses: bytes, identities (station, bin, cell, tag), the outcome pair and the
notice kinds, as the chapter "About this manual" (spec/00) and R33 give them. Quantities that the manual counts (E, keys, timers) are `Nat`. -/

namespace Sys2Proof

/-- One byte of a frame or of the drive link. -/
abbrev Byte := BitVec 8

/-- A station number as one byte: 1..31, and 0 for "none" or "any" (00, Terms). -/
abbrev Station := BitVec 8

/-- A bin ID in four bytes: 0 is "no bin" (00, Identities and ranges). -/
abbrev BinId := BitVec 32

/-- A grid position (row, column); the manual's cells have both in 0..63 (`Cell.onGrid`). -/
structure Cell where
  row : Byte
  col : Byte
  deriving DecidableEq, Repr, Inhabited

/-- Both coordinates in 0..63 (00, Identities and ranges). -/
def Cell.onGrid (c : Cell) : Bool := c.row.toNat < 64 && c.col.toNat < 64

/-- The identity of a handover: the giver station that created it, and a sequence (00, Terms). -/
structure Tag where
  giver : Station
  seq : Byte
  deriving DecidableEq, Repr, Inhabited

/-- The temperature classes of R77. -/
inductive BinClass where
  | ambient
  | chilled
  | frozen
  deriving DecidableEq, Repr, Inhabited

/-- The outcome classes (00, Outcomes; coded 0..3 in R33 and R151). -/
inductive OutcomeClass where
  | done
  | failed
  | refused
  | upset
  deriving DecidableEq, Repr, Inhabited

/-- The detail codes in the order of the table of spec/00 ("Outcomes"), which numbers them (R33). -/
inductive Detail where
  | ok
  | invalidRequest
  | badLength
  | badParam
  | notConfigured
  | alreadyConfigured
  | notActive
  | lineMuted
  | wrongState
  | noSuchTag
  | tableFull
  | hoistBusy
  | hoistEmpty
  | wrongBin
  | wrongCell
  | partnerMissing
  | partnerLost
  | lostToOther
  | declined
  | noAnswer
  | lineCongested
  | cancelled
  | giverCancelled
  | recovered
  | tooLate
  | custodyConflict
  | cellConflict
  | withdrawnMet
  | overrun
  | endOfList
  | terminated
  | targetSilent
  | targetLive
  | targetBusy
  | nothingCeded
  | budgetSpent
  | resumed
  deriving DecidableEq, Repr, Inhabited

/-- An outcome: the pair (outcome class, detail code) of spec/00, Outcomes. -/
structure OutcomePair where
  cls : OutcomeClass
  detail : Detail
  deriving DecidableEq, Repr, Inhabited

/-- The notice kinds, in the order of their codes 0..18 (R33). -/
inductive NoticeKind where
  | none
  | invite
  | bound
  | placed
  | ended
  | budgetSpent
  | partnerLost
  | partnerLapsed
  | partnerChanged
  | custodyConflict
  | cellConflict
  | arrived
  | watchHit
  | peerState
  | clash
  | adoptionEnded
  | lapseEnded
  | runEnded
  | start
  deriving DecidableEq, Repr, Inhabited

end Sys2Proof
end

