-- ==== Sys2Proof/Syntax.lean ====
section
/-! DEFINITION. The commands: `Instr`, one constructor for each row of spec/opcode_table.json, with the row's operands, and the
types of those operands (frame bodies of R23 to R28 as fields, run entries, orders). -/

namespace Sys2Proof

/-! ## Frame bodies (02, section 2.3), field by field in the order and width of the tables -/

/-- One stake entry of a PRESENCE (R23, R32). -/
structure StakeItem where
  cell : Cell
  tag : Tag
  key : BitVec 16
  phase : Byte
  deriving DecidableEq, Repr, Inhabited

/-- PRESENCE (R23, R32). The stake count byte is the length of `stakes`. -/
structure PresenceBody where
  state : Byte
  position : Cell
  hoistBin : BinId
  stakes : List StakeItem
  deriving DecidableEq, Repr, Inhabited

/-- STAKE (R24). -/
structure StakeBody where
  cell : Cell
  tag : Tag
  key : BitVec 16
  deriving DecidableEq, Repr, Inhabited

/-- UNSTAKE (R24). -/
structure UnstakeBody where
  cell : Cell
  tag : Tag
  deriving DecidableEq, Repr, Inhabited

/-- OFFER (R25). -/
structure OfferBody where
  tag : Tag
  bin : BinId
  cls : Byte
  slack : BitVec 16
  cell : Cell
  taker : Station
  placed : Byte
  ordinal : Byte
  deriving DecidableEq, Repr, Inhabited

/-- AGREE (R26). -/
structure AgreeBody where
  tag : Tag
  taker : Station
  deriving DecidableEq, Repr, Inhabited

/-- DECLINE (R26): reason 1 FULL, 2 NO_ANSWER, 3 HOST_DECLINED, 4 LAPSED. -/
structure DeclineBody where
  tag : Tag
  taker : Station
  reason : Byte
  deriving DecidableEq, Repr, Inhabited

/-- BIND (R26). -/
structure BindBody where
  tag : Tag
  taker : Station
  deriving DecidableEq, Repr, Inhabited

/-- SETDOWN (R27). -/
structure SetdownBody where
  tag : Tag
  cell : Cell
  bin : BinId
  e : BitVec 16
  deriving DecidableEq, Repr, Inhabited

/-- LIFTED (R27). -/
structure LiftedBody where
  tag : Tag
  taker : Station
  bin : BinId
  deriving DecidableEq, Repr, Inhabited

/-- CANCEL (R27): reason 1 CANCELLED, 2 RECOVERED, 3 LINE_CONGESTED. -/
structure CancelBody where
  tag : Tag
  reason : Byte
  deriving DecidableEq, Repr, Inhabited

/-- ADOPT (R28). -/
structure AdoptBody where
  target : Station
  deriving DecidableEq, Repr, Inhabited

/-- The record part of a CEDE (R28): role 1 GIVER, 2 TAKER; state 1..5; location 0 none, 2 CELL, 3 SHADOW. -/
structure CedePart where
  tag : Tag
  role : Byte
  partner : Station
  bin : BinId
  cls : Byte
  e : BitVec 16
  cell : Cell
  state : Byte
  location : Byte
  deriving DecidableEq, Repr, Inhabited

/-- CEDE (R28); in the flags byte bit 0 is the last flag and bit 1 the record-present flag (R31). -/
structure CedeBody where
  adopter : Station
  flags : Byte
  part : Option CedePart
  deriving DecidableEq, Repr, Inhabited

/-- RECEIPT (R28): outcome 0 TAKEN, 1 REFUSED; reason 0, or 1 TABLE_FULL, 2 STAKE_LIMIT, 3 SELF_PARTNER, 4 DUP_TAG. -/
structure ReceiptBody where
  tag : Tag
  ceder : Station
  outcome : Byte
  reason : Byte
  cell : Option Cell
  deriving DecidableEq, Repr, Inhabited

/-- The thirteen bodies (R20). -/
inductive Body where
  | presence (b : PresenceBody)
  | stake (b : StakeBody)
  | unstake (b : UnstakeBody)
  | offer (b : OfferBody)
  | agree (b : AgreeBody)
  | decline (b : DeclineBody)
  | bind (b : BindBody)
  | setdown (b : SetdownBody)
  | lifted (b : LiftedBody)
  | cancel (b : CancelBody)
  | adopt (b : AdoptBody)
  | cede (b : CedeBody)
  | receipt (b : ReceiptBody)
  deriving DecidableEq, Repr, Inhabited

/-! ## Other operands -/

/-- One entry of START RUN's parameters (R128; 10.3): bin, class, taker. -/
structure RunItem where
  bin : BinId
  cls : Byte
  taker : Station
  deriving DecidableEq, Repr, Inhabited

/-- An account position (R75): H, or the position of a record slot. -/
inductive AccountPos where
  | hoist
  | slot (n : Nat)
  deriving DecidableEq, Repr, Inhabited

/-- The pieces of work of one beacon-period expiry, one for each event that a block counts on it by itself: the Line Port's pair
ages (R18), the Peer Roster (R41), the Claim Map (R57), and at the Handover Engine each record (R96, R101, R115, R117, R121), the
run (R130), the adoption (R140) and the ceding (R144). -/
inductive BeaconTask where
  | linePort
  | peerRoster
  | claimMap
  | record (slot : Nat)
  | run
  | adoption
  | ceding
  deriving DecidableEq, Repr, Inhabited

/-- The order in which one beacon-period expiry is taken where the spec leaves it open (R41 and "No step is shared by the whole
device", 00): what is listed goes first, in the order listed, the rest follows in the model's own order. Assumption log 9. -/
structure BeaconOrder where
  tasks : List BeaconTask
  stations : List Station
  cells : List Cell
  deriving DecidableEq, Repr, Inhabited

/-- What an accepted frame does (R19, R29), in an order the rules leave open. Assumption log 11. -/
inductive FrameStep where
  | relayCopy
  | hearing
  | body
  deriving DecidableEq, Repr, Inhabited

/-! ## The commands -/

/-- The commands of the part, one constructor for each row of spec/opcode_table.json, in its order. The orders are operands
for what the spec leaves open (assumption logs 9 to 11). -/
inductive Instr where
  | configure (station sect relay mode : Byte)
  | setLineMode (mode : Byte)
  | readStatus
  | setPosition (row col : Byte)
  | loadBin (bin : BinId) (cls : Byte) (e0 : BitVec 16)
  | unloadBin
  | postHandover (row col taker : Byte)
  | reoffer (giver seq taker : Byte)
  | reportSetdown (giver seq : Byte)
  | reportLift (giver seq : Byte)
  | recover (giver seq : Byte)
  | answerInvite (giver seq answer : Byte)
  | cancel (giver seq : Byte)
  | startRun (row col : Byte) (skip : BitVec 4) (entries : List RunItem)
  | nextEntry (ordinal : Byte)
  | withdrawEntry (ordinal : Byte)
  | endRun
  | adopt (target : Byte)
  | setWatch (index flag row col station : Byte)
  | collect
  | readRecord (slot : Byte)
  | readClaims (page : Byte)
  | readRoster (page : Byte)
  | invalidRequest (code length : Byte) (params : List Byte)
  | fillByte
  | resultByte (received : Byte)
  | selectRelease (clocked : List Byte)
  | mainPowerLoss
  | resetAssert
  | backupSecond
  | holdThresholdDip
  | coldStart
  | resume
  | beaconPeriodExpiry (order : BeaconOrder)
  | accountingSecond (order : List AccountPos)
  | joinListenExpiry (order : List Station)
  | hostSilenceExpiry
  | rosterEntryQuiet (station : Station)
  | rosterEntryLost (station : Station)
  | recentPairExpiry (origin : Station) (seq : Byte)
  | claimAgeOut (row col : Byte) (claimant : Station)
  | settleExpiry (row col : Byte)
  | lingerExpiry (row col : Byte)
  | offerRepeat (slot : Nat)
  | offerWindowExpiry (slot : Nat)
  | answerWindowExpiry (slot : Nat)
  | agreedTimerExpiry (slot : Nat)
  | serviceWindowExpiry
  | adoptionTimerExpiry
  | cedeRetry
  | turnCloseUnanswered
  | owedNoticeMove
  | lineBusy
  | quietGapComplete
  | deferralEnd
  | cleanSend
  | collision
  | frameReceived (bytes : List Byte) (order : List FrameStep) (hoistFirst : Bool)
  | presenceHeard (origin : Station) (body : PresenceBody) (hoistFirst : Bool)
  | stakeHeard (origin : Station) (body : StakeBody)
  | unstakeHeard (origin : Station) (body : UnstakeBody)
  | offerHeard (origin : Station) (body : OfferBody)
  | agreeHeard (origin : Station) (body : AgreeBody)
  | declineHeard (origin : Station) (body : DeclineBody)
  | bindHeard (origin : Station) (body : BindBody)
  | setdownHeard (origin : Station) (body : SetdownBody)
  | liftedHeard (origin : Station) (body : LiftedBody)
  | cancelHeard (origin : Station) (body : CancelBody)
  | adoptHeard (origin : Station) (body : AdoptBody)
  | cedeHeard (origin : Station) (body : CedeBody)
  | receiptHeard (origin : Station) (body : ReceiptBody)
  | lineSlot
  | mainPowerReturn
  deriving DecidableEq, Repr

end Sys2Proof
end

