-- ==== Sys2Proof/Config.lean ====
section
/-! DEFINITION. The capacities, counts and limits the rules state, each once, and the free values: constants with no body for
what the manual leaves open. -/

namespace Sys2Proof.Config

/-! Line Port -/

/-- R5: frames in the transmit queue. -/
def queueSize : Nat := 8
/-- R8: a relayed frame is admitted only below this many occupied entries. -/
def relayLimit : Nat := 6
/-- R18: pairs in the recent-frame list. -/
def recentSize : Nat := 32
/-- R18: the age in T_B at which a pair is removed. -/
def recentAge : Nat := 4
/-- R2, R10: the deferral window after CONFIGURE, a start and a clean send. -/
def windowMin : Nat := 8
/-- R10, R12: the largest deferral window. -/
def windowMax : Nat := 64
/-- R12: the collision that drops the frame. -/
def maxCollisions : Nat := 6
/-- R15: the longest body. -/
def maxBody : Nat := 36

/-! Peer Roster -/

/-- R35: the join-listen timer. -/
def joinListen : Nat := 4
/-- R35, R37: the host-silence timer. -/
def hostSilence : Nat := 20
/-- R42: roster entries. -/
def rosterSize : Nat := 24
/-- R43: the silence age at which an entry is QUIET. -/
def quietAge : Nat := 4
/-- R43: the silence age at which an entry is LOST. -/
def lostAge : Nat := 16
/-- R43: the silence age saturates here. -/
def silenceMax : Nat := 255

/-! Claim Map -/

/-- R49: entries of the claim map. -/
def claimMapSize : Nat := 48
/-- R52: the refresh age at which a heard entry is removed. -/
def claimAge : Nat := 8
/-- R54: own stakes at most. -/
def ownStakeLimit : Nat := 4
/-- R60: the settle count. -/
def settleCount : Nat := 2
/-- R62, R67: the linger count. -/
def lingerCount : Nat := 2
/-- R72: watches. -/
def watchCount : Nat := 4

/-! Exposure Accountant -/

/-- R78, R80, R161: two-byte counts saturate here. -/
def countMax : Nat := 65535
/-- R81: the largest slack. -/
def slackMax : Nat := 4095
/-- R81: the largest aging credit. -/
def creditMax : Nat := 511

/-! Handover Engine -/

/-- R89: slots of the handover table. -/
def slotCount : Nat := 16
/-- R96: state timer at which the second OFFER is queued. -/
def offerSecond : Nat := 2
/-- R96: state timer at which the third OFFER is queued. -/
def offerThird : Nat := 4
/-- R96: state timer at which the offer window expires. -/
def offerWindow : Nat := 6
/-- R115: the answer window. -/
def answerWindow : Nat := 4
/-- R117: the AGREED timer. -/
def agreedWindow : Nat := 4
/-- R128: run entries. -/
def runSize : Nat := 12
/-- R130: the service window. -/
def serviceWindow : Nat := 12
/-- R140: the adoption timer after ADOPT SENT and after a CEDE with the last flag clear. -/
def adoptionWait : Nat := 8
/-- R140: the adoption timer after a CEDE with the last flag set. -/
def adoptionLastWait : Nat := 3
/-- R144: CEDEs queued in one turn. -/
def cedeAttempts : Nat := 3

/-! Drive Link -/

/-- R158: notices in the queue. -/
def noticeQueueSize : Nat := 8
/-- R150: the longest parameter length that is gathered. -/
def maxParams : Nat := 250

/-! Free values (no body: nothing can be proved about them) -/

/-- R50 names the greatest refresh age and then the higher claimant number, and does not say which entry goes when one claimant
has several entries of that age. The free value picks one: it is given the number of free values drawn before and the cells that
tie, and is taken modulo their number. DESIGN CHOICE, assumption log 12. Safe. -/
opaque evictionTie : Nat → List Cell → Nat

/-- No rule states the outcome class and detail of a WATCH_HIT, PEER_STATE, CLASH or LAPSE_ENDED notice. One free value for each
kind. DESIGN CHOICE, assumption log 13. Safe. -/
opaque plainOutcome : NoticeKind → OutcomePair

end Sys2Proof.Config
end

