-- ==== Sys2Proof/Machine/Frames.lean ====
section
/-! DEFINITION. Frames on the grid line: byte order, the bodies' layouts and their validity (R22 to R28, R32), the envelope and
the check (R1, R20, R31), and the bits on the wire (R1). -/

namespace Sys2Proof.Machine

/-! ## Byte order: most significant byte first (02, section 2.3; R151) -/

def bytes16 (x : BitVec 16) : List Byte := [x.extractLsb' 8 8, x.extractLsb' 0 8]

def bytes32 (x : BitVec 32) : List Byte :=
  [x.extractLsb' 24 8, x.extractLsb' 16 8, x.extractLsb' 8 8, x.extractLsb' 0 8]

def word16 (hi lo : Byte) : BitVec 16 := hi ++ lo

def word32 (b3 b2 b1 b0 : Byte) : BitVec 32 := b3 ++ b2 ++ b1 ++ b0

/-- A count or quantity as one byte, and as two bytes, most significant first. -/
def byteOf (n : Nat) : Byte := BitVec.ofNat 8 n

def bytesOfNat16 (n : Nat) : List Byte := bytes16 (BitVec.ofNat 16 n)

def flagByte (b : Bool) : Byte := if b then 1#8 else 0#8

def cellBytes (c : Cell) : List Byte := [c.row, c.col]

def tagBytes (t : Tag) : List Byte := [t.giver, t.seq]

/-! ## Bodies as bytes -/

/-- The kind byte (R20). -/
def bodyKind : Body → Byte
  | .presence _ => 1#8
  | .stake _ => 2#8
  | .unstake _ => 3#8
  | .offer _ => 4#8
  | .agree _ => 5#8
  | .decline _ => 6#8
  | .bind _ => 7#8
  | .setdown _ => 8#8
  | .lifted _ => 9#8
  | .cancel _ => 10#8
  | .adopt _ => 11#8
  | .cede _ => 12#8
  | .receipt _ => 13#8

def bodyIsPresence : Body → Bool
  | .presence _ => true
  | _ => false

def stakeItemBytes (i : StakeItem) : List Byte :=
  cellBytes i.cell ++ tagBytes i.tag ++ bytes16 i.key ++ [i.phase]

/-- R32: the PRESENCE body, the stake count in byte 7. -/
def presenceBytes (b : PresenceBody) : List Byte :=
  [b.state] ++ cellBytes b.position ++ bytes32 b.hoistBin ++ [byteOf b.stakes.length] ++ b.stakes.flatMap stakeItemBytes

def cedePartBytes (p : CedePart) : List Byte :=
  tagBytes p.tag ++ [p.role, p.partner] ++ bytes32 p.bin ++ [p.cls] ++ bytes16 p.e ++ cellBytes p.cell ++ [p.state, p.location]

/-- The bytes of a body, in the order of the tables of R23 to R28. -/
def bodyBytes : Body → List Byte
  | .presence b => presenceBytes b
  | .stake b => cellBytes b.cell ++ tagBytes b.tag ++ bytes16 b.key
  | .unstake b => cellBytes b.cell ++ tagBytes b.tag
  | .offer b =>
    tagBytes b.tag ++ bytes32 b.bin ++ [b.cls] ++ bytes16 b.slack ++ cellBytes b.cell ++ [b.taker, b.placed, b.ordinal]
  | .agree b => tagBytes b.tag ++ [b.taker]
  | .decline b => tagBytes b.tag ++ [b.taker, b.reason]
  | .bind b => tagBytes b.tag ++ [b.taker]
  | .setdown b => tagBytes b.tag ++ cellBytes b.cell ++ bytes32 b.bin ++ bytes16 b.e
  | .lifted b => tagBytes b.tag ++ [b.taker] ++ bytes32 b.bin
  | .cancel b => tagBytes b.tag ++ [b.reason]
  | .adopt b => [b.target]
  | .cede b => [b.adopter, b.flags] ++ (match b.part with | some p => cedePartBytes p | none => [])
  | .receipt b =>
    tagBytes b.tag ++ [b.ceder, b.outcome, b.reason] ++ (match b.cell with | some c => cellBytes c | none => [])

def parseStakeItems : List Byte → Option (List StakeItem)
  | [] => some []
  | r :: c :: g :: s :: k1 :: k0 :: ph :: rest =>
    match parseStakeItems rest with
    | some items => some (⟨⟨r, c⟩, ⟨g, s⟩, word16 k1 k0, ph⟩ :: items)
    | none => none
  | _ => none

/-- R23, R32: the length must agree with the stake count. -/
def parsePresence : List Byte → Option PresenceBody
  | st :: r :: c :: b3 :: b2 :: b1 :: b0 :: n :: rest =>
    match parseStakeItems rest with
    | some items => if items.length = n.toNat then some ⟨st, ⟨r, c⟩, word32 b3 b2 b1 b0, items⟩ else none
    | none => none
  | _ => none

def parseCedePart : List Byte → Option CedePart
  | [g, s, ro, pa, b3, b2, b1, b0, cl, e1, e0, r, c, st, lo] =>
    some ⟨⟨g, s⟩, ro, pa, word32 b3 b2 b1 b0, cl, word16 e1 e0, ⟨r, c⟩, st, lo⟩
  | _ => none

/-- The body of a kind from its bytes; none when the length is not one the kind allows (R22). -/
def parseBody (kind : Byte) (bs : List Byte) : Option Body :=
  match kind.toNat, bs with
  | 1, bs => (parsePresence bs).map .presence
  | 2, [r, c, g, s, k1, k0] => some (.stake ⟨⟨r, c⟩, ⟨g, s⟩, word16 k1 k0⟩)
  | 3, [r, c, g, s] => some (.unstake ⟨⟨r, c⟩, ⟨g, s⟩⟩)
  | 4, [g, s, b3, b2, b1, b0, cl, s1, s0, r, c, t, p, o] =>
    some (.offer ⟨⟨g, s⟩, word32 b3 b2 b1 b0, cl, word16 s1 s0, ⟨r, c⟩, t, p, o⟩)
  | 5, [g, s, t] => some (.agree ⟨⟨g, s⟩, t⟩)
  | 6, [g, s, t, re] => some (.decline ⟨⟨g, s⟩, t, re⟩)
  | 7, [g, s, t] => some (.bind ⟨⟨g, s⟩, t⟩)
  | 8, [g, s, r, c, b3, b2, b1, b0, e1, e0] => some (.setdown ⟨⟨g, s⟩, ⟨r, c⟩, word32 b3 b2 b1 b0, word16 e1 e0⟩)
  | 9, [g, s, t, b3, b2, b1, b0] => some (.lifted ⟨⟨g, s⟩, t, word32 b3 b2 b1 b0⟩)
  | 10, [g, s, re] => some (.cancel ⟨⟨g, s⟩, re⟩)
  | 11, [t] => some (.adopt ⟨t⟩)
  | 12, [a, f] => some (.cede ⟨a, f, none⟩)
  | 12, a :: f :: rest => (parseCedePart rest).map fun p => .cede ⟨a, f, some p⟩
  | 13, [g, s, ce, o, re] => some (.receipt ⟨⟨g, s⟩, ce, o, re, none⟩)
  | 13, [g, s, ce, o, re, r, c] => some (.receipt ⟨⟨g, s⟩, ce, o, re, some ⟨r, c⟩⟩)
  | _, _ => none

/-! ## Validity of a body (R22 and the rule of each kind) -/

def stationInRange (s : Station) : Bool := 1 ≤ s.toNat && s.toNat ≤ 31

def stationOrZero (s : Station) : Bool := s.toNat ≤ 31

def tagInRange (t : Tag) : Bool := stationInRange t.giver

def keyInRange (k : BitVec 16) : Bool := k.toNat ≤ Config.slackMax

def stakeItemValid (i : StakeItem) : Bool :=
  i.cell.onGrid && tagInRange i.tag && keyInRange i.key && (1 ≤ i.phase.toNat && i.phase.toNat ≤ 3)

/-- No two entries name the same cell (R23). -/
def cellsDistinct : List StakeItem → Bool
  | [] => true
  | i :: rest => rest.all (fun j => j.cell != i.cell) && cellsDistinct rest

/-- The five combinations of role, state and account location of a cedable record, and the partner range (R28). -/
def cedePartValid (p : CedePart) : Bool :=
  tagInRange p.tag && stationOrZero p.partner && (p.partner != 0#8 || p.state == 2#8) && p.bin != 0#32 && p.cls.toNat ≤ 2 &&
  p.cell.onGrid &&
  (match p.role.toNat, p.state.toNat, p.location.toNat with
   | 1, 1, 2 => true
   | 1, 2, 2 => true
   | 2, 3, 0 => true
   | 2, 4, 0 => true
   | 2, 5, 3 => true
   | _, _, _ => false)

def cedeLast (b : CedeBody) : Bool := b.flags.getLsbD 0

def cedePresent (b : CedeBody) : Bool := b.flags.getLsbD 1

/-- R28, R31: flags bits 7..2 clear, the record part present exactly with its flag, no record part only with the last flag. -/
def cedeValid (b : CedeBody) : Bool :=
  stationInRange b.adopter && b.flags.toNat < 4 &&
  (match b.part with
   | some p => cedePresent b && cedePartValid p
   | none => !cedePresent b && cedeLast b)

/-- R28: the reason agrees with the outcome, and a cell only with TAKEN. -/
def receiptValid (b : ReceiptBody) : Bool :=
  tagInRange b.tag && stationInRange b.ceder &&
  (match b.outcome.toNat with
   | 0 => b.reason == 0#8 && (match b.cell with | some c => c.onGrid | none => true)
   | 1 => (1 ≤ b.reason.toNat && b.reason.toNat ≤ 4) && b.cell.isNone
   | _ => false)

/-- R22 to R28: every field in its range and every condition between fields, for a frame of this origin. -/
def bodyValid (origin : Station) : Body → Bool
  | .presence b =>
    (1 ≤ b.state.toNat && b.state.toNat ≤ 4) && b.position.onGrid && b.stakes.length ≤ 4 && b.stakes.all stakeItemValid &&
    cellsDistinct b.stakes
  | .stake b => b.cell.onGrid && tagInRange b.tag && keyInRange b.key
  | .unstake b => b.cell.onGrid && tagInRange b.tag
  | .offer b =>
    tagInRange b.tag && b.bin != 0#32 && b.cls.toNat ≤ 2 && keyInRange b.slack && b.cell.onGrid && stationOrZero b.taker &&
    b.placed.toNat ≤ 1 && b.ordinal.toNat ≤ 12
  | .agree b => tagInRange b.tag && stationInRange b.taker && b.taker == origin
  | .decline b =>
    tagInRange b.tag && stationInRange b.taker && b.taker == origin && (1 ≤ b.reason.toNat && b.reason.toNat ≤ 4)
  | .bind b => tagInRange b.tag && stationInRange b.taker
  | .setdown b => tagInRange b.tag && b.cell.onGrid && b.bin != 0#32
  | .lifted b => tagInRange b.tag && stationInRange b.taker && b.taker == origin && b.bin != 0#32
  | .cancel b => tagInRange b.tag && (1 ≤ b.reason.toNat && b.reason.toNat ≤ 3)
  | .adopt b => stationInRange b.target
  | .cede b => cedeValid b
  | .receipt b => receiptValid b

/-! ## The envelope and the check -/

/-- A frame: the envelope fields of R20 and the body. `relayed` is hop 1. -/
structure Frame where
  sect : BitVec 4
  relayed : Bool
  origin : Station
  seq : Byte
  body : Body
  deriving DecidableEq, Repr, Inhabited

/-- One bit of the cyclic redundancy check, generator x^16 + x^12 + x^5 + 1 (R1). -/
def crcShift (r : BitVec 16) : BitVec 16 :=
  if r.msb then (r <<< 1) ^^^ 0x1021#16 else r <<< 1

/-- The bits of one byte, most significant first (R1). -/
def crcByte (r : BitVec 16) (b : Byte) : BitVec 16 :=
  crcShift (crcShift (crcShift (crcShift (crcShift (crcShift (crcShift (crcShift (r ^^^ (b ++ 0#8)))))))))

/-- R1: the check over the frame bytes, from an initial remainder of all ones, neither reflected nor inverted. -/
def crc16 (bs : List Byte) : BitVec 16 := bs.foldl crcByte 0xFFFF#16

/-- R31: bytes 0 to 4+L, the envelope and the body. -/
def frameBytes (f : Frame) : List Byte :=
  let body := bodyBytes f.body
  [bodyKind f.body, (if f.relayed then 1#4 else 0#4) ++ f.sect, f.origin, f.seq, byteOf body.length] ++ body

/-- R31: the frame bytes, then the check, high byte first. -/
def wireBytes (f : Frame) : List Byte := frameBytes f ++ bytes16 (crc16 (frameBytes f))

def byteBits (b : Byte) : List Bool :=
  [b.getLsbD 7, b.getLsbD 6, b.getLsbD 5, b.getLsbD 4, b.getLsbD 3, b.getLsbD 2, b.getLsbD 1, b.getLsbD 0]

/-- R1: what a frame is on the wire: a preamble of 32 alternating bits from 1, the sync marker 2D D4, the frame bytes, the check. -/
def wireBits (f : Frame) : List Bool :=
  (List.replicate 16 [true, false]).flatten ++ ([0x2D#8, 0xD4#8] ++ wireBytes f).flatMap byteBits

/-- R1: the air time in microseconds at 250 kbit/s, 4 µs a bit. -/
def airTime (f : Frame) : Nat := 4 * (wireBits f).length

/-- A received frame that has passed the first check of the receive filter: the envelope bytes and the body bytes. -/
structure RawFrame where
  kind : Byte
  hopSect : Byte
  origin : Station
  seq : Byte
  body : List Byte
  deriving DecidableEq, Repr

/-- R15, the first check: not cut short, a body length of 36 or less, and the check computed equals the check received. The frame
ends with the bytes its length announces (R1). -/
def checkFrame : List Byte → Option RawFrame
  | k :: hs :: o :: sq :: len :: rest =>
    let body := rest.take len.toNat
    if len.toNat ≤ Config.maxBody ∧ len.toNat + 2 ≤ rest.length ∧
        (rest.drop len.toNat).take 2 = bytes16 (crc16 (k :: hs :: o :: sq :: len :: body)) then
      some ⟨k, hs, o, sq, body⟩
    else none
  | _ => none

def rawHop (f : RawFrame) : BitVec 4 := f.hopSect.extractLsb' 4 4

def rawSect (f : RawFrame) : BitVec 4 := f.hopSect.extractLsb' 0 4

/-- R16, step 3: kind 1..13, hop 0 or 1, origin 1..31. -/
def envelopeInRange (f : RawFrame) : Bool :=
  (1 ≤ f.kind.toNat && f.kind.toNat ≤ 13) && (rawHop f).toNat ≤ 1 && stationInRange f.origin

end Sys2Proof.Machine
end

