-- ==== Sys2Proof/Machine/State.lean ====
section
/-! DEFINITION. The state of the part as plain data, block by block (spec/00, "Block diagram"), the reasons a step could stop,
and the state after reset (a cold start, R165). -/

namespace Sys2Proof.Machine

/-- The faults of the machine: none. The spec gives the part no fault; no meaning answers one. Safe. -/
inductive Fault where
  deriving DecidableEq, Repr

/-- The refusals of the machine. -/
inductive Refusal where
  /-- Raised by `exec` for a command that has no meaning in the model; no command is left so. Safe. -/
  | notModelled (mnemonic : String)
  deriving DecidableEq, Repr

/-! ## Line Port (01) -/

/-- The line modes (R3). -/
inductive LineMode where
  | normal
  | mute
  deriving DecidableEq, Repr, Inhabited

/-- The transmitter states (01, section 1.4). -/
inductive TxState where
  | off
  | idle
  | quietWait
  | defer
  | send
  deriving DecidableEq, Repr, Inhabited

/-- Who queued a frame (R5). -/
inductive Sender where
  | peerRoster
  | claimMap
  | engine
  | relay
  deriving DecidableEq, Repr, Inhabited

/-- Why a frame ended DROPPED (R14). -/
inductive DropReason where
  | lineCongested
  | lineMuted
  deriving DecidableEq, Repr, Inhabited

/-- One entry of the transmit queue (R5). -/
structure TxEntry where
  frame : Frame
  sender : Sender
  collisions : Nat
  deriving DecidableEq, Repr, Inhabited

/-- One pair of the recent-frame list (R18). -/
structure RecentPair where
  origin : Station
  seq : Byte
  age : Nat
  deriving DecidableEq, Repr, Inhabited

/-- The Line Port. Whether the port is on is "the station is not UNCONFIGURED" (R2), and the effective line mode follows from
`requested` and `forcedMute` (R3). `remaining` is none while no draw has been made in the attempt (R9). -/
structure LinePort where
  station : Station
  sect : Byte
  relay : Bool
  requested : LineMode
  forcedMute : Bool
  window : Nat
  generator : Nat
  tx : TxState
  remaining : Option Nat
  queue : List TxEntry
  recent : List RecentPair
  seqCounter : Byte
  carrier : Bool
  deriving DecidableEq, Repr, Inhabited

/-! ## Peer Roster (03) -/

/-- The own station states (R34). -/
inductive StationState where
  | unconfigured
  | joining
  | active
  | lapsed
  | ceding
  deriving DecidableEq, Repr, Inhabited

/-- The link states of a roster entry (R43). -/
inductive LinkState where
  | heard
  | quiet
  | lost
  deriving DecidableEq, Repr, Inhabited

/-- One roster entry (03, section 3.4). -/
structure RosterEntry where
  station : Station
  announced : Option StationState
  position : Option Cell
  hoistBin : Option BinId
  age : Nat
  link : LinkState
  deriving DecidableEq, Repr, Inhabited

/-- The Peer Roster. A timer is none when it is stopped, else the beacon-period expiries left. The roster stands in ascending
order of station (R42). -/
structure PeerRoster where
  state : StationState
  joinTimer : Option Nat
  silenceTimer : Option Nat
  hostReturned : Bool
  roster : List RosterEntry
  deriving DecidableEq, Repr, Inhabited

/-! ## Claim Map (04) -/

/-- The phases of a stake (R49, R54). -/
inductive Phase where
  | contested
  | held
  | placed
  deriving DecidableEq, Repr, Inhabited

/-- What an own stake serves (04, section 4.2). -/
inductive StakeUse where
  | slot (n : Nat)
  | runHold
  | linger
  deriving DecidableEq, Repr, Inhabited

/-- The STAKE outcome of a CONTESTED own stake: awaited for the frame of this sequence number (R14, R60), or SENT. -/
inductive StakeOutcome where
  | awaited (seq : Byte)
  | sent
  deriving DecidableEq, Repr, Inhabited

/-- The further fields of an own entry (04, section 4.2). The outcome is none once the stake is not CONTESTED. -/
structure OwnStake where
  use : StakeUse
  outcome : Option StakeOutcome
  settle : Option Nat
  linger : Option Nat
  rival : Option Station
  deriving DecidableEq, Repr, Inhabited

/-- One entry of the claim map (R49); `own` is none for a heard entry. -/
structure Claim where
  cell : Cell
  claimant : Station
  tag : Tag
  key : Nat
  phase : Phase
  age : Nat
  own : Option OwnStake
  deriving DecidableEq, Repr, Inhabited

/-- One set watch (R72). -/
structure Watch where
  row : Byte
  col : Byte
  station : Byte
  deriving DecidableEq, Repr, Inhabited

/-- The Claim Map. The entries stand in ascending order of row, column, claimant (R49). -/
structure ClaimMap where
  entries : List Claim
  watches : List (Option Watch)
  deriving DecidableEq, Repr, Inhabited

/-! ## Exposure Accountant (05) -/

/-- Where an account's bin is (R75). -/
inductive Location where
  | hoist
  | cell
  | shadow
  deriving DecidableEq, Repr, Inhabited

/-- An account (05, section 5.1). -/
structure Account where
  bin : BinId
  cls : BinClass
  e : Nat
  location : Location
  spent : Bool
  wait : Nat
  deriving DecidableEq, Repr, Inhabited

/-- The 17 account positions: H and one for each record slot (R75). -/
structure Accounts where
  hoist : Option Account
  slots : List (Option Account)
  deriving DecidableEq, Repr, Inhabited

/-! ## Handover Engine (06, 07, 08, 09) -/

/-- The giver states (06, section 6.2). -/
inductive GiverState where
  | pending
  | staking
  | offering
  | bound
  | placed
  | unbound
  | ended
  deriving DecidableEq, Repr, Inhabited

/-- The taker states (07, section 7.1). -/
inductive TakerState where
  | invited
  | agreed
  | bound
  | ready
  | ended
  deriving DecidableEq, Repr, Inhabited

/-- Role and state of a record (R90). -/
inductive RecState where
  | giver (s : GiverState)
  | taker (s : TakerState)
  deriving DecidableEq, Repr, Inhabited

/-- The status of a staking request (04, section 4.2). -/
inductive RequestStatus where
  | contesting
  | limit
  | ownUse
  | blocked
  | outranked
  | afterDrop
  deriving DecidableEq, Repr, Inhabited

/-- The LIFTED mark of a taker record (R112). -/
inductive LiftedMark where
  | none
  | awaited
  | owed
  | sent
  deriving DecidableEq, Repr, Inhabited

/-- One notice of a record's pending-notice set (R92): its kind and the values taken when it was raised. -/
structure PendingNotice where
  kind : NoticeKind
  outcome : OutcomePair
  station : Station
  values : List Byte
  deriving DecidableEq, Repr, Inhabited

/-- A handover record (R90, R112). The slot is the record's place in the table; the account position follows from the state
(R75). `request` is the status of the staking request. The last six fields are implied by R92, R111, R120 and R14: the end value,
whether the end notice has been collected, and the sequence numbers of the frames whose ending the record awaits. -/
structure Record where
  tag : Tag
  state : RecState
  partner : Station
  bin : BinId
  cls : BinClass
  cell : Cell
  outcome : Option OutcomePair
  ordinal : Nat
  placed : Bool
  addressed : Bool
  offers : Nat
  timer : Nat
  frozenKey : Option Nat
  setdownOwed : Bool
  notices : List PendingNotice
  lifted : LiftedMark
  request : Option RequestStatus
  endValue : Nat
  endCollected : Bool
  agreeFrame : Option Byte
  bindFrame : Option Byte
  setdownFrame : Option Byte
  liftedFrame : Option Byte
  deriving DecidableEq, Repr, Inhabited

/-- The run states (08, section 8.1). -/
inductive RunState where
  | none
  | awaitingNext
  | inEntry
  | ending
  | ended
  deriving DecidableEq, Repr, Inhabited

/-- The entry states of a run (08, section 8.1). -/
inductive EntryState where
  | waiting
  | withdrawn
  | active
  | done
  | failed
  | skipped
  | notStarted
  deriving DecidableEq, Repr, Inhabited

/-- One entry of the run list; its ordinal is its place, from 1. -/
structure RunEntry where
  bin : BinId
  cls : BinClass
  taker : Station
  state : EntryState
  deriving DecidableEq, Repr, Inhabited

/-- The end-notice mark of the run list (R137). -/
inductive EndMark where
  | none
  | owed
  | queued
  deriving DecidableEq, Repr, Inhabited

/-- The run list (08, section 8.1); the entry count is the number of entries. -/
structure RunList where
  state : RunState
  cell : Cell
  skip : Bool
  entries : List RunEntry
  next : Nat
  timer : Option Nat
  outcome : Option OutcomePair
  mark : EndMark
  deriving DecidableEq, Repr, Inhabited

/-- The phases of an adoption (09, section 9.1). -/
inductive AdoptionPhase where
  | none
  | sending
  | listening
  deriving DecidableEq, Repr, Inhabited

/-- The adoption state; the arrived count is the number of arrived tags. `frame` is the ADOPT whose ending is awaited (R140). -/
structure Adoption where
  phase : AdoptionPhase
  target : Station
  timer : Option Nat
  arrived : List Tag
  frame : Option Byte
  deriving DecidableEq, Repr, Inhabited

/-- What is being ceded now (09, section 9.2). -/
inductive Turn where
  | none
  | tag (t : Tag)
  | emptyCede
  deriving DecidableEq, Repr, Inhabited

/-- The ceding state. `broken` is set once the turn's record has ended or stopped being cedable in its turn (R145); `frame` is the empty CEDE
whose ending is awaited (R144). -/
structure Ceding where
  adopter : Option Station
  tags : List Tag
  turn : Turn
  attempts : Nat
  broken : Bool
  ceded : Nat
  stranded : Nat
  frame : Option Byte
  deriving DecidableEq, Repr, Inhabited

/-- The Handover Engine. -/
structure Engine where
  table : List (Option Record)
  tagCounter : Byte
  run : RunList
  adoption : Adoption
  ceding : Ceding
  deriving DecidableEq, Repr, Inhabited

/-! ## Drive Link (10) -/

/-- The link phases (R148). -/
inductive LinkPhase where
  | idle
  | gather
  | result
  deriving DecidableEq, Repr, Inhabited

/-- One notice of the notice queue: the fields of the notice record (R33, R158). -/
structure Notice where
  kind : NoticeKind
  outcome : OutcomePair
  slot : Option Nat
  tag : Option Tag
  values : List Byte
  station : Station
  deriving DecidableEq, Repr, Inhabited

/-- The five summary flags (R148, R156). -/
structure SummaryFlags where
  noticeLost : Bool
  peerChange : Bool
  watchHit : Bool
  clash : Bool
  budget : Bool
  deriving DecidableEq, Repr, Inhabited

/-- The Drive Link. `gathered` holds code, length and parameters in GATHER; `result` what is left of the result in RESULT;
`dataOut` the byte last returned, none while DATA-OUT is at high impedance. -/
structure DriveLink where
  phase : LinkPhase
  gathered : List Byte
  result : List Byte
  outOfPhase : Bool
  incomplete : Bool
  notices : List Notice
  flags : SummaryFlags
  retentionRead : Bool
  position : Cell
  selected : Bool
  dataOut : Option Byte
  deriving DecidableEq, Repr, Inhabited

/-! ## Retention Monitor and the Timebase's counter (11) -/

/-- The power states (R161); `unpowered` is the time before the first application of power, when the station is in neither. -/
inductive PowerState where
  | run
  | retain
  | unpowered
  deriving DecidableEq, Repr, Inhabited

/-- The Retention Monitor, its two inputs, and the backup seconds counter of the Timebase. -/
structure Power where
  state : PowerState
  holdLatch : Bool
  backup : Nat
  mainPower : Bool
  resetHeld : Bool
  deriving DecidableEq, Repr, Inhabited

/-! ## The whole part -/

/-- Everything but the queue of waiting commands. `freeCount` is the model's own: the number of free values drawn so far. -/
structure Device where
  line : LinePort
  peers : PeerRoster
  claims : ClaimMap
  accounts : Accounts
  engine : Engine
  link : DriveLink
  power : Power
  freeCount : Nat
  deriving DecidableEq, Repr, Inhabited

/-- The state: the part, and the commands that are waiting, first in, first out. -/
structure State extends Device where
  pending : List Instr
  deriving DecidableEq, Repr

/-! ## After a cold start (R165 and the start tables of each chapter) -/

def RunList.initial : RunList :=
  { state := .none, cell := ⟨0#8, 0#8⟩, skip := false, entries := [], next := 0, timer := none, outcome := none, mark := .none }

def Adoption.initial : Adoption :=
  { phase := .none, target := 0#8, timer := none, arrived := [], frame := none }

def Ceding.initial : Ceding :=
  { adopter := none, tags := [], turn := .none, attempts := 0, broken := false, ceded := 0, stranded := 0, frame := none }

def SummaryFlags.clear : SummaryFlags :=
  { noticeLost := false, peerChange := false, watchHit := false, clash := false, budget := false }

/-- R165: the START notice with outcome DONE(OK) and the downtime in v0..v1 (R33); slot, tag and station none. -/
def Notice.start (downtime : Nat) : Notice :=
  { kind := .start, outcome := ⟨.done, .ok⟩, slot := none, tag := none, values := bytesOfNat16 downtime, station := 0#8 }

/-- R165: all state at its initial value, with the START notice queued. The values no rule gives are those of assumption log 6. -/
def Device.cold : Device :=
  { line :=
      { station := 0#8, sect := 0#8, relay := false, requested := .normal, forcedMute := false, window := Config.windowMin,
        generator := 0, tx := .off, remaining := none, queue := [], recent := [], seqCounter := 0#8, carrier := false }
    peers := { state := .unconfigured, joinTimer := none, silenceTimer := none, hostReturned := false, roster := [] }
    claims := { entries := [], watches := List.replicate Config.watchCount none }
    accounts := { hoist := none, slots := List.replicate Config.slotCount none }
    engine :=
      { table := List.replicate Config.slotCount none, tagCounter := 0#8, run := RunList.initial,
        adoption := Adoption.initial, ceding := Ceding.initial }
    link :=
      { phase := .idle, gathered := [], result := [], outOfPhase := false, incomplete := false, notices := [Notice.start 0],
        flags := SummaryFlags.clear, retentionRead := false, position := ⟨0#8, 0#8⟩, selected := false, dataOut := none }
    power := { state := .run, holdLatch := false, backup := 0, mainPower := true, resetHeld := false }
    freeCount := 0 }

/-- The machine right after reset: the state a cold start leaves, and no command waiting. -/
def State.reset : State := { Device.cold with pending := [] }

end Sys2Proof.Machine
end

