-- ==== Sys2Proof/Machine/Ops.lean ====
section
/-! DEFINITION. The named operations every block uses: block updates, the handover table, the account positions, orders, and the
notices (R92, R158, R159). -/

namespace Sys2Proof

/-! ## Codes (R33) -/

def OutcomeClass.code : OutcomeClass → Nat
  | .done => 0
  | .failed => 1
  | .refused => 2
  | .upset => 3

def Detail.code : Detail → Nat
  | .ok => 0
  | .invalidRequest => 1
  | .badLength => 2
  | .badParam => 3
  | .notConfigured => 4
  | .alreadyConfigured => 5
  | .notActive => 6
  | .lineMuted => 7
  | .wrongState => 8
  | .noSuchTag => 9
  | .tableFull => 10
  | .hoistBusy => 11
  | .hoistEmpty => 12
  | .wrongBin => 13
  | .wrongCell => 14
  | .partnerMissing => 15
  | .partnerLost => 16
  | .lostToOther => 17
  | .declined => 18
  | .noAnswer => 19
  | .lineCongested => 20
  | .cancelled => 21
  | .giverCancelled => 22
  | .recovered => 23
  | .tooLate => 24
  | .custodyConflict => 25
  | .cellConflict => 26
  | .withdrawnMet => 27
  | .overrun => 28
  | .endOfList => 29
  | .terminated => 30
  | .targetSilent => 31
  | .targetLive => 32
  | .targetBusy => 33
  | .nothingCeded => 34
  | .budgetSpent => 35
  | .resumed => 36

def NoticeKind.code : NoticeKind → Nat
  | .none => 0
  | .invite => 1
  | .bound => 2
  | .placed => 3
  | .ended => 4
  | .budgetSpent => 5
  | .partnerLost => 6
  | .partnerLapsed => 7
  | .partnerChanged => 8
  | .custodyConflict => 9
  | .cellConflict => 10
  | .arrived => 11
  | .watchHit => 12
  | .peerState => 13
  | .clash => 14
  | .adoptionEnded => 15
  | .lapseEnded => 16
  | .runEnded => 17
  | .start => 18

/-- R92: the order in which record notices are taken from a pending-notice set, ENDED last. -/
def NoticeKind.rank : NoticeKind → Nat
  | .invite => 0
  | .bound => 1
  | .placed => 2
  | .budgetSpent => 3
  | .partnerLost => 4
  | .partnerLapsed => 5
  | .partnerChanged => 6
  | .custodyConflict => 7
  | .cellConflict => 8
  | .arrived => 9
  | _ => 10

def BinClass.code : BinClass → Nat
  | .ambient => 0
  | .chilled => 1
  | .frozen => 2

/-- R77: a host's class code of 3..255 is taken as 2, frozen. -/
def BinClass.ofByte (b : Byte) : BinClass :=
  match b.toNat with
  | 0 => .ambient
  | 1 => .chilled
  | _ => .frozen

end Sys2Proof

namespace Sys2Proof.Machine

/-! ## Lists -/

/-- The members of `all` with those named in `pref` first, in the order `pref` names them; every member once. -/
def orderBy {α : Type} [DecidableEq α] : List α → List α → List α
  | [], all => all
  | p :: pref, all => if p ∈ all then p :: orderBy pref (all.erase p) else orderBy pref all

/-- The slots in ascending order. -/
def slotList : List Nat := List.range Config.slotCount

/-- Act on the slots in ascending order (R57, R94, R167; assumption log 17). -/
def forSlots (f : Nat → Device → Device) (d : Device) : Device :=
  slotList.foldl (fun d i => f i d) d

/-! ## Block updates -/

def Device.withLine (d : Device) (l : LinePort) : Device := { d with line := l }

def Device.withPeers (d : Device) (p : PeerRoster) : Device := { d with peers := p }

def Device.withClaims (d : Device) (c : ClaimMap) : Device := { d with claims := c }

def Device.withAccounts (d : Device) (a : Accounts) : Device := { d with accounts := a }

def Device.withEngine (d : Device) (e : Engine) : Device := { d with engine := e }

def Device.withLink (d : Device) (l : DriveLink) : Device := { d with link := l }

def Device.withPower (d : Device) (p : Power) : Device := { d with power := p }

def Device.withTable (d : Device) (t : List (Option Record)) : Device :=
  d.withEngine { d.engine with table := t }

def Device.withRun (d : Device) (r : RunList) : Device := d.withEngine { d.engine with run := r }

def Device.withAdoption (d : Device) (a : Adoption) : Device := d.withEngine { d.engine with adoption := a }

def Device.withCeding (d : Device) (c : Ceding) : Device := d.withEngine { d.engine with ceding := c }

/-! ## The station -/

/-- The own station number. -/
def Device.own (d : Device) : Station := d.line.station

def Device.configured (d : Device) : Bool := d.peers.state != .unconfigured

def Device.isActive (d : Device) : Bool := d.peers.state == .active

/-- R3: the line mode in force. -/
def LinePort.mode (l : LinePort) : LineMode :=
  if l.forcedMute || l.requested == .mute then .mute else .normal

def Device.muted (d : Device) : Bool := d.line.mode == .mute

def Device.running (d : Device) : Bool := d.power.state == .run

/-! ## The handover table (R89) -/

/-- The record in a slot. -/
def Device.recordAt (d : Device) (i : Nat) : Option Record :=
  match d.engine.table[i]? with
  | some r => r
  | none => none

def Device.setSlot (d : Device) (i : Nat) (r : Option Record) : Device :=
  d.withTable (d.engine.table.set i r)

/-- Change the record in a slot, if there is one. -/
def Device.modRecord (d : Device) (i : Nat) (f : Record → Record) : Device :=
  match d.recordAt i with
  | some r => d.setSlot i (some (f r))
  | none => d

/-- Whether the record in a slot, if any, has a property. -/
def Device.recordIs (d : Device) (i : Nat) (p : Record → Bool) : Bool :=
  match d.recordAt i with
  | some r => p r
  | none => false

/-- Whether some record of the table has a property. -/
def Device.anyRecord (d : Device) (p : Record → Bool) : Bool :=
  d.engine.table.any fun o => match o with
    | some r => p r
    | none => false

/-- The slot of the record with a tag (R89: at most one). -/
def Device.slotOf (d : Device) (t : Tag) : Option Nat :=
  d.engine.table.findIdx? fun o => match o with
    | some r => r.tag == t
    | none => false

/-- R89: the lowest empty slot. -/
def Device.freeSlot (d : Device) : Option Nat :=
  d.engine.table.findIdx? Option.isNone

/-- Records in the table, ENDED records included (R156). -/
def Device.recordCount (d : Device) : Nat :=
  d.engine.table.countP Option.isSome

def Record.isGiver (r : Record) : Bool :=
  match r.state with
  | .giver _ => true
  | .taker _ => false

def Record.isEnded (r : Record) : Bool :=
  r.state == .giver .ended || r.state == .taker .ended

/-- A giver record with this state and placed flag. -/
def Record.giverIn (r : Record) (s : GiverState) (placed : Bool) : Bool :=
  r.state == .giver s && r.placed == placed

/-- The empty fields of a new record (R90, R112). -/
def Record.new (t : Tag) (st : RecState) (partner : Station) (bin : BinId) (cls : BinClass) (cell : Cell) (ordinal : Nat) :
    Record :=
  { tag := t, state := st, partner := partner, bin := bin, cls := cls, cell := cell, outcome := none, ordinal := ordinal,
    placed := false, addressed := false, offers := 0, timer := 0, frozenKey := none, setdownOwed := false, notices := [],
    lifted := .none, request := none, endValue := 0, endCollected := false, agreeFrame := none, bindFrame := none,
    setdownFrame := none, liftedFrame := none }

/-! ## The account positions (R75) -/

def Device.accountAt (d : Device) : AccountPos → Option Account
  | .hoist => d.accounts.hoist
  | .slot n => match d.accounts.slots[n]? with
    | some a => a
    | none => none

def Device.setAccount (d : Device) (p : AccountPos) (a : Option Account) : Device :=
  match p with
  | .hoist => d.withAccounts { d.accounts with hoist := a }
  | .slot n => d.withAccounts { d.accounts with slots := d.accounts.slots.set n a }

/-- R76: whether any of the 17 positions holds an account of the bin. -/
def Device.holdsBin (d : Device) (b : BinId) : Bool :=
  let has : Option Account → Bool := fun o => match o with
    | some a => a.bin == b
    | none => false
  has d.accounts.hoist || d.accounts.slots.any has

/-- R75: the account position a record uses. -/
def Record.accountPos (r : Record) (i : Nat) : Option AccountPos :=
  match r.state with
  | .giver .ended => none
  | .giver .placed => some (.slot i)
  | .giver _ => if r.placed then some (.slot i) else some .hoist
  | .taker .ready => some (.slot i)
  | .taker _ => none

/-- The account a record uses: for a giver before set-down the H account when its bin is the record's (R75). -/
def Device.recordAccount (d : Device) (i : Nat) (r : Record) : Option Account :=
  match r.accountPos i with
  | none => none
  | some .hoist => match d.accounts.hoist with
    | some a => if a.bin = r.bin then some a else none
    | none => none
  | some p => d.accountAt p

/-- The E of an account, 0 for none. -/
def accountE : Option Account → Nat
  | some a => a.e
  | none => 0

/-! ## The detail of a drop (R14) -/

def DropReason.detail : DropReason → Detail
  | .lineCongested => .lineCongested
  | .lineMuted => .lineMuted

/-! ## Notices -/

/-- R158: a non-record notice joins the queue at once, or is dropped with NOTICE_LOST. -/
def Device.pushNotice (d : Device) (n : Notice) : Device :=
  if d.link.notices.length < Config.noticeQueueSize then
    d.withLink { d.link with notices := d.link.notices ++ [n] }
  else d.withLink { d.link with flags := { d.link.flags with noticeLost := true } }

/-- A non-record notice with slot and tag none. -/
def plainNotice (k : NoticeKind) (o : OutcomePair) (values : List Byte) (st : Station) : Notice :=
  { kind := k, outcome := o, slot := none, tag := none, values := values, station := st }

/-- R92: a set holds at most one notice of each kind, in the order they are taken; a raised kind replaces the one in the set. -/
def addPending (p : PendingNotice) : List PendingNotice → List PendingNotice
  | [] => [p]
  | q :: rest =>
    if p.kind.rank < q.kind.rank then p :: q :: rest
    else if p.kind.rank = q.kind.rank then p :: rest
    else q :: addPending p rest

/-- R137: the RUN_ENDED notice. Its values stand unchanged in the run list from the end of the run. -/
def RunList.lastDone (r : RunList) : Nat :=
  (List.range r.entries.length).foldl
    (fun acc i => match r.entries[i]? with
      | some e => if e.state = .done then i + 1 else acc
      | none => acc) 0

def RunList.countIn (r : RunList) (s : EntryState) : Nat := r.entries.countP fun e => e.state = s

def runEndedNotice (r : RunList) : Notice :=
  plainNotice .runEnded (r.outcome.getD ⟨.done, .ok⟩)
    [byteOf r.lastDone, byteOf r.next, byteOf (r.countIn .done), byteOf (r.countIn .skipped), byteOf (r.countIn .notStarted)] 0#8

/-- The queued form of a record's pending notice (R92): the record's slot and tag with the values taken when it was raised. -/
def recordNotice (i : Nat) (t : Tag) (p : PendingNotice) : Notice :=
  { kind := p.kind, outcome := p.outcome, slot := some i, tag := some t, values := p.values, station := p.station }

/-- The lowest slot whose record has a non-empty pending-notice set (R159). -/
def Device.owingSlot (d : Device) : Option Nat :=
  d.engine.table.findIdx? fun o => match o with
    | some r => !r.notices.isEmpty
    | none => false

/-- R159: something is owed to the notice queue. -/
def Device.owes (d : Device) : Bool :=
  d.owingSlot.isSome || d.engine.run.mark == .owed

/-- A notice joins the queue at the tail. -/
def Device.queueNotice (d : Device) (n : Notice) : Device :=
  d.withLink { d.link with notices := d.link.notices ++ [n] }

/-- R159: one owed move, from the lowest slot that owes, in the order of R92, and the owed RUN_ENDED after slot 15. The slot of
an ENDED record whose end notice has been collected is freed when the last notice of its set is queued (R92). -/
def Device.moveOne (d : Device) : Device :=
  match d.owingSlot with
  | some i =>
    match d.recordAt i with
    | some r =>
      match r.notices with
      | p :: rest =>
        let d := d.queueNotice (recordNotice i r.tag p)
        if rest.isEmpty && r.isEnded && r.endCollected then d.setSlot i none
        else d.setSlot i (some { r with notices := rest })
      | [] => d
    | none => d
  | none =>
    if d.engine.run.mark = .owed then
      (d.queueNotice (runEndedNotice d.engine.run)).withRun { d.engine.run with mark := .queued }
    else d

/-- A bounded number of owed moves, while the queue has room. -/
def moveOwedN : Nat → Device → Device
  | 0, d => d
  | n + 1, d =>
    if d.link.notices.length < Config.noticeQueueSize && d.owes then moveOwedN n d.moveOne else d

/-- R159: owed notices move into the queue until it is full or nothing is owed. At a resume the moves wait until the start's last
step (R166): there the power state is not yet RUN. -/
def Device.moveOwed (d : Device) : Device :=
  if d.running then moveOwedN Config.noticeQueueSize d else d

/-- R92: raise a record notice; its station is the record's partner at this moment. Owed moves follow at once (R159). -/
def Device.raise (d : Device) (i : Nat) (k : NoticeKind) (o : OutcomePair) (values : List Byte) : Device :=
  (d.modRecord i fun r =>
    { r with notices := addPending { kind := k, outcome := o, station := r.partner, values := values } r.notices }).moveOwed

def outcomeDone : OutcomePair := ⟨.done, .ok⟩

/-- R92: PARTNER_LOST, with the detail and the value v0 of the rule that raises it. -/
def Device.raisePartnerLost (d : Device) (i : Nat) (detail : Detail) (v0 : Byte) : Device :=
  d.raise i .partnerLost ⟨.upset, detail⟩ [v0]

/-- R92: CUSTODY_CONFLICT; its station is the partner. -/
def Device.raiseCustody (d : Device) (i : Nat) : Device :=
  d.raise i .custodyConflict ⟨.upset, .custodyConflict⟩ []

/-- The ENDED notice with the record's outcome and its end value in v0..v1 (R92, R33). -/
def Device.raiseEnded (d : Device) (i : Nat) : Device :=
  match d.recordAt i with
  | some r => d.raise i .ended (r.outcome.getD outcomeDone) (bytesOfNat16 r.endValue)
  | none => d

/-! ## Enabling conditions -/

/-- In RETAIN every block stands still (R161): an event that needs a running part changes nothing. -/
def whenRunning (f : Device → Device) (d : Device) : Device := if d.running then f d else d

/-- An event that needs a running and configured part (R2, R29). -/
def whenConfigured (f : Device → Device) (d : Device) : Device :=
  if d.running && d.configured then f d else d

/-- Every meaning of the block answers a next state; the queue of waiting commands is not its concern. -/
def act (f : Device → Device) (s : State) : Host.Outcome State Fault Refusal :=
  .next { s with toDevice := f s.toDevice }

end Sys2Proof.Machine
end

