-- ==== Sys2Proof/Machine/Flags.lean ====
section
/-! DEFINITION. The flag computations: the link status byte (R152), the line mode byte and the summary flags of READ STATUS (R156), the
pending-notice set as bits (R157) and the NOTICE pin (R158, R161). -/

namespace Sys2Proof.Machine

def bit (b : Bool) (n : Nat) : Nat := if b then 2 ^ n else 0

/-- R152: the phase bits; RESULT never shows, since no status byte is returned there. -/
def LinkPhase.code : LinkPhase → Nat
  | .idle => 0
  | .gather => 1
  | .result => 0

/-- R152: bit 4 incomplete, bit 3 out-of-phase, bit 2 notice pending, bits 1..0 the phase. -/
def DriveLink.statusByte (l : DriveLink) : Byte :=
  byteOf (bit l.incomplete 4 + bit l.outOfPhase 3 + bit (!l.notices.isEmpty) 2 + l.phase.code)

/-- R156: bit 0 NOTICE_LOST, bit 1 PEER_CHANGE, bit 2 WATCH_HIT, bit 3 CLASH, bit 4 BUDGET. -/
def SummaryFlags.byte (f : SummaryFlags) : Byte :=
  byteOf (bit f.noticeLost 0 + bit f.peerChange 1 + bit f.watchHit 2 + bit f.clash 3 + bit f.budget 4)

def LineMode.code : LineMode → Nat
  | .normal => 0
  | .mute => 1

/-- R156: the effective line mode in bit 0, the forced-mute flag in bit 1, the relay setting in bit 2. -/
def LinePort.modeByte (l : LinePort) : Byte :=
  byteOf (l.mode.code + bit l.forcedMute 1 + bit l.relay 2)

/-- R157: one bit for each kind of the pending-notice set, in the order of R92, lowest first. -/
def pendingBits (ns : List PendingNotice) : Nat :=
  (List.range 11).foldl (fun n k => n + bit (ns.any fun p => p.kind.rank == k) k) 0

/-- R158, R161: the NOTICE pin: active while the queue holds a notice, and inactive in RETAIN. -/
def Device.noticePin (d : Device) : Bool := d.running && !d.link.notices.isEmpty

end Sys2Proof.Machine
end

