-- ==== Sys2Proof/Machine/Operands.lean ====
section
/-! DEFINITION. The forms of a request (10.3): its operands, its bytes on the drive link, and the request that a code and its parameter
bytes spell. The operand forms of a frame's body stand in Frames.lean. -/

namespace Sys2Proof

/-- The requests of the catalogue (10.3), by code, with their parameters in the order given. -/
inductive Request where
  | configure (station sect relay mode : Byte)
  | setLineMode (mode : Byte)
  | readStatus
  | setPosition (cell : Cell)
  | loadBin (bin : BinId) (cls : Byte) (e0 : BitVec 16)
  | unloadBin
  | postHandover (cell : Cell) (taker : Byte)
  | reoffer (tag : Tag) (taker : Byte)
  | reportSetdown (tag : Tag)
  | reportLift (tag : Tag)
  | recover (tag : Tag)
  | answerInvite (tag : Tag) (answer : Byte)
  | cancel (tag : Tag)
  | startRun (cell : Cell) (skip count : BitVec 4) (entries : List RunItem)
  | nextEntry (ordinal : Byte)
  | withdrawEntry (ordinal : Byte)
  | endRun
  | adopt (target : Byte)
  | setWatch (index flag row col station : Byte)
  | collect
  | readRecord (slot : Byte)
  | readClaims (page : Byte)
  | readRoster (page : Byte)
  deriving DecidableEq, Repr

end Sys2Proof

namespace Sys2Proof.Machine

/-- 10.3: the request codes. -/
def requestCode : Request → Byte
  | .configure .. => 1#8
  | .setLineMode _ => 2#8
  | .readStatus => 3#8
  | .setPosition _ => 4#8
  | .loadBin .. => 5#8
  | .unloadBin => 6#8
  | .postHandover .. => 7#8
  | .reoffer .. => 8#8
  | .reportSetdown _ => 9#8
  | .reportLift _ => 10#8
  | .recover _ => 11#8
  | .answerInvite .. => 12#8
  | .cancel _ => 13#8
  | .startRun .. => 14#8
  | .nextEntry _ => 15#8
  | .withdrawEntry _ => 16#8
  | .endRun => 17#8
  | .adopt _ => 18#8
  | .setWatch .. => 19#8
  | .collect => 20#8
  | .readRecord _ => 21#8
  | .readClaims _ => 22#8
  | .readRoster _ => 23#8

/-- 10.3: one run entry: bin (4), class, taker. -/
def runItemBytes (e : RunItem) : List Byte := bytes32 e.bin ++ [e.cls, e.taker]

/-- 10.3: the parameter bytes. -/
def requestParams : Request → List Byte
  | .configure st se re mo => [st, se, re, mo]
  | .setLineMode mo => [mo]
  | .readStatus => []
  | .setPosition c => cellBytes c
  | .loadBin b cl e0 => bytes32 b ++ [cl] ++ bytes16 e0
  | .unloadBin => []
  | .postHandover c t => cellBytes c ++ [t]
  | .reoffer g t => tagBytes g ++ [t]
  | .reportSetdown g => tagBytes g
  | .reportLift g => tagBytes g
  | .recover g => tagBytes g
  | .answerInvite g a => tagBytes g ++ [a]
  | .cancel g => tagBytes g
  | .startRun c skip n es => cellBytes c ++ [skip ++ n] ++ es.flatMap runItemBytes
  | .nextEntry o => [o]
  | .withdrawEntry o => [o]
  | .endRun => []
  | .adopt t => [t]
  | .setWatch i f r c s => [i, f, r, c, s]
  | .collect => []
  | .readRecord s => [s]
  | .readClaims p => [p]
  | .readRoster p => [p]

/-- R149, R150: the bytes of a request on the drive link: code, length, parameters. -/
def requestBytes (q : Request) : List Byte :=
  [requestCode q, byteOf (requestParams q).length] ++ requestParams q

/-- The run entries that a row of bytes spells, six bytes each. -/
def parseRunItems : List Byte → Option (List RunItem)
  | [] => some []
  | b3 :: b2 :: b1 :: b0 :: cl :: tk :: rest =>
    match parseRunItems rest with
    | some items => some (⟨word32 b3 b2 b1 b0, cl, tk⟩ :: items)
    | none => none
  | _ => none

/-- R150: START RUN: the length must be 3 + 6 × n, with n in bits 3..0 of the third byte and the skip flag above it. -/
def parseStartRun : List Byte → Option Request
  | r :: c :: sn :: rest =>
    if rest.length = 6 * (sn.extractLsb' 0 4).toNat then
      (parseRunItems rest).map (.startRun ⟨r, c⟩ (sn.extractLsb' 4 4) (sn.extractLsb' 0 4))
    else none
  | _ => none

/-- R150: the request that a known code and its parameters spell; none when the length is not the code's. -/
def parseRequest (code : Byte) (ps : List Byte) : Option Request :=
  match code.toNat, ps with
  | 1, [st, se, re, mo] => some (.configure st se re mo)
  | 2, [mo] => some (.setLineMode mo)
  | 3, [] => some .readStatus
  | 4, [r, c] => some (.setPosition ⟨r, c⟩)
  | 5, [b3, b2, b1, b0, cl, e1, e0] => some (.loadBin (word32 b3 b2 b1 b0) cl (word16 e1 e0))
  | 6, [] => some .unloadBin
  | 7, [r, c, t] => some (.postHandover ⟨r, c⟩ t)
  | 8, [g, s, t] => some (.reoffer ⟨g, s⟩ t)
  | 9, [g, s] => some (.reportSetdown ⟨g, s⟩)
  | 10, [g, s] => some (.reportLift ⟨g, s⟩)
  | 11, [g, s] => some (.recover ⟨g, s⟩)
  | 12, [g, s, a] => some (.answerInvite ⟨g, s⟩ a)
  | 13, [g, s] => some (.cancel ⟨g, s⟩)
  | 14, ps => parseStartRun ps
  | 15, [o] => some (.nextEntry o)
  | 16, [o] => some (.withdrawEntry o)
  | 17, [] => some .endRun
  | 18, [t] => some (.adopt t)
  | 19, [i, f, r, c, s] => some (.setWatch i f r c s)
  | 20, [] => some .collect
  | 21, [s] => some (.readRecord s)
  | 22, [p] => some (.readClaims p)
  | 23, [p] => some (.readRoster p)
  | _, _ => none

end Sys2Proof.Machine
end

