-- ==== Sys2Proof/Machine/Line.lean ====
section
/-! DEFINITION. The Line Port's own state (01): admission to the transmit queue (R5 to R8), medium access (R9, R10), the recent-frame
list (R18). What a frame's ending does to the block that queued it stands in Reports.lean. -/

namespace Sys2Proof.Machine

/-- What becomes of an own frame when it is offered (R6, R7, R14): it joins under a sequence number, or ends DROPPED at once. -/
inductive Offered where
  | joined (seq : Byte)
  | dropped (reason : DropReason)
  deriving DecidableEq, Repr

/-- R20: an own frame: own section, hop 0, own station as origin, the sequence given. -/
def LinePort.ownFrame (l : LinePort) (b : Body) (seq : Byte) : Frame :=
  { sect := l.sect.extractLsb' 0 4, relayed := false, origin := l.station, seq := seq, body := b }

/-- The head is on the wire (R6). -/
def LinePort.onWire (l : LinePort) : Bool := l.tx == .send

/-- R9: medium access begins afresh for the head: QUIET_WAIT, no draw made. -/
def LinePort.startAccess (l : LinePort) : LinePort := { l with tx := .quietWait, remaining := none }

/-- R5: an entry joins at the tail with collision count 0; in an empty queue it becomes the head (R9). -/
def LinePort.append (l : LinePort) (f : Frame) (s : Sender) : LinePort :=
  let e : TxEntry := { frame := f, sender := s, collisions := 0 }
  let l' := { l with queue := l.queue ++ [e] }
  if l.queue.isEmpty then l'.startAccess else l'

/-- The last index whose entry has a property. -/
def lastIdx {α : Type} (p : α → Bool) : List α → Option Nat
  | [] => none
  | x :: xs =>
    match lastIdx p xs with
    | some k => some (k + 1)
    | none => if p x then some 0 else none

/-- R6: the place of the newest relayed frame that is not on the wire. -/
def LinePort.newestRelayed (l : LinePort) : Option Nat :=
  let isRelay : TxEntry → Bool := fun e => e.sender == .relay
  if l.onWire then (lastIdx isRelay l.queue.tail).map (· + 1) else lastIdx isRelay l.queue

/-- R6, R13: the entry leaves; when it was the waiting head, the next entry starts medium access afresh. -/
def LinePort.removeAt (l : LinePort) (k : Nat) : LinePort :=
  let l' := { l with queue := l.queue.eraseIdx k }
  if k = 0 then l'.startAccess else l'

/-- An own frame joins at the tail under the counter's number, which then advances (R5, R21). -/
def LinePort.joinTail (l : LinePort) (s : Sender) (b : Body) : LinePort × Offered :=
  ({ l.append (l.ownFrame b l.seqCounter) s with seqCounter := l.seqCounter + 1#8 }, .joined l.seqCounter)

/-- R6: admission of an own frame other than PRESENCE in line mode NORMAL: append, displace a relayed frame, or DROPPED. -/
def LinePort.offerPlain (l : LinePort) (s : Sender) (b : Body) : LinePort × Offered :=
  if l.queue.length < Config.queueSize then l.joinTail s b
  else
    match l.newestRelayed with
    | some k => (l.removeAt k).joinTail s b
    | none => (l, .dropped .lineCongested)

/-- The place of a queued PRESENCE (R5: at most one). -/
def LinePort.presenceAt (l : LinePort) : Option Nat :=
  l.queue.findIdx? fun e => bodyIsPresence e.frame.body

/-- R7: admission of an own PRESENCE in line mode NORMAL. A waiting PRESENCE is replaced in its place, keeping the collision
count and the state of medium access; one on the wire stays and the new one ends DROPPED. -/
def LinePort.offerPresence (l : LinePort) (b : Body) : LinePort × Offered :=
  match l.presenceAt with
  | none => l.offerPlain .peerRoster b
  | some k =>
    if k = 0 ∧ l.onWire then (l, .dropped .lineCongested)
    else
      let q := l.queue.modify k fun e => { e with frame := l.ownFrame b l.seqCounter, sender := .peerRoster }
      ({ l with queue := q, seqCounter := l.seqCounter + 1#8 }, .joined l.seqCounter)

/-- An own frame offered by a block: DROPPED(LINE_MUTED) in MUTE (R4), else R6 or R7. -/
def LinePort.offer (l : LinePort) (s : Sender) (b : Body) : LinePort × Offered :=
  if l.mode = .mute then (l, .dropped .lineMuted)
  else if bodyIsPresence b then l.offerPresence b else l.offerPlain s b

/-- R8, R19: a relayed copy with hop 1 joins only while fewer than 6 entries are occupied, a PRESENCE only while none is queued;
else it is discarded without report. -/
def LinePort.offerRelay (l : LinePort) (f : Frame) : LinePort :=
  if l.queue.length < Config.relayLimit ∧ (bodyIsPresence f.body → l.presenceAt = none) then
    l.append { f with relayed := true } .relay
  else l

/-- The head leaves; the next entry becomes the head, or the transmitter is IDLE (R5, R11, R12). -/
def LinePort.popHead (l : LinePort) : LinePort :=
  let q := l.queue.tail
  { l with queue := q, tx := if q.isEmpty then .idle else .quietWait, remaining := none }

/-! ## Medium access (R9, R10) -/

/-- R10: one draw: the new generator value and the deferral. -/
def LinePort.nextGenerator (l : LinePort) : Nat := (l.generator * 25173 + 13849) % 65536

def LinePort.drawn (l : LinePort) : Nat := l.nextGenerator * l.window / 65536

/-- The transmitter counts down `r` slots; at 0 the head goes on the wire, and the line is busy with its own carrier (R1, R9). -/
def LinePort.deferWith (l : LinePort) (r : Nat) : LinePort :=
  if r = 0 then { l with tx := .send, remaining := none, carrier := true }
  else { l with tx := .defer, remaining := some r }

/-- R9: two quiet slots are complete. The first gap of an attempt draws; a later one resumes the remaining count. -/
def LinePort.quietGap (l : LinePort) : LinePort :=
  let l := { l with carrier := false }
  if l.tx = .quietWait then
    match l.remaining with
    | none => { l with generator := l.nextGenerator }.deferWith l.drawn
    | some r => l.deferWith r
  else l

/-- R9: one quiet slot passes in DEFER. -/
def LinePort.slot (l : LinePort) : LinePort :=
  let l := { l with carrier := if l.tx = .send then l.carrier else false }
  if l.tx = .defer then
    match l.remaining with
    | some r => l.deferWith (r - 1)
    | none => l
  else l

/-- R9: the last slot of the count ends. -/
def LinePort.deferEnd (l : LinePort) : LinePort :=
  if l.tx = .defer ∧ l.remaining = some 1 then l.deferWith 0 else l

/-- R9: carrier is detected; in DEFER the count stops with its remaining value. -/
def LinePort.busy (l : LinePort) : LinePort :=
  let l := { l with carrier := true }
  if l.tx = .defer then { l with tx := .quietWait } else l

/-! ## The recent-frame list (R18) -/

def LinePort.recentHas (l : LinePort) (o : Station) (s : Byte) : Bool :=
  l.recent.any fun p => p.origin == o && p.seq == s

/-- R18: the pair is added with age 0; a full list gives up the pair entered longest ago. -/
def LinePort.recentAdd (l : LinePort) (o : Station) (s : Byte) : LinePort :=
  let kept := if l.recent.length < Config.recentSize then l.recent else l.recent.tail
  { l with recent := kept ++ [{ origin := o, seq := s, age := 0 }] }

/-- R18: every pair ages by one, and a pair of age 4 is removed. -/
def LinePort.recentAges (l : LinePort) : LinePort :=
  { l with recent := (l.recent.map fun p => { p with age := p.age + 1 }).filter fun p => p.age < Config.recentAge }

/-- R18: the expiry of one pair that stands one short of age 4. -/
def LinePort.recentExpire (l : LinePort) (o : Station) (s : Byte) : LinePort :=
  { l with recent := l.recent.filter fun p => !(p.origin == o && p.seq == s && p.age + 1 == Config.recentAge) }

/-! ## On the device -/

/-- A block offers an own frame. -/
def Device.offer (d : Device) (s : Sender) (b : Body) : Device × Offered :=
  let r := d.line.offer s b
  (d.withLine r.1, r.2)

/-- An own frame whose ending its block absorbs (R14: PRESENCE, UNSTAKE, DECLINE, CANCEL, RECEIPT; also OFFER, R96). -/
def Device.sendAbsorbed (d : Device) (s : Sender) (b : Body) : Device := (d.offer s b).1

end Sys2Proof.Machine
end

