-- ==== Sys2Proof/Machine/Exposure.lean ====
section
/-! DEFINITION. The Exposure Accountant (05): the class table, accrual, spent budgets, slack and keys, account creation, moves and
removal, the downtime charge. -/

namespace Sys2Proof

/-! ## The class table (R77) -/

/-- The limit L of a class; ambient has none. -/
def BinClass.limit : BinClass → Option Nat
  | .ambient => none
  | .chilled => some 2400
  | .frozen => some 1500

/-- The open rate, for CELL and SHADOW. -/
def BinClass.openRate : BinClass → Nat
  | .ambient => 0
  | .chilled => 4
  | .frozen => 6

/-- The hoist rate. -/
def BinClass.hoistRate : BinClass → Nat
  | .ambient => 0
  | .chilled => 2
  | .frozen => 3

end Sys2Proof

namespace Sys2Proof.Machine

/-- R78: the weight of one second for an account. -/
def Account.rate (a : Account) : Nat :=
  match a.location with
  | .hoist => a.cls.hoistRate
  | .cell => a.cls.openRate
  | .shadow => a.cls.openRate

/-- R78, R87: E grows by so many seconds' weight, saturating. -/
def Account.charged (a : Account) (seconds : Nat) : Account :=
  { a with e := min Config.countMax (a.e + a.rate * seconds) }

/-! ## Slack and key (R81) -/

def Account.slack (a : Account) : Nat :=
  match a.cls.limit with
  | none => Config.slackMax
  | some l => if l ≤ a.e then 0 else min Config.slackMax ((l - a.e) / a.cls.openRate)

def Account.credit (a : Account) : Nat := min Config.creditMax (a.wait / 2)

/-- S − G, and 0 when S < G: the subtraction of natural numbers. -/
def Account.stakeKey (a : Account) : Nat := a.slack - a.credit

/-! ## Spent budgets (R79) -/

def Account.crosses (a : Account) : Bool :=
  match a.cls.limit with
  | some l => decide (l ≤ a.e) && !a.spent
  | none => false

/-- R79: an account at or above its limit with the spent flag clear: the flag is set, the BUDGET summary flag is set, and
BUDGET_SPENT is raised in the record of a slot position, or queued as a non-record notice for H (its outcome pair is that of the
kind in R92's table: DEDUCED, assumption log 14). -/
def Device.spentCheck (d : Device) (p : AccountPos) : Device :=
  match d.accountAt p with
  | some a =>
    if a.crosses then
      let d := d.setAccount p (some { a with spent := true })
      let d := d.withLink { d.link with flags := { d.link.flags with budget := true } }
      match p with
      | .hoist => d.pushNotice (plainNotice .budgetSpent ⟨.done, .budgetSpent⟩ (bytesOfNat16 a.e) 0#8)
      | .slot i => d.raise i .budgetSpent ⟨.done, .budgetSpent⟩ (bytesOfNat16 a.e)
    else d
  | none => d

/-! ## Creation, moves, removal (R83 to R86) -/

/-- An account created with a given E: W 0, spent flag clear, then the check of R79. -/
def Device.createAccount (d : Device) (p : AccountPos) (bin : BinId) (cls : BinClass) (e : Nat) (loc : Location) : Device :=
  (d.setAccount p (some { bin := bin, cls := cls, e := e, location := loc, spent := false, wait := 0 })).spentCheck p

/-- A move carries E, class, spent flag and W unchanged and leaves the source empty (R76). -/
def Device.moveAccount (d : Device) (src dst : AccountPos) (loc : Location) : Device :=
  match d.accountAt src with
  | some a => (d.setAccount src none).setAccount dst (some { a with location := loc })
  | none => d

def Device.removeAccount (d : Device) (p : AccountPos) : Device := d.setAccount p none

/-- R80: POST HANDOVER and NEXT ENTRY set the H account's staking wait to 0. -/
def Device.clearWait (d : Device) : Device :=
  match d.accounts.hoist with
  | some a => d.setAccount .hoist (some { a with wait := 0 })
  | none => d

/-! ## The accounting second (R78 to R80) -/

/-- The 17 positions. -/
def allPositions : List AccountPos := .hoist :: slotList.map .slot

/-- R78, R79: one account is counted, then its spent flag is checked. -/
def Device.countPosition (d : Device) (p : AccountPos) : Device :=
  match d.accountAt p with
  | some a => (d.setAccount p (some (a.charged 1))).spentCheck p
  | none => d

/-- R80: the H account waits while a giver record of its bin is in STAKING. -/
def Device.countWait (d : Device) : Device :=
  match d.accounts.hoist with
  | some a =>
    if d.anyRecord fun r => r.state == .giver .staking && r.bin == a.bin then
      d.setAccount .hoist (some { a with wait := min Config.countMax (a.wait + 1) })
    else d
  | none => d

/-- One accounting second; the order in which the accounts are counted is open (assumption log 10). -/
def Device.accountingSecond (order : List AccountPos) (d : Device) : Device :=
  ((orderBy order allPositions).foldl (fun d p => d.countPosition p) d).countWait

/-! ## Downtime (R87) -/

/-- R87: one retained account is charged D seconds at the rate of its location, then checked. -/
def Device.chargePosition (seconds : Nat) (d : Device) (p : AccountPos) : Device :=
  match d.accountAt p with
  | some a => (d.setAccount p (some (a.charged seconds))).spentCheck p
  | none => d

def Device.chargeDowntime (seconds : Nat) (d : Device) : Device :=
  allPositions.foldl (fun d p => d.chargePosition seconds p) d

/-! ## Values of a record's account at this moment (R82, R84, R86) -/

/-- S of the record's account, carried by an OFFER. -/
def Device.recordSlack (d : Device) (i : Nat) (r : Record) : Nat :=
  match d.recordAccount i r with
  | some a => a.slack
  | none => 0

/-- K of the H account whose bin is the record's. -/
def Device.recordKey (d : Device) (r : Record) : Nat :=
  match d.accounts.hoist with
  | some a => if a.bin = r.bin then a.stakeKey else 0
  | none => 0

/-- E of the account in a record's slot. -/
def Device.slotE (d : Device) (i : Nat) : Nat := accountE (d.accountAt (.slot i))

/-- E of the account in H. -/
def Device.hoistE (d : Device) : Nat := accountE d.accounts.hoist

end Sys2Proof.Machine
end

