-- ==== Sys2Proof/Machine/Claims.lean ====
section
/-! DEFINITION. The Claim Map (04) and the giver's OFFER: heard entries and eviction (R49 to R52), staking attempts and their retries
(R55 to R57), grants and OFFERING (R94, R95), settle and dropped STAKEs (R60), release and linger (R62, R66 to R68), adopted stakes
(R71), watches (R72 to R74). Yields in a double hold stand in Holds.lean, since they can end a record. -/

namespace Sys2Proof.Machine

/-! ## The map's entries (R49) -/

/-- The order of READ CLAIMS: row, column, claimant. -/
def claimRank (c : Cell) (st : Station) : Nat := c.row.toNat * 65536 + c.col.toNat * 256 + st.toNat

/-- Write an entry in its place; an entry of the same cell and claimant is replaced, an own one by an own one alone. -/
def insertClaim (c : Claim) : List Claim → List Claim
  | [] => [c]
  | x :: xs =>
    if claimRank c.cell c.claimant < claimRank x.cell x.claimant then c :: x :: xs
    else if c.cell = x.cell ∧ c.claimant = x.claimant ∧ c.own.isSome = x.own.isSome then c :: xs
    else x :: insertClaim c xs

def Device.withEntries (d : Device) (es : List Claim) : Device :=
  d.withClaims { d.claims with entries := es }

/-- The heard entry (cell, claimant). -/
def Device.heardClaim (d : Device) (c : Cell) (st : Station) : Option Claim :=
  d.claims.entries.find? fun x => x.own.isNone && x.cell == c && x.claimant == st

/-- The own entry on a cell (R54: at most one). -/
def Device.ownClaim (d : Device) (c : Cell) : Option Claim :=
  d.claims.entries.find? fun x => x.own.isSome && x.cell == c

def ownUse (x : Claim) : Option StakeUse := x.own.map (·.use)

/-- The own entry that serves a use. -/
def Device.claimOfUse (d : Device) (u : StakeUse) : Option Claim :=
  d.claims.entries.find? fun x => ownUse x == some u

def Device.ownClaims (d : Device) : List Claim := d.claims.entries.filter fun x => x.own.isSome

/-- R54: the number of own stakes. -/
def Device.ownCount (d : Device) : Nat := d.ownClaims.length

/-- Change the own entry on a cell. -/
def Device.modOwn (d : Device) (c : Cell) (f : Claim → Claim) : Device :=
  d.withEntries (d.claims.entries.map fun x => if x.own.isSome && x.cell == c then f x else x)

def Device.removeOwn (d : Device) (c : Cell) : Device :=
  d.withEntries (d.claims.entries.filter fun x => !(x.own.isSome && x.cell == c))

/-- R65: the conflict rival of the own stake on a cell returns to none when that rival's entry goes or is no longer PLACED. -/
def Device.clearRival (d : Device) (c : Cell) (st : Station) : Device :=
  d.modOwn c fun x =>
    { x with own := x.own.map fun o => if o.rival = some st then { o with rival := none } else o }

def Device.removeHeard (d : Device) (c : Cell) (st : Station) : Device :=
  (d.withEntries (d.claims.entries.filter fun x => !(x.own.isNone && x.cell == c && x.claimant == st))).clearRival c st

/-- Write a heard entry with refresh age 0 (R51, R53, R69). -/
def Device.writeHeard (d : Device) (c : Cell) (st : Station) (t : Tag) (key : Nat) (ph : Phase) : Device :=
  let d := d.withEntries
    (insertClaim { cell := c, claimant := st, tag := t, key := key, phase := ph, age := 0, own := none } d.claims.entries)
  if ph = .placed then d else d.clearRival c st

/-! ## Eviction (R50) -/

def maxNat : List Nat → Nat := fun l => l.foldl max 0

/-- The heard entries that may be evicted: none of the claimant whose PRESENCE is being written. -/
def Device.evictable (d : Device) (shield : Option Station) : List Claim :=
  d.claims.entries.filter fun x => x.own.isNone && some x.claimant != shield

/-- R50: the entries of the greatest refresh age, and among them of the highest claimant number. -/
def evictionTies (l : List Claim) : List Claim :=
  let oldest := l.filter fun x => x.age == maxNat (l.map (·.age))
  oldest.filter fun x => x.claimant.toNat == maxNat (oldest.map fun y => y.claimant.toNat)

/-- R50: remove one heard entry, and tell which cell it stood on. Several entries of one claimant and one age tie: a free value
picks (assumption log 12). -/
def Device.evict (d : Device) (shield : Option Station) : Device × List Cell :=
  match evictionTies (d.evictable shield) with
  | [] => (d, [])
  | [x] => (d.removeHeard x.cell x.claimant, [x.cell])
  | x :: y :: rest =>
    let ties := x :: y :: rest
    let k := Config.evictionTie d.freeCount (ties.map (·.cell)) % ties.length
    let z := ties.getD k x
    ({ d.removeHeard z.cell z.claimant with freeCount := d.freeCount + 1 }, [z.cell])

/-- Room for one more entry. -/
def Device.makeRoom (d : Device) (shield : Option Station) : Device × List Cell :=
  if d.claims.entries.length < Config.claimMapSize then (d, []) else d.evict shield

/-- Make or rewrite a heard entry, with eviction when it is new and the map is full; the cells that lost an entry. -/
def Device.recordHeard (d : Device) (shield : Option Station) (c : Cell) (st : Station) (t : Tag) (key : Nat) (ph : Phase) :
    Device × List Cell :=
  match d.heardClaim c st with
  | some _ => (d.writeHeard c st t key ph, [])
  | none =>
    let r := d.makeRoom shield
    (r.1.writeHeard c st t key ph, r.2)

/-! ## Offering (R95) -/

/-- R95: queue an OFFER of the record as it stands. Its ending makes no difference (R96). -/
def Device.queueOffer (d : Device) (i : Nat) : Device :=
  match d.recordAt i with
  | some r =>
    let body : Body := .offer
      { tag := r.tag, bin := r.bin, cls := byteOf r.cls.code, slack := BitVec.ofNat 16 (d.recordSlack i r), cell := r.cell,
        taker := r.partner, placed := flagByte r.placed, ordinal := byteOf r.ordinal }
    (d.setSlot i (some { r with addressed := true, offers := r.offers + 1 })).sendAbsorbed .engine body
  | none => d

/-- R95: the record enters OFFERING; the first OFFER is queued at once when the station is ACTIVE. -/
def Device.enterOffering (d : Device) (i : Nat) : Device :=
  let d := d.modRecord i fun r =>
    { r with state := .giver .offering, offers := 0, timer := 0, frozenKey := none, request := none }
  if d.isActive then d.queueOffer i else d

/-! ## Staking (R55 to R60) -/

/-- R58: the stake with the lower key is better, and with equal keys the one of the lower station number. -/
def better (key : Nat) (st : Station) (key' : Nat) (st' : Station) : Bool :=
  key < key' || (key == key' && st.toNat < st'.toNat)

/-- A record in STAKING on a cell whose request has one of these statuses. -/
def Device.waitsOn (d : Device) (c : Cell) (p : RequestStatus → Bool) (i : Nat) : Bool :=
  d.recordIs i fun r => r.state == .giver .staking && r.cell == c && (match r.request with | some s => p s | none => false)

def isOwnUse (s : RequestStatus) : Bool := s == .ownUse

def isBlockedOrOutranked (s : RequestStatus) : Bool := s == .blocked || s == .outranked

/-- R57: every status but CONTESTING is retried at a beacon-period expiry. -/
def isWaiting (s : RequestStatus) : Bool := s != .contesting

/-- R56, step 1: whether a request may take the own stake on its cell: a linger by any record, a run hold by a run's record. -/
def mayTake (r : Record) (x : Claim) : Bool :=
  match ownUse x with
  | some .linger => true
  | some .runHold => r.ordinal != 0
  | _ => false

/-- An own stake passes to the record of a slot: HELD, with the record's tag and its own key, and the record goes to OFFERING
(R56 step 1, R62). -/
def Device.passStake (d : Device) (c : Cell) (i : Nat) (t : Tag) : Device :=
  let d := d.modOwn c fun x =>
    { x with tag := t, phase := .held, own := some { use := .slot i, outcome := none, settle := none, linger := none, rival := none } }
  d.enterOffering i

def Device.setRequest (d : Device) (i : Nat) (s : RequestStatus) : Device :=
  d.modRecord i fun r => { r with request := some s }

/-- R60: the STAKE on a cell ended DROPPED while its stake is CONTESTED: the own entry goes without an UNSTAKE, and the request
takes the status AFTER_DROP. -/
def Device.stakeDropped (d : Device) (c : Cell) (i : Nat) : Device :=
  (d.removeOwn c).modRecord i fun r => { r with frozenKey := none, request := some .afterDrop }

/-- R60: the STAKE ended SENT: the settle count starts. -/
def Device.stakeSent (d : Device) (c : Cell) : Device :=
  d.modOwn c fun x =>
    { x with own := x.own.map fun o => { o with outcome := some .sent, settle := some Config.settleCount } }

/-- R56, step 6: the key is frozen, an own entry is made CONTESTED (with eviction when the map is full) and the STAKE is offered.
In the same step a STAKE that ends DROPPED at once takes the effect of R60. The cells that lost an entry are answered. -/
def Device.stakeCell (d : Device) (i : Nat) (r : Record) (key : Nat) : Device × List Cell :=
  let m := d.makeRoom none
  let d := m.1
  let d := d.modRecord i fun r => { r with frozenKey := some key, request := some .contesting }
  let o := d.offer .claimMap (.stake { cell := r.cell, tag := r.tag, key := BitVec.ofNat 16 key })
  match o.2 with
  | .joined seq =>
    let x : Claim :=
      { cell := r.cell, claimant := d.own, tag := r.tag, key := key, phase := .contested, age := 0,
        own := some { use := .slot i, outcome := some (.awaited seq), settle := none, linger := none, rival := none } }
    (o.1.withEntries (insertClaim x o.1.claims.entries), m.2)
  | .dropped _ => (o.1.stakeDropped r.cell i, m.2)

/-- R56: a staking attempt for the record of a slot, with fuel for the retries that an eviction at step 6 sets off (R50): each
such retry takes one more record out of BLOCKED and OUTRANKED, so that fuel above the number of slots is never used up. Attempts are
made only in ACTIVE (R55). -/
def attempt : Nat → Nat → Device → Device
  | 0, _, d => d
  | fuel + 1, i, d =>
    match d.recordAt i with
    | none => d
    | some r =>
      if r.state = .giver .staking ∧ d.isActive then
        match d.ownClaim r.cell with
        | some x => if mayTake r x then d.passStake r.cell i r.tag else d.setRequest i .ownUse
        | none =>
          if Config.ownStakeLimit ≤ d.ownCount then d.setRequest i .limit
          else
            let rivals := d.claims.entries.filter fun x => x.own.isNone && x.cell == r.cell
            if rivals.any fun x => x.phase != Phase.contested then d.setRequest i .blocked
            else
              let key := d.recordKey r
              if rivals.any fun x => better x.key x.claimant key d.own then d.setRequest i .outranked
              else
                let s := d.stakeCell i r key
                s.2.foldl
                  (fun d c =>
                    slotList.foldl (fun d j => if d.waitsOn c isBlockedOrOutranked j then attempt fuel j d else d) d)
                  s.1
      else d

/-- A staking attempt with fuel enough. -/
def Device.stakingAttempt (d : Device) (i : Nat) : Device := attempt (Config.slotCount + 1) i d

/-- R57: retry, in ascending order of slot, the requests on a set of cells whose status is one of these. -/
def Device.retry (d : Device) (cells : List Cell) (p : RequestStatus → Bool) : Device :=
  forSlots (fun i d => if cells.any fun c => d.waitsOn c p i then d.stakingAttempt i else d) d

/-- R57: heard entries were removed on these cells. -/
def Device.retryRemoved (d : Device) (cells : List Cell) : Device := d.retry cells isBlockedOrOutranked

/-- The slots whose requests wait, BLOCKED or OUTRANKED, on a cell of the list. -/
def Device.waitingSlots (d : Device) (cells : List Cell) : List Nat :=
  slotList.filter fun i => cells.any fun c => d.waitsOn c isBlockedOrOutranked i

/-- R57, R55: the requests that waited when their cells lost an entry are retried, in ascending order of slot. A request that has come to
wait since, by a yield, is not among them. -/
def Device.retryWaiting (d : Device) (slots : List Nat) : Device :=
  slots.foldl
    (fun d i =>
      if d.recordIs i fun r =>
          r.state == .giver .staking && (match r.request with | some s => isBlockedOrOutranked s | none => false) then
        d.stakingAttempt i
      else d) d

/-- R57, R66: an own stake on this cell was released, or went from a run hold to linger. -/
def Device.retryReleased (d : Device) (c : Cell) : Device := d.retry [c] isOwnUse

/-- R57: every waiting request at a beacon-period expiry. -/
def Device.retryAll (d : Device) : Device :=
  forSlots
    (fun i d =>
      if d.recordIs i fun r => r.state == .giver .staking && (match r.request with | some s => isWaiting s | none => false) then
        d.stakingAttempt i
      else d) d

/-- R55: a record enters STAKING and is tried at once. -/
def Device.enterStaking (d : Device) (i : Nat) : Device :=
  (d.modRecord i fun r => { r with state := .giver .staking }).stakingAttempt i

/-! ## Release (R62, R66 to R68) -/

/-- UNSTAKE offered and the own entry removed. -/
def Device.dropStake (d : Device) (x : Claim) : Device :=
  (d.removeOwn x.cell).sendAbsorbed .claimMap (.unstake { cell := x.cell, tag := x.tag })

/-- R66: a release, which retries the OWN_USE requests on the cell at once. -/
def Device.releaseStake (d : Device) (x : Claim) : Device := (d.dropStake x).retryReleased x.cell

/-- R62, R67: a stake lingers: HELD, linger count 2 T_B. -/
def Device.lingerStake (d : Device) (c : Cell) : Device :=
  d.modOwn c fun x =>
    { x with phase := .held,
             own := some { use := .linger, outcome := none, settle := none, linger := some Config.lingerCount, rival := none } }

/-- R62: a stake becomes the run hold. -/
def Device.holdForRun (d : Device) (c : Cell) : Device :=
  d.modOwn c fun x =>
    { x with phase := .held, own := some { use := .runHold, outcome := none, settle := none, linger := none, rival := none } }

/-- R62: the lowest slot whose record waits on the cell in OWN_USE. -/
def Device.waitingSlot (d : Device) (c : Cell) : Option Nat := slotList.find? (d.waitsOn c isOwnUse)

/-- R111 step 3, R62, R66: the record of a slot has ended; `goesOn` when it was the run's ACTIVE entry and the run goes on. A
CONTESTED stake is withdrawn; a HELD or PLACED one goes to the run hold, to the waiting record of lowest slot in ACTIVE, or to linger. -/
def Device.recordStakeEnds (d : Device) (i : Nat) (goesOn : Bool) : Device :=
  match d.claimOfUse (.slot i) with
  | none => d
  | some x =>
    if x.phase = .contested then d.releaseStake x
    else if goesOn then d.holdForRun x.cell
    else
      match (if d.isActive then d.waitingSlot x.cell else none) with
      | some j =>
        match d.recordAt j with
        | some r => d.passStake x.cell j r.tag
        | none => d
      | none => d.lingerStake x.cell

/-- R68: the run has ended: a stake in RUN_HOLD goes to linger, and the OWN_USE requests on the cell are retried. -/
def Device.runHoldEnds (d : Device) : Device :=
  match d.claimOfUse .runHold with
  | some x => (d.lingerStake x.cell).retryReleased x.cell
  | none => d

/-- R59, R66: the own CONTESTED stake on a cell yields; its request becomes OUTRANKED or BLOCKED (R55). -/
def Device.contestedYields (d : Device) (x : Claim) (s : RequestStatus) : Device :=
  let d := match ownUse x with
    | some (.slot i) => d.modRecord i fun r => { r with frozenKey := none, request := some s }
    | _ => d
  d.releaseStake x

/-- R54: the own stake of a record becomes PLACED at REPORT SETDOWN. -/
def Device.placeStake (d : Device) (i : Nat) : Device :=
  match d.claimOfUse (.slot i) with
  | some x => d.modOwn x.cell fun y => { y with phase := .placed }
  | none => d

/-- R71, R145: a ceded record's own stake is removed, without UNSTAKE and without a retry. -/
def Device.cedeStake (d : Device) (i : Nat) : Device :=
  match d.claimOfUse (.slot i) with
  | some x => d.removeOwn x.cell
  | none => d

/-! ## Settle and linger expiries (R60, R67) -/

/-- R60: the settle count expired with the stake CONTESTED: HELD, and the record goes to OFFERING. -/
def Device.settleExpires (d : Device) (x : Claim) : Device :=
  let d := d.modOwn x.cell fun y =>
    { y with phase := .held, own := y.own.map fun o => { o with outcome := none, settle := none } }
  match ownUse x with
  | some (.slot i) => d.enterOffering i
  | _ => d

/-- One beacon-period expiry at the own stake on a cell: its settle count falls; at 0 the stake is granted. -/
def Device.settleTick (d : Device) (c : Cell) : Device :=
  match d.ownClaim c with
  | some x =>
    match x.own.bind (·.settle) with
    | some n =>
      if n ≤ 1 then d.settleExpires x
      else d.modOwn c fun y => { y with own := y.own.map fun o => { o with settle := some (n - 1) } }
    | none => d
  | none => d

/-- One beacon-period expiry at the own stake on a cell: its linger count falls; at 0 the stake is released (R66). -/
def Device.lingerTick (d : Device) (c : Cell) : Device :=
  match d.ownClaim c with
  | some x =>
    match x.own.bind (·.linger) with
    | some n =>
      if n ≤ 1 then d.releaseStake x
      else d.modOwn c fun y => { y with own := y.own.map fun o => { o with linger := some (n - 1) } }
    | none => d
  | none => d

/-! ## Ageing and loss (R52) -/

/-- Remove every heard entry with a property, clearing conflict rivals; the cells that lost an entry. -/
def Device.removeHeardAll (d : Device) (p : Claim → Bool) : Device × List Cell :=
  let gone := d.claims.entries.filter fun x => x.own.isNone && p x
  (gone.foldl (fun d x => d.removeHeard x.cell x.claimant) d, gone.map (·.cell))

/-- R52: heard entries age by one; those that reach age 8 are removed and waiting requests on their cells are retried. -/
def Device.claimsAge (d : Device) : Device :=
  let d := d.withEntries (d.claims.entries.map fun x => if x.own.isNone then { x with age := x.age + 1 } else x)
  let r := d.removeHeardAll fun x => Config.claimAge ≤ x.age
  r.1.retryRemoved r.2

/-- R52: a station is lost; every entry of it is removed. -/
def Device.claimantLost (d : Device) (st : Station) : Device :=
  let r := d.removeHeardAll fun x => x.claimant == st
  r.1.retryRemoved r.2

/-- R57: the Claim Map's beacon-period expiry: ages, settle counts, linger counts, then every waiting request. -/
def Device.claimMapBeacon (cells : List Cell) (d : Device) : Device :=
  let d := d.claimsAge
  let mine := orderBy cells (d.ownClaims.map (·.cell))
  let d := mine.foldl (fun d c => d.settleTick c) d
  let d := mine.foldl (fun d c => d.lingerTick c) d
  d.retryAll

/-! ## Watches (R72 to R74) -/

def patternMatches (limit : Nat) (value : Byte) (x : Byte) : Bool := limit ≤ value.toNat || value == x

/-- R73: the patterns of R72: row and column 64..255 are ANY, station 0 and 32..255 are ANY. -/
def Watch.admits (w : Watch) (c : Cell) (st : Station) : Bool :=
  patternMatches 64 w.row c.row && patternMatches 64 w.col c.col &&
  (w.station == 0#8 || patternMatches 32 w.station st)

/-- R74: a matching watch queues its WATCH_HIT notice and sets the summary flag, even when the notice is dropped. -/
def Device.watchHit (d : Device) (k : Nat) (c : Cell) (st : Station) : Device :=
  let d := d.pushNotice (plainNotice .watchHit (Config.plainOutcome .watchHit) [byteOf k, c.row, c.col] st)
  d.withLink { d.link with flags := { d.link.flags with watchHit := true } }

/-- R74: each set watch that matches, in ascending order of index. -/
def Device.watchHits (d : Device) (c : Cell) (st : Station) : Device :=
  (List.range d.claims.watches.length).foldl
    (fun d k =>
      match d.claims.watches[k]? with
      | some (some w) => if w.admits c st then d.watchHit k c st else d
      | _ => d) d

/-! ## STAKE, UNSTAKE and the claim part of a RECEIPT (R51, R69) -/

/-- R51, R59, R61: a STAKE heard writes the entry, is matched against the watches, and makes a worse CONTESTED own stake yield. Requests that
waited on a cell that an eviction took an entry from are retried last (R50, R57, assumption log 42). -/
def Device.hearStake (st : Station) (b : StakeBody) (d : Device) : Device :=
  let r := d.recordHeard none b.cell st b.tag b.key.toNat .contested
  let waiting := r.1.waitingSlots r.2
  let d := r.1.watchHits b.cell st
  let d := match d.ownClaim b.cell with
    | some x =>
      if x.phase = Phase.contested ∧ better b.key.toNat st x.key x.claimant then d.contestedYields x .outranked else d
    | none => d
  d.retryWaiting waiting

/-- R51: an UNSTAKE heard removes the entry, is matched against the watches, and retries waiting requests. -/
def Device.hearUnstake (st : Station) (b : UnstakeBody) (d : Device) : Device :=
  let there := (d.heardClaim b.cell st).isSome
  let d := (d.removeHeard b.cell st).watchHits b.cell st
  if there then d.retryRemoved [b.cell] else d

/-- R69: a RECEIPT(TAKEN) with a cell moves the heard entry (cell, ceder) to the adopter; a removal on the cell. -/
def Device.transferClaim (d : Device) (c : Cell) (ceder adopter : Station) : Device :=
  match d.heardClaim c ceder with
  | some x => ((d.removeHeard c ceder).writeHeard c adopter x.tag x.key x.phase).retryRemoved [c]
  | none => d

/-! ## Adopted stakes (R71) -/

/-- R71: whether an adopted stake on a cell is granted. -/
def Device.adoptedStakeGranted (d : Device) (c : Cell) : Bool :=
  match d.ownClaim c with
  | some x => ownUse x == some .linger
  | none => d.ownCount < Config.ownStakeLimit

/-- R71: the granted stake: use the new record's slot, PLACED, the record's tag; from linger it keeps its key, a new entry has key
0 and the heard entry (cell, ceder) goes when it is made. The cells that lost a heard entry are answered: by the eviction (R50), and, which
is the model's choice, by the going of the ceder's entry, a removal that R57 does not name (assumption log 44). -/
def Device.takeAdoptedStake (d : Device) (c : Cell) (i : Nat) (t : Tag) (ceder : Station) : Device × List Cell :=
  let o : OwnStake := { use := .slot i, outcome := none, settle := none, linger := none, rival := none }
  match d.ownClaim c with
  | some _ => (d.modOwn c fun x => { x with tag := t, phase := .placed, own := some o }, [])
  | none =>
    let gone := if (d.heardClaim c ceder).isSome then [c] else []
    let m := (d.removeHeard c ceder).makeRoom none
    let x : Claim := { cell := c, claimant := d.own, tag := t, key := 0, phase := .placed, age := 0, own := some o }
    (m.1.withEntries (insertClaim x m.1.claims.entries), gone ++ m.2)

end Sys2Proof.Machine
end

