-- ==== Sys2Proof/Machine/Runs.lean ====
section
/-! DEFINITION. Runs (08): the advance (R131), the end of a run (R136, R137), what the run makes of its ACTIVE entry's record (R131,
R132), the service window (R130), and the end of a giver or taker record (R111, R126), which tells the run and the Claim Map. -/

namespace Sys2Proof.Machine

/-! ## Entries -/

/-- The entry of an ordinal, from 1. -/
def RunList.entry (r : RunList) (ordinal : Nat) : Option RunEntry :=
  if ordinal = 0 then none else r.entries[ordinal - 1]?

def RunList.setEntry (r : RunList) (ordinal : Nat) (s : EntryState) : RunList :=
  { r with entries := r.entries.modify (ordinal - 1) fun e => { e with state := s } }

/-! ## The end of a run (R136) -/

/-- R136 steps 1 and 2, R137: ENDED with its outcome, the service timer stopped, waiting entries NOT_STARTED, RUN_ENDED owed. -/
def RunList.finish (r : RunList) (o : OutcomePair) : RunList :=
  { r with
    state := .ended, outcome := some o, timer := none, mark := .owed,
    entries := r.entries.map fun e => if e.state = .waiting then { e with state := .notStarted } else e }

/-- R136: the run ends: the run list, then the Claim Map (R68), then the owed notice (R159). The mark is OWED from the first, but
owed notices are moved only at the end. -/
def Device.endRun (d : Device) (o : OutcomePair) : Device :=
  ((d.withRun (d.engine.run.finish o)).runHoldEnds).moveOwed

/-! ## Advance (R131) -/

/-- R131 step 1: WITHDRAWN entries at the next ordinal are SKIPPED while the skip flag is set. -/
def skipWithdrawn : Nat → RunList → RunList
  | 0, r => r
  | n + 1, r =>
    match r.entry r.next with
    | some e =>
      if e.state = .withdrawn ∧ r.skip then skipWithdrawn n { r.setEntry r.next .skipped with next := r.next + 1 } else r
    | none => r

/-- R131 steps 1 to 4: whether the run goes on, or with which outcome it ends. -/
inductive Advance where
  | goesOn
  | ends (o : OutcomePair)
  deriving DecidableEq, Repr

def RunList.advanced (r : RunList) : RunList := skipWithdrawn (r.entries.length + 1) r

def RunList.verdict (r : RunList) : Advance :=
  match r.entry r.next with
  | none => .ends ⟨.done, .endOfList⟩
  | some e => if e.state = .withdrawn then .ends ⟨.failed, .withdrawnMet⟩ else .goesOn

/-- R131, R134: advance from the next ordinal. The service timer starts at 0 when the advance follows a record (R131), and runs on
after a withdrawal (R134). -/
def Device.advanceRun (d : Device) (restart : Bool) : Device × Bool :=
  let r := d.engine.run.advanced
  match r.verdict with
  | .ends o => ((d.withRun r).endRun o, false)
  | .goesOn =>
    (d.withRun { r with state := .awaitingNext, timer := if restart then some 0 else r.timer }, true)

/-- R131, R132: the record of the ACTIVE entry ended with this outcome; whether the run goes on. -/
def Device.runRecordEnded (d : Device) (ordinal : Nat) (o : OutcomePair) : Device × Bool :=
  let r := d.engine.run
  if r.state = .inEntry ∨ r.state = .ending then
    if o.cls = .done then
      let d := d.withRun { r.setEntry ordinal .done with next := ordinal + 1 }
      if r.state = .ending then (d.endRun ⟨.done, .terminated⟩, false) else d.advanceRun true
    else ((d.withRun (r.setEntry ordinal .failed)).endRun o, false)
  else (d, false)

/-- R132: the record of the ACTIVE entry was ceded: the entry is FAILED and the run ends UPSET(TERMINATED). -/
def Device.runRecordCeded (d : Device) (ordinal : Nat) : Device :=
  let r := d.engine.run
  if r.state = .inEntry ∨ r.state = .ending then
    (d.withRun (r.setEntry ordinal .failed)).endRun ⟨.upset, .terminated⟩
  else d

/-! ## The service window (R130) -/

/-- One beacon-period expiry at a running service timer; at 12 the run ends FAILED(OVERRUN). -/
def Device.serviceTick (d : Device) : Device :=
  match d.engine.run.timer with
  | some n =>
    if d.engine.run.state = .awaitingNext then
      if n + 1 < Config.serviceWindow then d.withRun { d.engine.run with timer := some (n + 1) }
      else d.endRun ⟨.failed, .overrun⟩
    else d
  | none => d

/-! ## The end of a record -/

/-- R145: the record of this tag ends, or stops being cedable: an open turn of it gets no further CEDE. -/
def Device.leaveTurn (d : Device) (t : Tag) : Device :=
  if d.engine.ceding.turn = .tag t then d.withCeding { d.engine.ceding with broken := true } else d

/-- R111: a giver record ends with its outcome; `value` is the E of the bin. The state timer stops where it stands. -/
def Device.endGiver (d : Device) (i : Nat) (o : OutcomePair) (value : Nat) : Device :=
  match d.recordAt i with
  | some r =>
    let d := (d.setSlot i (some { r with
      state := .giver .ended, outcome := some o, endValue := value, endCollected := false, request := none, frozenKey := none, setdownOwed := false,
      bindFrame := none, setdownFrame := none })).leaveTurn r.tag
    let m := if r.ordinal = 0 then (d, false) else d.runRecordEnded r.ordinal o
    (m.1.recordStakeEnds i m.2).raiseEnded i
  | none => d

/-- R126: a taker record ends with its outcome; its shadow, if any, is removed and gives the end value. -/
def Device.endTaker (d : Device) (i : Nat) (o : OutcomePair) : Device :=
  match d.recordAt i with
  | some r =>
    let value := if r.state = .taker .ready then d.slotE i else 0
    let d := if r.state = .taker .ready then d.removeAccount (.slot i) else d
    ((d.setSlot i (some { r with
      state := .taker .ended, outcome := some o, endValue := value, endCollected := false, agreeFrame := none })).leaveTurn
      r.tag).raiseEnded i
  | none => d

end Sys2Proof.Machine
end

