-- ==== Sys2Proof/Machine/Giver.lean ====
section
/-! DEFINITION. The giver record (06): tags and creation (R91, R93), the offer window (R96), binding (R97 to R99, R106), set-down and its
repeats (R100, R101), the lift (R102, R104), recovery (R103), re-offer (R105), cancellation (R107, R109), loss of the taker (R108). -/

namespace Sys2Proof.Machine

/-! ## Creation -/

/-- R91: the first sequence from `s` upwards, wrapping, that no record of the own station's tags carries. -/
def findSeq (d : Device) : Nat → Byte → Byte
  | 0, s => s
  | n + 1, s => if (d.slotOf ⟨d.own, s⟩).isNone then s else findSeq d n (s + 1#8)

/-- R91: the tag of a new giver record. The table holds at most 16 records, so 17 steps are enough. -/
def Device.newTag (d : Device) : Tag := ⟨d.own, findSeq d (Config.slotCount + 1) d.engine.tagCounter⟩

/-- R93, R129: create the giver record of the hoisted bin in the lowest empty slot; STAKING with an attempt at once in ACTIVE, else
PENDING. -/
def Device.createGiver (d : Device) (i : Nat) (a : Account) (cell : Cell) (taker : Station) (ordinal : Nat) : Device :=
  let t := d.newTag
  let d := d.withEngine { d.engine with tagCounter := t.seq + 1#8 }
  let d := (d.setSlot i (some (Record.new t (.giver .pending) taker a.bin a.cls cell ordinal))).clearWait
  if d.isActive then d.enterStaking i else d

/-! ## Frames of the giver -/

/-- A giver record goes to UNBOUND (or UNBOUND-placed); SETDOWN owed is cleared and endings of its BIND and SETDOWN are absorbed
(R99, R101, R108, R109). -/
def Record.unbound (r : Record) : Record :=
  { r with state := .giver .unbound, setdownOwed := false, bindFrame := none, setdownFrame := none }

def Device.sendCancel (d : Device) (t : Tag) (reason : Byte) : Device :=
  d.sendAbsorbed .engine (.cancel { tag := t, reason := reason })

/-- R101: a SETDOWN of a record in PLACED ended DROPPED. -/
def Device.setdownDropped (d : Device) (i : Nat) : Device :=
  d.modRecord i fun r =>
    if r.state = .giver .placed then { r with setdownOwed := true, setdownFrame := none } else r

/-- Queue a SETDOWN with the E of the slot's account at this moment (R84, R100, R101, R106). -/
def Device.sendSetdown (d : Device) (i : Nat) : Device :=
  match d.recordAt i with
  | some r =>
    let o := d.offer .engine
      (.setdown { tag := r.tag, cell := r.cell, bin := r.bin, e := BitVec.ofNat 16 (d.slotE i) })
    match o.2 with
    | .joined seq =>
      o.1.modRecord i fun r =>
        if r.state = .giver .placed then { r with setdownOwed := false, setdownFrame := some seq } else r
    | .dropped _ => o.1.setdownDropped i
  | none => d

/-- R99: the BIND ended DROPPED while its record stands in the state the BIND put it in. -/
def Device.bindDropped (d : Device) (i : Nat) : Device :=
  match d.recordAt i with
  | some r =>
    if r.state = .giver .bound ∨ r.state = .giver .placed then
      ((d.setSlot i (some r.unbound)).raisePartnerLost i .partnerLost 5#8).sendCancel r.tag 3#8
    else d
  | none => d

/-- R97 step 3: queue the BIND naming the partner. -/
def Device.sendBind (d : Device) (i : Nat) : Device :=
  match d.recordAt i with
  | some r =>
    let o := d.offer .engine (.bind { tag := r.tag, taker := r.partner })
    match o.2 with
    | .joined seq => o.1.modRecord i fun r => { r with bindFrame := some seq }
    | .dropped _ => o.1.bindDropped i
  | none => d

/-! ## The offer window (R96) -/

/-- R96: the window expires: ENDED when the placed flag is clear, else UNBOUND-placed. -/
def Device.offerWindowExpires (d : Device) (i : Nat) : Device :=
  match d.recordAt i with
  | some r =>
    if r.placed then (d.setSlot i (some r.unbound)).raisePartnerLost i .partnerMissing 0#8
    else d.endGiver i ⟨.failed, .partnerMissing⟩ d.hoistE
  | none => d

/-- R96: one beacon-period expiry at an OFFERING record whose first OFFER has been queued. -/
def Device.offerTick (d : Device) (i : Nat) : Device :=
  match d.recordAt i with
  | some r =>
    if r.state = .giver .offering ∧ 1 ≤ r.offers then
      let t := r.timer + 1
      let d := d.setSlot i (some { r with timer := t })
      if t = Config.offerSecond ∧ r.offers = 1 then d.queueOffer i
      else if t = Config.offerThird ∧ r.offers = 2 then d.queueOffer i
      else if t = Config.offerWindow ∧ r.offers = 3 then d.offerWindowExpires i
      else d
    else d
  | none => d

/-- R101: a PLACED record with SETDOWN owed queues a new SETDOWN and clears the mark. -/
def Device.setdownTick (d : Device) (i : Nat) : Device :=
  if d.recordIs i fun r => r.state == .giver .placed && r.setdownOwed then
    (d.modRecord i fun r => { r with setdownOwed := false }).sendSetdown i
  else d

/-! ## Frames heard -/

/-- R97, R106: the first AGREE binds an OFFERING record. -/
def Device.giverAgree (d : Device) (i : Nat) (r : Record) (origin : Station) : Device :=
  let st : RecState := if r.placed then .giver .placed else .giver .bound
  let d := d.setSlot i (some { r with partner := origin, state := st, bindFrame := none, setdownFrame := none })
  let d := (d.raise i .bound outcomeDone [origin]).sendBind i
  if r.placed then d.sendSetdown i else d

/-- R98: a DECLINE from the named taker. -/
def Device.giverDecline (d : Device) (i : Nat) (r : Record) (reason : Byte) : Device :=
  if r.state = .giver .offering then
    (d.setSlot i (some r.unbound)).raisePartnerLost i .declined reason
  else d

/-- R102: the lift of the placed bin: the CELL account is removed and the record ends DONE with its E. The
detail OK of a record's DONE is assumption log 47. -/
def Device.giverLifted (d : Device) (i : Nat) : Device :=
  let e := d.slotE i
  (d.removeAccount (.slot i)).endGiver i outcomeDone e

/-- A giver whose bin stands on the cell: PLACED, UNBOUND-placed, or OFFERING with the placed flag set. -/
def Record.binOnCell (r : Record) : Bool :=
  r.placed && (r.state == .giver .placed || r.state == .giver .unbound || r.state == .giver .offering)

/-- R102, R104: a LIFTED from the partner. -/
def Device.giverHearLifted (d : Device) (i : Nat) (r : Record) (bin : BinId) : Device :=
  if r.binOnCell then
    if bin = r.bin then d.giverLifted i else d.raiseCustody i
  else if r.state = .giver .ended ∧ r.outcome = some ⟨.failed, .recovered⟩ then d.raiseCustody i
  else d

/-- R109: a CANCEL from the partner. -/
def Device.giverHearCancel (d : Device) (i : Nat) (r : Record) (reason : Byte) : Device :=
  if r.state = .giver .offering ∨ r.state = .giver .bound ∨ r.state = .giver .placed then
    (d.setSlot i (some r.unbound)).raisePartnerLost i .partnerLost reason
  else d

/-- R108: the partner is lost. -/
def Device.giverPartnerLost (d : Device) (i : Nat) (r : Record) : Device :=
  if r.state = .giver .pending ∨ r.state = .giver .staking then d.raisePartnerLost i .partnerLost 0#8
  else if r.state = .giver .offering ∨ r.state = .giver .bound ∨ r.state = .giver .placed then
    (d.setSlot i (some r.unbound)).raisePartnerLost i .partnerLost 0#8
  else d

/-! ## Effects of requests that have passed their checks -/

/-- R100: the bin is on the cell. From BOUND the record enters PLACED and queues a SETDOWN; from UNBOUND it becomes UNBOUND-placed. -/
def Device.giverSetdown (d : Device) (i : Nat) (r : Record) : Device :=
  let d := d.moveAccount .hoist (.slot i) .cell
  let st : RecState := if r.state = .giver .bound then .giver .placed else .giver .unbound
  let d := (d.setSlot i (some { r with state := st, placed := true, bindFrame := none, setdownFrame := none })).placeStake i
  if r.state = .giver .bound then d.sendSetdown i else d

/-- R103: the bin is back on the hoist. -/
def Device.giverRecover (d : Device) (i : Nat) (r : Record) : Device :=
  let e := d.slotE i
  let d := d.moveAccount (.slot i) .hoist .hoist
  let d := if r.addressed then d.sendCancel r.tag 2#8 else d
  d.endGiver i ⟨.failed, .recovered⟩ e

/-- R107: the handover is abandoned before set-down. -/
def Device.giverCancel (d : Device) (i : Nat) (r : Record) : Device :=
  let d := if r.addressed then d.sendCancel r.tag 1#8 else d
  d.endGiver i ⟨.failed, .cancelled⟩ d.hoistE

/-- R105: the record is offered again to a new taker; from here on it is not cedable (R143, R145). -/
def Device.giverReoffer (d : Device) (i : Nat) (r : Record) (taker : Station) : Device :=
  ((d.setSlot i (some { r with partner := taker })).leaveTurn r.tag).enterOffering i

/-! ## The station becomes ACTIVE (R94, R95) -/

/-- R94: in ascending slot, a PENDING record enters STAKING, and an OFFERING record that has not queued its first OFFER queues it
(R95). -/
def Device.engineActive (d : Device) : Device :=
  forSlots
    (fun i d =>
      if d.recordIs i fun r => r.state == .giver .pending then d.enterStaking i
      else if d.recordIs i fun r => r.state == .giver .offering && r.offers == 0 then d.queueOffer i
      else d) d

end Sys2Proof.Machine
end

