-- ==== Sys2Proof/Machine/Taker.lean ====
section
/-! DEFINITION. The taker record (07): invitations and repeats (R113, R114), the answer (R115, R116), binding (R117, R118), the shadow
(R119), the lift and its repeats (R120, R121), cancellation (R122, R123), loss of the giver (R125); and what a partner's loss, lapse and
change of station do to every record (R44, R45, R108, R125, R147). -/

namespace Sys2Proof.Machine

def Device.sendDecline (d : Device) (t : Tag) (reason : Byte) : Device :=
  d.sendAbsorbed .engine (.decline { tag := t, taker := d.own, reason := reason })

/-! ## Invitations -/

/-- R112, R113: an INVITED record from an OFFER, in the lowest empty slot, with its INVITE notice. -/
def Device.invite (d : Device) (i : Nat) (origin : Station) (b : OfferBody) : Device :=
  let r := Record.new b.tag (.taker .invited) origin b.bin (BinClass.ofByte b.cls) b.cell b.ordinal.toNat
  (d.setSlot i (some { r with placed := b.placed == 1#8 })).raise i .invite outcomeDone (bytes16 b.slack)

/-- R113: an OFFER that is a candidate for a new taker record; the first case that applies decides. -/
def Device.newOffer (d : Device) (origin : Station) (b : OfferBody) : Device :=
  if d.muted then d
  else if d.peers.state = .lapsed ∨ d.peers.state = .ceding then d.sendDecline b.tag 4#8
  else
    match d.freeSlot with
    | some i => d.invite i origin b
    | none => if b.taker = d.own then d.sendDecline b.tag 1#8 else d

/-- R30, R113, R114: an OFFER heard: a candidate, a repeat, or discarded. That a MUTE station takes the placed flag of a repeat too, though it
ignores the offers it hears (R4, R40), is the model's reading (assumption log 49). -/
def Device.hearOffer (origin : Station) (b : OfferBody) (d : Device) : Device :=
  match d.slotOf b.tag with
  | none => if b.taker = 0#8 ∨ b.taker = d.own then d.newOffer origin b else d
  | some i =>
    if d.recordIs i fun r => r.state == .taker .bound && r.partner == origin && b.placed == 1#8 then
      d.modRecord i fun r => { r with placed := true }
    else d

/-! ## The answer -/

/-- R117: the AGREE ended DROPPED while its record is AGREED. -/
def Device.agreeDropped (d : Device) (i : Nat) (reason : DropReason) : Device :=
  if d.recordIs i fun r => r.state == .taker .agreed then d.endTaker i ⟨.failed, reason.detail⟩ else d

/-- R116: agree: an AGREE is queued and the record enters AGREED; its timer does not count until the AGREE has gone out. -/
def Device.takerAgree (d : Device) (i : Nat) (r : Record) : Device :=
  let d := d.setSlot i (some { r with state := .taker .agreed, timer := 0 })
  let o := d.offer .engine (.agree { tag := r.tag, taker := d.own })
  match o.2 with
  | .joined seq => o.1.modRecord i fun r => { r with agreeFrame := some seq }
  | .dropped reason => o.1.agreeDropped i reason

/-- R116: decline. -/
def Device.takerDecline (d : Device) (i : Nat) (r : Record) : Device :=
  (d.sendDecline r.tag 3#8).endTaker i ⟨.refused, .declined⟩

/-- R115: one beacon-period expiry at an INVITED record; at 4 it declines with NO_ANSWER and ends. -/
def Device.answerTick (d : Device) (i : Nat) : Device :=
  match d.recordAt i with
  | some r =>
    if r.state = .taker .invited then
      let d := d.setSlot i (some { r with timer := r.timer + 1 })
      if r.timer + 1 < Config.answerWindow then d
      else (d.sendDecline r.tag 2#8).endTaker i ⟨.refused, .noAnswer⟩
    else d
  | none => d

/-- R117: one beacon-period expiry at an AGREED record whose AGREE has gone out (or that came by adoption); at 4 it ends. -/
def Device.agreedTick (d : Device) (i : Nat) : Device :=
  match d.recordAt i with
  | some r =>
    if r.state = .taker .agreed ∧ r.agreeFrame = none then
      let d := d.setSlot i (some { r with timer := r.timer + 1 })
      if r.timer + 1 < Config.agreedWindow then d else d.endTaker i ⟨.failed, .partnerMissing⟩
    else d
  | none => d

/-! ## Binding, set-down -/

/-- R118: a BIND from the partner. -/
def Device.takerHearBind (d : Device) (i : Nat) (r : Record) (taker : Station) : Device :=
  if taker = d.own then
    if r.state = .taker .agreed then
      (d.setSlot i (some { r with state := .taker .bound, agreeFrame := none })).raise i .bound outcomeDone [r.partner]
    else d
  else if r.state = .taker .ended then d
  else d.endTaker i ⟨.upset, .lostToOther⟩

/-- R85, R119: a SETDOWN from the partner opens the shadow of a BOUND record. PLACED is raised before the check of R79 (R92). -/
def Device.takerHearSetdown (d : Device) (i : Nat) (r : Record) (b : SetdownBody) : Device :=
  if r.state = .taker .bound then
    if b.cell ≠ r.cell ∨ b.bin ≠ r.bin then d.raiseCustody i
    else if d.holdsBin r.bin then d.raiseCustody i
    else
      let a : Account :=
        { bin := r.bin, cls := r.cls, e := b.e.toNat, location := .shadow, spent := false, wait := 0 }
      let d := d.setAccount (.slot i) (some a)
      let d := d.setSlot i (some { r with state := .taker .ready })
      (d.raise i .placed outcomeDone (bytes16 b.e)).spentCheck (.slot i)
  else d

/-! ## The lift (R120, R121) -/

/-- R121: a LIFTED ended DROPPED while the mark is AWAITED. -/
def Device.liftedDropped (d : Device) (i : Nat) : Device :=
  d.modRecord i fun r => if r.lifted = .awaited then { r with lifted := .owed, liftedFrame := none } else r

/-- R120, R121: queue a LIFTED; the mark becomes AWAITED. -/
def Device.sendLifted (d : Device) (i : Nat) : Device :=
  match d.recordAt i with
  | some r =>
    let d := d.setSlot i (some { r with lifted := .awaited })
    let o := d.offer .engine (.lifted { tag := r.tag, taker := d.own, bin := r.bin })
    match o.2 with
    | .joined seq => o.1.modRecord i fun r => { r with liftedFrame := some seq }
    | .dropped _ => o.1.liftedDropped i
  | none => d

/-- R121: the LIFTED ended SENT: the mark is SENT and the ENDED notice is raised. -/
def Device.liftedSent (d : Device) (i : Nat) : Device :=
  (d.modRecord i fun r => { r with lifted := .sent, liftedFrame := none }).raiseEnded i

/-- R120: the lift: the shadow moves to H, the record ends DONE with that E, and a LIFTED is queued; the ENDED notice waits. The
detail OK of a record's DONE is assumption log 47. -/
def Device.takerLift (d : Device) (i : Nat) (r : Record) : Device :=
  let e := d.slotE i
  let d := d.moveAccount (.slot i) .hoist .hoist
  ((d.setSlot i (some { r with
    state := .taker .ended, outcome := some outcomeDone, endValue := e, endCollected := false })).leaveTurn r.tag).sendLifted i

/-- R121: a beacon-period expiry with the mark OWED queues a new LIFTED. -/
def Device.liftedTick (d : Device) (i : Nat) : Device :=
  if d.recordIs i fun r => r.lifted == .owed then d.sendLifted i else d

/-! ## Cancellation, loss -/

/-- R122: the host gives up the handover. -/
def Device.takerCancel (d : Device) (i : Nat) (r : Record) : Device :=
  (d.sendCancel r.tag 1#8).endTaker i ⟨.failed, .cancelled⟩

/-- R123: a CANCEL from the partner. -/
def Device.takerHearCancel (d : Device) (i : Nat) (r : Record) (reason : Byte) : Device :=
  let recovered := reason == 2#8
  match r.state with
  | .taker .ready =>
    if recovered then d.endTaker i ⟨.upset, .recovered⟩ else d.raisePartnerLost i .partnerLost reason
  | .taker .ended =>
    if recovered && (match r.outcome with | some o => o.cls == .done | none => false) then d.raiseCustody i else d
  | .taker _ => d.endTaker i ⟨.upset, if recovered then .recovered else .giverCancelled⟩
  | .giver _ => d

/-- R125: the giver is lost. -/
def Device.takerPartnerLost (d : Device) (i : Nat) (r : Record) : Device :=
  match r.state with
  | .taker .ready => d.raisePartnerLost i .partnerLost 0#8
  | .taker .ended => d
  | .taker _ => d.endTaker i ⟨.upset, .partnerLost⟩
  | .giver _ => d

/-! ## Every record of a partner -/

/-- A record that is not ENDED with this partner (R36, R44, R45). -/
def Device.hasPartner (d : Device) (st : Station) : Bool :=
  d.anyRecord fun r => !r.isEnded && r.partner == st

/-- R44 step 2: each record whose partner is lost takes the action of its role and state. -/
def Device.partnerLost (d : Device) (st : Station) : Device :=
  forSlots
    (fun i d =>
      match d.recordAt i with
      | some r =>
        if r.partner = st then
          if r.isGiver then d.giverPartnerLost i r else d.takerPartnerLost i r
        else d
      | none => d) d

/-- R45: each record that is not ENDED gains a PARTNER_LAPSED notice. -/
def Device.partnerLapsed (d : Device) (st : Station) : Device :=
  forSlots
    (fun i d =>
      if d.recordIs i fun r => !r.isEnded && r.partner == st then d.raise i .partnerLapsed outcomeDone [] else d) d

/-- R147: a RECEIPT(TAKEN) of another ceder: the adopter becomes the partner of the record; one that is not ENDED tells its host.
A giver record in PENDING or STAKING is no exception, though R94 lets it take no frame (assumption log 41). -/
def Device.partnerChanged (d : Device) (t : Tag) (ceder adopter : Station) : Device :=
  match d.slotOf t with
  | some i =>
    if d.recordIs i fun r => r.partner == ceder then
      let d := d.modRecord i fun r => { r with partner := adopter }
      if d.recordIs i fun r => !r.isEnded then d.raise i .partnerChanged outcomeDone [] else d
    else d
  | none => d

/-! ## Matching (R30) -/

/-- R30: the record a handover frame concerns: same tag, and the origin is the record's partner. -/
def Device.concerned (d : Device) (t : Tag) (origin : Station) : Option (Nat × Record) :=
  match d.slotOf t with
  | some i =>
    match d.recordAt i with
    | some r => if r.partner = origin then some (i, r) else none
    | none => none
  | none => none

/-- R30, R97: an AGREE concerns an OFFERING giver record also from any origin while its partner is 0. -/
def Device.hearAgree (origin : Station) (b : AgreeBody) (d : Device) : Device :=
  match d.slotOf b.tag with
  | some i =>
    match d.recordAt i with
    | some r =>
      if r.state = .giver .offering ∧ (r.partner = origin ∨ r.partner = 0#8) then d.giverAgree i r origin else d
    | none => d
  | none => d

def Device.hearDecline (origin : Station) (b : DeclineBody) (d : Device) : Device :=
  match d.concerned b.tag origin with
  | some (i, r) => if r.isGiver then d.giverDecline i r b.reason else d
  | none => d

def Device.hearBind (origin : Station) (b : BindBody) (d : Device) : Device :=
  match d.concerned b.tag origin with
  | some (i, r) => if r.isGiver then d else d.takerHearBind i r b.taker
  | none => d

def Device.hearSetdown (origin : Station) (b : SetdownBody) (d : Device) : Device :=
  match d.concerned b.tag origin with
  | some (i, r) => if r.isGiver then d else d.takerHearSetdown i r b
  | none => d

def Device.hearLifted (origin : Station) (b : LiftedBody) (d : Device) : Device :=
  match d.concerned b.tag origin with
  | some (i, r) => if r.isGiver then d.giverHearLifted i r b.bin else d
  | none => d

def Device.hearCancel (origin : Station) (b : CancelBody) (d : Device) : Device :=
  match d.concerned b.tag origin with
  | some (i, r) => if r.isGiver then d.giverHearCancel i r b.reason else d.takerHearCancel i r b.reason
  | none => d

/-! ## The inferred lift (R168) -/

/-- R168: in JOINING a hoist bin that is the bin of a placed giver record ends that record DONE, for any origin. -/
def Device.inferLift (d : Device) (bin : BinId) : Device :=
  if d.peers.state = .joining ∧ bin ≠ 0#32 then
    forSlots (fun i d => if d.recordIs i fun r => r.binOnCell && r.bin == bin then d.giverLifted i else d) d
  else d

end Sys2Proof.Machine
end

