-- ==== Sys2Proof/Machine/Station.lean ====
section
/-! DEFINITION. The own station state (03, section 3.1): becoming ACTIVE (R36, R38, R39), lapsing (R37, R143), the completion of a
request (R37 to R39, R150), and the loss of a partner that was never heard (R36). -/

namespace Sys2Proof.Machine

def StationState.code : StationState → Nat
  | .unconfigured => 0
  | .joining => 1
  | .active => 2
  | .lapsed => 3
  | .ceding => 4

/-- The announced state of a PRESENCE (R23). -/
def StationState.ofByte (b : Byte) : StationState :=
  match b.toNat with
  | 1 => .joining
  | 2 => .active
  | 3 => .lapsed
  | 4 => .ceding
  | _ => .unconfigured

def Device.setStation (d : Device) (s : StationState) : Device := d.withPeers { d.peers with state := s }

/-- R38, R146: LAPSE_ENDED with the records ceded and stranded during the lapse. -/
def Device.lapseEnded (d : Device) : Device :=
  d.pushNotice (plainNotice .lapseEnded (Config.plainOutcome .lapseEnded)
    [byteOf d.engine.ceding.ceded, byteOf d.engine.ceding.stranded] 0#8)

/-- The station becomes ACTIVE and the Handover Engine is told (R36 step 1, R38, R39, R94). -/
def Device.becomeActive (d : Device) : Device := (d.setStation .active).engineActive

/-- R37, R143: the host is silent in ACTIVE: LAPSED, with both counts of the lapse at 0. -/
def Device.lapse (d : Device) : Device :=
  (d.setStation .lapsed).withCeding { d.engine.ceding with ceded := 0, stranded := 0 }

/-- R37: the host-silence timer expires. In JOINING it cannot (R35); there it only stops. -/
def Device.silenceExpires (d : Device) : Device :=
  let d := d.withPeers { d.peers with silenceTimer := none }
  match d.peers.state with
  | .active => d.lapse
  | .ceding => d.withPeers { d.peers with hostReturned := false }
  | _ => d

/-- The distinct partners of records that are not ENDED and have no roster entry, in ascending order of station (R36). -/
def Device.unheardPartners (d : Device) : List Station :=
  ((List.range 32).map fun n => BitVec.ofNat 8 n).filter fun st =>
    st != 0#8 && d.hasPartner st && d.peers.roster.all fun e => e.station != st

/-- R36: the join-listen timer expires: ACTIVE, then partners without a roster entry are lost, in an open order. -/
def Device.joinExpires (order : List Station) (d : Device) : Device :=
  let d := (d.withPeers { d.peers with joinTimer := none }).becomeActive
  (orderBy order d.unheardPartners).foldl (fun d st => d.partnerLost st) d

/-- One beacon-period expiry at the join-listen timer. -/
def Device.joinTick (order : List Station) (d : Device) : Device :=
  if d.peers.state = .joining then
    match d.peers.joinTimer with
    | some n => if n ≤ 1 then d.joinExpires order else d.withPeers { d.peers with joinTimer := some (n - 1) }
    | none => d
  else d

/-- One beacon-period expiry at the host-silence timer. -/
def Device.silenceTick (d : Device) : Device :=
  match d.peers.silenceTimer with
  | some n => if n ≤ 1 then d.silenceExpires else d.withPeers { d.peers with silenceTimer := some (n - 1) }
  | none => d

/-- R37 to R39, R150: what the completion of any request does, after the request's own effects. -/
def Device.requestCompleted (d : Device) : Device :=
  let restarted := d.withPeers { d.peers with silenceTimer := some Config.hostSilence }
  match d.peers.state with
  | .unconfigured => d
  | .lapsed => restarted.becomeActive.lapseEnded
  | .ceding => restarted.withPeers { restarted.peers with hostReturned := true }
  | _ => restarted

end Sys2Proof.Machine
end

