-- ==== Sys2Proof/Machine/Adoption.lean ====
section
/-! DEFINITION. Adoption (09): the adopter's side (R139 to R142), the ceder's turns (R143 to R146), and the RECEIPT at both and at a
partner (R145, R147, R69). -/

namespace Sys2Proof.Machine

/-! ## The adopter -/

/-- R140: every end of an adoption: phase NONE, timer stopped, ADOPTION_ENDED queued. -/
def Device.endAdoption (d : Device) (o : OutcomePair) : Device :=
  let a := d.engine.adoption
  (d.withAdoption { a with phase := .none, timer := none, frame := none }).pushNotice
    (plainNotice .adoptionEnded o [byteOf a.arrived.length] a.target)

/-- R140: the ADOPT ended DROPPED while the phase is SENDING. -/
def Device.adoptDropped (d : Device) (reason : DropReason) : Device :=
  if d.engine.adoption.phase = .sending then d.endAdoption ⟨.failed, reason.detail⟩ else d

/-- R140: the ADOPT ended SENT with the phase SENDING. -/
def Device.adoptSent (d : Device) : Device :=
  if d.engine.adoption.phase = .sending then
    d.withAdoption { d.engine.adoption with phase := .listening, timer := some Config.adoptionWait, frame := none }
  else d

/-- R139: the request has been taken. -/
def Device.startAdoption (d : Device) (target : Station) : Device :=
  let d := d.withAdoption { phase := .sending, target := target, timer := none, arrived := [], frame := none }
  let o := d.offer .engine (.adopt { target := target })
  match o.2 with
  | .joined seq => o.1.withAdoption { o.1.engine.adoption with frame := some seq }
  | .dropped reason => o.1.adoptDropped reason

/-- R140: the adoption timer expires. -/
def Device.adoptionExpires (d : Device) : Device :=
  d.endAdoption (if d.engine.adoption.arrived.isEmpty then ⟨.failed, .nothingCeded⟩ else outcomeDone)

/-- One beacon-period expiry at the adoption timer. -/
def Device.adoptionTick (d : Device) : Device :=
  match d.engine.adoption.timer with
  | some n =>
    if n ≤ 1 then d.adoptionExpires else d.withAdoption { d.engine.adoption with timer := some (n - 1) }
  | none => d

def Device.sendReceipt (d : Device) (t : Tag) (ceder : Station) (outcome reason : Byte) (cell : Option Cell) : Device :=
  d.sendAbsorbed .engine (.receipt { tag := t, ceder := ceder, outcome := outcome, reason := reason, cell := cell })

/-- The role byte of a record part is GIVER. -/
def CedePart.isGiver (p : CedePart) : Bool := p.role == 1#8

/-- The cell of a RECEIPT(TAKEN): with a giver record only (R141, R142). -/
def CedePart.receiptCell (p : CedePart) : Option Cell := if CedePart.isGiver p then some p.cell else none

/-- The state of an adopted record from its state code (R28, R142). -/
def CedePart.recState (p : CedePart) : RecState :=
  match p.state.toNat with
  | 1 => .giver .placed
  | 2 => .giver .unbound
  | 3 => .taker .agreed
  | 4 => .taker .bound
  | _ => .taker .ready

/-- The account location of an adopted record (R86, R142): CELL for a giver, SHADOW for a taker in READY. -/
def CedePart.location? (p : CedePart) : Option Location :=
  match p.state.toNat with
  | 1 => some .cell
  | 2 => some .cell
  | 5 => some .shadow
  | _ => none

/-- R142: the record an accepted CEDE creates. -/
def adoptedRecord (p : CedePart) : Record :=
  let r := Record.new p.tag (CedePart.recState p) p.partner p.bin (BinClass.ofByte p.cls) p.cell 0
  { r with placed := CedePart.isGiver p || p.state == 5#8, addressed := CedePart.isGiver p }

/-- R142: the record in its slot, its tag among the arrived tags, and the account of a bin on its cell or carried here. -/
def Device.adoptRecord (d : Device) (i : Nat) (p : CedePart) : Device :=
  let d := d.setSlot i (some (adoptedRecord p))
  let d := d.withAdoption { d.engine.adoption with arrived := d.engine.adoption.arrived ++ [p.tag] }
  match CedePart.location? p with
  | some loc => d.createAccount (.slot i) p.bin (BinClass.ofByte p.cls) p.e.toNat loc
  | none => d

/-- R142: the ARRIVED notice with the account's E (0 without an account), the RECEIPT, and the SETDOWN of a giver in PLACED. -/
def Device.adoptAnnounce (d : Device) (i : Nat) (p : CedePart) (ceder : Station) : Device :=
  let e := if (CedePart.location? p).isSome then p.e.toNat else 0
  let d := (d.raise i .arrived outcomeDone (bytesOfNat16 e)).sendReceipt p.tag ceder 0#8 0#8 (CedePart.receiptCell p)
  if p.state = 1#8 then d.sendSetdown i else d

/-- R142: an accepted CEDE: the stake of a giver, the record in the lowest empty slot, its account and ARRIVED notice, the RECEIPT, and
the SETDOWN of a giver in PLACED. Requests on a cell that lost a heard entry, the ceder's too, are retried last (R57, assumption logs 42 and 44). -/
def Device.acceptCede (d : Device) (i : Nat) (p : CedePart) (ceder : Station) : Device :=
  let m := if CedePart.isGiver p then d.takeAdoptedStake p.cell i p.tag ceder else (d, [])
  ((m.1.adoptRecord i p).adoptAnnounce i p ceder).retryRemoved m.2

/-- R141: a CEDE with a record part, decided by the first case that applies. The refusals are all judged before the stake is taken, so
that a refused CEDE changes nothing else (assumption log 24). -/
def Device.judgeCede (d : Device) (p : CedePart) (ceder : Station) : Device :=
  if p.tag ∈ d.engine.adoption.arrived then d.sendReceipt p.tag ceder 0#8 0#8 (CedePart.receiptCell p)
  else
    match d.freeSlot with
    | none => d.sendReceipt p.tag ceder 1#8 1#8 none
    | some i =>
      if CedePart.isGiver p && !d.adoptedStakeGranted p.cell then d.sendReceipt p.tag ceder 1#8 2#8 none
      else if p.partner = d.own then d.sendReceipt p.tag ceder 1#8 3#8 none
      else if (d.slotOf p.tag).isSome || d.holdsBin p.bin then d.sendReceipt p.tag ceder 1#8 4#8 none
      else d.acceptCede i p ceder

/-- R30, R140, R141: a CEDE heard. One that concerns the adoption moves SENDING to LISTENING and restarts the timer. -/
def Device.hearCede (origin : Station) (b : CedeBody) (d : Device) : Device :=
  let a := d.engine.adoption
  if b.adopter = d.own ∧ a.phase ≠ .none ∧ origin = a.target then
    let wait := if cedeLast b then Config.adoptionLastWait else Config.adoptionWait
    let d := d.withAdoption { a with phase := .listening, timer := some wait }
    if d.muted then d
    else
      match b.part with
      | some p => d.judgeCede p origin
      | none => d
  else d

/-! ## The ceder -/

/-- R143: a cedable record. -/
def Record.cedable (r : Record) : Bool :=
  match r.state with
  | .giver .placed => true
  | .giver .unbound => r.placed
  | .taker .agreed => true
  | .taker .bound => true
  | .taker .ready => true
  | _ => false

/-- The record part of a CEDE (R28, R144), with the E of the record's account at this moment (R86). -/
def cedePartOf (r : Record) (e : Nat) : CedePart :=
  let part (role state location : Byte) (e : Nat) : CedePart :=
    { tag := r.tag, role := role, partner := r.partner, bin := r.bin, cls := byteOf r.cls.code, e := BitVec.ofNat 16 e,
      cell := r.cell, state := state, location := location }
  match r.state with
  | .giver .placed => part 1#8 1#8 2#8 e
  | .giver _ => part 1#8 2#8 2#8 e
  | .taker .agreed => part 2#8 3#8 0#8 0
  | .taker .bound => part 2#8 4#8 0#8 0
  | .taker _ => part 2#8 5#8 3#8 e

/-- The tags of the ceding list after a tag. -/
def tagsAfter (t : Tag) : List Tag → List Tag
  | [] => []
  | x :: xs => if x = t then xs else tagsAfter t xs

/-- R144: queue one CEDE of the turn's record, built afresh; each CEDE queued adds one to the attempts, and its ending changes
nothing. -/
def Device.queueCede (d : Device) (t : Tag) : Device :=
  match d.slotOf t with
  | some i =>
    match d.recordAt i with
    | some r =>
      let c := d.engine.ceding
      let last := (tagsAfter t c.tags).isEmpty
      (d.withCeding { c with attempts := c.attempts + 1 }).sendAbsorbed .engine
        (.cede { adopter := c.adopter.getD 0#8, flags := if last then 3#8 else 2#8, part := some (cedePartOf r (d.slotE i)) })
    | none => d
  | none => d

/-- R145, R144: one more record is stranded when it is in the table and not ENDED. -/
def Device.countStranded (d : Device) (t : Tag) : Device :=
  match d.slotOf t with
  | some i =>
    if d.recordIs i fun r => !r.isEnded then
      d.withCeding { d.engine.ceding with stranded := d.engine.ceding.stranded + 1 }
    else d
  | none => d

/-- Whether the record of a tag is in the table and cedable. -/
def Device.tagCedable (d : Device) (t : Tag) : Bool :=
  match d.slotOf t with
  | some i => d.recordIs i Record.cedable
  | none => false

/-- R39, R146: the ceding ends; with the host-returned mark set the station becomes ACTIVE and LAPSE_ENDED is queued, else it returns
to LAPSED. -/
def Device.endCeding (d : Device) : Device :=
  let d := d.withCeding { d.engine.ceding with adopter := none, tags := [], turn := .none, attempts := 0, broken := false, frame := none }
  if d.peers.hostReturned then
    (d.withPeers { d.peers with hostReturned := false }).becomeActive.lapseEnded
  else d.setStation .lapsed

/-- R144: a turn opens for the empty CEDE, attempts 0, and its one CEDE adds one: record-present clear, last set. The turn closes when the
frame's ending is reported. -/
def Device.openEmpty (d : Device) : Device :=
  let c := d.engine.ceding
  let d := d.withCeding { c with turn := .emptyCede, attempts := 1, broken := false }
  let o := d.offer .engine (.cede { adopter := c.adopter.getD 0#8, flags := 1#8, part := none })
  match o.2 with
  | .joined seq => o.1.withCeding { o.1.engine.ceding with frame := some seq }
  | .dropped _ => o.1.endCeding

/-- R144: a turn opens for a tag: attempts 0, then the first CEDE. -/
def Device.openTurn (d : Device) (t : Tag) : Device :=
  (d.withCeding { d.engine.ceding with turn := .tag t, attempts := 0, broken := false }).queueCede t

/-- R144: the next turn of the list. Tags whose record is no longer cedable are passed over; when the last tag is passed over the
empty CEDE is sent in its place; past the end of the list the ceding ends. -/
def Device.openNext : List Tag → Bool → Device → Device
  | [], passedLast, d => if passedLast then d.openEmpty else d.endCeding
  | t :: rest, _, d => if d.tagCedable t then d.openTurn t else Device.openNext rest true (d.countStranded t)

/-- R144 to R146: the turn of a tag closes: the ceding ends when the host-returned mark is set, else the next turn opens. -/
def Device.closeTurn (d : Device) (t : Tag) : Device :=
  if d.peers.hostReturned then d.endCeding else Device.openNext (tagsAfter t d.engine.ceding.tags) false d

/-- The cedable tags in ascending order of slot (R143). -/
def Device.cedableTags (d : Device) : List Tag :=
  d.engine.table.filterMap fun o => match o with
    | some r => if r.cedable then some r.tag else none
    | none => none

/-- The records that a ceding leaves behind (R143): not ENDED and not cedable. -/
def Device.strandedCount (d : Device) : Nat :=
  d.engine.table.countP fun o => match o with
    | some r => !r.isEnded && !r.cedable
    | none => false

/-- R143: a ceding begins. -/
def Device.beginCeding (d : Device) (adopter : Station) : Device :=
  let tags := d.cedableTags
  let d := d.withPeers { d.peers with state := .ceding, hostReturned := false }
  let d := d.withCeding
    { d.engine.ceding with
      adopter := some adopter, tags := tags, turn := .none, attempts := 0, broken := false, stranded := d.strandedCount, frame := none }
  match tags with
  | [] => d.openEmpty
  | t :: _ => d.openTurn t

/-- R143: an ADOPT that names this station begins a ceding in LAPSED and NORMAL; else it is ignored. -/
def Device.hearAdopt (origin : Station) (b : AdoptBody) (d : Device) : Device :=
  if b.target = d.own ∧ d.peers.state = .lapsed ∧ d.line.mode = .normal then d.beginCeding origin else d

/-- R144, R145: a beacon-period expiry with a turn open for a tag: at 1 or 2 attempts a further CEDE while the record is cedable
and has been so throughout the turn; else the turn closes unanswered. -/
def Device.turnTick (d : Device) : Device :=
  match d.engine.ceding.turn with
  | .tag t =>
    if d.engine.ceding.attempts < Config.cedeAttempts ∧ d.engine.ceding.broken = false ∧ d.tagCedable t then d.queueCede t
    else (d.countStranded t).closeTurn t
  | _ => d

/-- R144: the empty CEDE ended, SENT or DROPPED: its turn closes. -/
def Device.emptyCedeEnded (d : Device) : Device :=
  if d.engine.ceding.turn = .emptyCede then d.endCeding else d

/-- R145: TAKEN for a cedable record: it leaves the table with its notices, account and stake. A giver record that carries an ordinal is
the run's ACTIVE entry, and its run ends (R127, R132); a taker record's ordinal is its OFFER's, which the run list does not use (R112). -/
def Device.cedeRecord (d : Device) (i : Nat) (r : Record) : Device :=
  let d := (d.cedeStake i).removeAccount (.slot i)
  let d := d.setSlot i none
  let d := if r.isGiver && r.ordinal != 0 then d.runRecordCeded r.ordinal else d
  d.withCeding { d.engine.ceding with ceded := d.engine.ceding.ceded + 1 }

/-- R145: a RECEIPT that concerns the ceding closes the turn. A record that ended or stopped being cedable in its turn stays, whatever it
has become since. A TAKEN whose record has left the table (ended and collected) counts neither
as ceded nor as stranded (assumption log 43). -/
def Device.answerTurn (d : Device) (t : Tag) (taken : Bool) : Device :=
  let d :=
    if taken then
      match d.slotOf t with
      | some i =>
        match d.recordAt i with
        | some r => if r.cedable && !d.engine.ceding.broken then d.cedeRecord i r else (d.raiseCustody i).countStranded t
        | none => d
      | none => d
    else d.countStranded t
  d.closeTurn t

/-- R29, R30: a RECEIPT heard: at the ceder when it names this station, else at the partner (R147) and, with a cell, at the Claim Map
(R69). No rule orders these two owners: that the Handover Engine takes its part first is the model's choice (assumption log 48). -/
def Device.hearReceipt (origin : Station) (b : ReceiptBody) (d : Device) : Device :=
  let taken := b.outcome == 0#8
  if b.ceder = d.own then
    if d.engine.ceding.adopter = some origin ∧ d.engine.ceding.turn = .tag b.tag then d.answerTurn b.tag taken else d
  else if taken then
    let d := d.partnerChanged b.tag b.ceder origin
    match b.cell with
    | some c => d.transferClaim c b.ceder origin
    | none => d
  else d

end Sys2Proof.Machine
end

