-- ==== Sys2Proof/Machine/Holds.lean ====
section
/-! DEFINITION. Rivals in a PRESENCE (04): the rewrite of a claimant's entries (R53), the judging of each listed stake (R59, R61), the
double hold (R63), the yield of a HELD stake (R64, R110) and the cell conflict (R65). -/

namespace Sys2Proof

/-- The phase codes of R23 and R32. -/
def phaseCode : Machine.Phase → Byte
  | .contested => 1#8
  | .held => 2#8
  | .placed => 3#8

def phaseOfByte (b : Byte) : Machine.Phase :=
  match b.toNat with
  | 1 => .contested
  | 2 => .held
  | _ => .placed

end Sys2Proof

namespace Sys2Proof.Machine

/-! ## The yield of a HELD stake -/

/-- R64, R110: what the yield of a HELD stake makes of the record it served. The offer-send count and the state timer are reset for a
record in OFFERING alone. -/
def Device.recordYields (d : Device) (i : Nat) : Device :=
  match d.recordAt i with
  | some r =>
    if r.state = .giver .offering then
      d.setSlot i (some { r with state := .giver .staking, offers := 0, timer := 0, request := some .blocked })
    else if r.state = .giver .unbound ∧ r.placed = false then
      d.setSlot i (some { r with state := .giver .staking, request := some .blocked })
    else if r.state = .giver .bound then
      (d.sendCancel r.tag 1#8).endGiver i ⟨.upset, .cellConflict⟩ d.hoistE
    else d
  | none => d

/-- R64, R66: an own HELD stake yields: UNSTAKE, the entry goes, the record acts, and the requests that wait for it are retried. -/
def Device.heldYields (d : Device) (x : Claim) : Device :=
  let d := d.dropStake x
  let d := match ownUse x with
    | some (.slot i) => d.recordYields i
    | _ => d
  d.retryReleased x.cell

/-! ## The cell conflict -/

/-- R65: CELL_CONFLICT of the record in a slot, with the cell and the rival station. -/
def Device.raiseCellConflict (d : Device) (i : Nat) (c : Cell) (rival : Station) : Device :=
  let n : PendingNotice :=
    { kind := .cellConflict, outcome := ⟨.upset, .cellConflict⟩, station := rival, values := cellBytes c }
  (d.modRecord i fun r => { r with notices := addPending n r.notices }).moveOwed

/-- R65: both stakes are PLACED: the conflict is raised once for a rival. -/
def Device.cellConflict (d : Device) (x : Claim) (rival : Station) : Device :=
  match x.own with
  | some o =>
    if o.rival = some rival then d
    else
      let d := d.modOwn x.cell fun y => { y with own := y.own.map fun o => { o with rival := some rival } }
      match o.use with
      | .slot i => d.raiseCellConflict i x.cell rival
      | _ => d
  | none => d

/-! ## The rewrite -/

/-- R59, R61, R63: one listed stake against the own entry on its cell. -/
def Device.judgeStake (st : Station) (d : Device) (i : StakeItem) : Device :=
  match d.ownClaim i.cell with
  | none => d
  | some x =>
    match x.phase, phaseOfByte i.phase with
    | .contested, .contested =>
      if better i.key.toNat st x.key x.claimant then d.contestedYields x .outranked else d
    | .contested, _ => d.contestedYields x .blocked
    | _, .contested => d
    | .held, .placed => d.heldYields x
    | .placed, .held => d
    | .held, .held => if st.toNat < d.own.toNat then d.heldYields x else d
    | .placed, .placed => d.cellConflict x st

/-- R53: one listed stake is written; a new entry is matched against the watches. The cells that lost an entry are gathered. -/
def writeListed (st : Station) (m : Device × List Cell) (i : StakeItem) : Device × List Cell :=
  let r := m.1.recordHeard (some st) i.cell st i.tag i.key.toNat (phaseOfByte i.phase)
  (if (m.1.heardClaim i.cell st).isNone then r.1.watchHits i.cell st else r.1, m.2 ++ r.2)

/-- R53: the heard entries of a claimant become the list: entries it does not name go first, then each listed stake is written, then
each is judged, and the requests that waited on cells that lost an entry are retried last (assumption log 16). -/
def Device.hearStakes (st : Station) (items : List StakeItem) (d : Device) : Device :=
  let gone := d.removeHeardAll fun x => x.claimant == st && items.all fun i => i.cell != x.cell
  let m := items.foldl (writeListed st) gone
  (items.foldl (Device.judgeStake st) m.1).retryWaiting (m.1.waitingSlots m.2)

end Sys2Proof.Machine
end

