-- ==== Sys2Proof/Machine/Roster.lean ====
section
/-! DEFINITION. The roster (03): hearings and new entries (R42, R46), ageing (R43), loss (R44), announced states (R45), what a PRESENCE
passes on (R47), and the PRESENCE this station offers (R41). -/

namespace Sys2Proof.Machine

/-! ## Entries (R42) -/

def Device.rosterEntry (d : Device) (st : Station) : Option RosterEntry :=
  d.peers.roster.find? fun e => e.station == st

def Device.withRoster (d : Device) (es : List RosterEntry) : Device := d.withPeers { d.peers with roster := es }

/-- Insert an entry in ascending order of station. -/
def insertEntry (e : RosterEntry) : List RosterEntry → List RosterEntry
  | [] => [e]
  | x :: xs => if e.station.toNat < x.station.toNat then e :: x :: xs else x :: insertEntry e xs

def Device.modEntry (d : Device) (st : Station) (f : RosterEntry → RosterEntry) : Device :=
  d.withRoster (d.peers.roster.map fun e => if e.station == st then f e else e)

/-- R48: the PEER_CHANGE summary flag. -/
def Device.peerChange (d : Device) : Device :=
  d.withLink { d.link with flags := { d.link.flags with peerChange := true } }

/-- R44, R45: PEER_STATE with the new link state or announced state. -/
def Device.peerState (d : Device) (value : Byte) (st : Station) : Device :=
  d.pushNotice (plainNotice .peerState (Config.plainOutcome .peerState) [value] st)

/-! ## Loss (R44) -/

/-- R44: a station is lost: PEER_CHANGE, the Claim Map, the records, and PEER_STATE when no record that is not ENDED has it as
partner. The third step is judged after the second (assumption log 19). -/
def Device.stationLost (d : Device) (st : Station) : Device :=
  let d := (d.peerChange.claimantLost st).partnerLost st
  if d.hasPartner st then d else d.peerState 16#8 st

/-! ## Hearings (R42, R46) -/

/-- R46: the entry with the greatest silence age, and among those the highest station number. -/
def replaceable (es : List RosterEntry) : Option RosterEntry :=
  let oldest := es.filter fun e => e.age == maxNat (es.map (·.age))
  oldest.find? fun e => e.station.toNat == maxNat (oldest.map fun x => x.station.toNat)

/-- R46: the departing station is first treated as lost, unless it was; then its entry goes. -/
def Device.dropEntry (d : Device) : Device :=
  match replaceable d.peers.roster with
  | some e =>
    let d := if e.link = .lost then d else d.stationLost e.station
    d.withRoster (d.peers.roster.filter fun x => x.station != e.station)
  | none => d

def newEntry (st : Station) : RosterEntry :=
  { station := st, announced := none, position := none, hoistBin := none, age := 0, link := .heard }

/-- R42: a hearing of a station. -/
def Device.hear (d : Device) (st : Station) : Device :=
  match d.rosterEntry st with
  | some _ => d.modEntry st fun e => { e with age := 0, link := .heard }
  | none =>
    let d := if d.peers.roster.length < Config.rosterSize then d else d.dropEntry
    (d.withRoster (insertEntry (newEntry st) d.peers.roster)).peerChange

/-! ## PRESENCE heard (R42, R45, R47) -/

/-- R45: the announced state changed. -/
def Device.announcedChange (d : Device) (st : Station) (old : Option StationState) (new : StationState) : Device :=
  if old = some new then d
  else if new = .lapsed then
    let d := d.peerChange
    if d.hasPartner st then d.partnerLapsed st else d.peerState 3#8 st
  else if old = some .lapsed then d.peerChange
  else d

/-- R42, R45: the entry takes what the PRESENCE announces. -/
def Device.hearAnnounced (d : Device) (st : Station) (b : PresenceBody) : Device :=
  match d.rosterEntry st with
  | some e =>
    let new := StationState.ofByte b.state
    (d.modEntry st fun e => { e with announced := some new, position := some b.position, hoistBin := some b.hoistBin }).announcedChange
      st e.announced new
  | none => d

/-- R42, R45, R47: a PRESENCE at the Peer Roster: the hearing, the announced fields, then its hoist bin and stake list, passed on in an
order the rules leave open (assumption log 11). -/
def Device.hearPresence (origin : Station) (b : PresenceBody) (hoistFirst : Bool) (d : Device) : Device :=
  let d := (d.hear origin).hearAnnounced origin b
  if hoistFirst then (d.inferLift b.hoistBin).hearStakes origin b.stakes
  else (d.hearStakes origin b.stakes).inferLift b.hoistBin

/-! ## Ageing (R43) -/

def linkOfAge (n : Nat) : LinkState :=
  if n < Config.quietAge then .heard else if n < Config.lostAge then .quiet else .lost

/-- R43: one beacon-period expiry at one entry, with the effects of reaching age 4 or 16. -/
def Device.ageEntry (d : Device) (st : Station) : Device :=
  match d.rosterEntry st with
  | some e =>
    let n := min Config.silenceMax (e.age + 1)
    let d := d.modEntry st fun e => { e with age := n, link := linkOfAge n }
    if n = Config.quietAge then d.peerChange
    else if n = Config.lostAge then d.stationLost st
    else d
  | none => d

/-- R43: every entry ages; the order in which several take their effects is open (assumption log 9). -/
def Device.rosterAges (d : Device) (order : List Station) : Device :=
  (orderBy order (d.peers.roster.map (·.station))).foldl (fun d st => d.ageEntry st) d

/-! ## The PRESENCE offered (R32, R41) -/

/-- R76: the bin of the H account, 0 for none. -/
def Device.hoistBin (d : Device) : BinId :=
  match d.accounts.hoist with
  | some a => a.bin
  | none => 0#32

def stakeItemOf (x : Claim) : StakeItem :=
  { cell := x.cell, tag := x.tag, key := BitVec.ofNat 16 x.key, phase := phaseCode x.phase }

/-- R41: the body as the state stands; own stakes in the order of the map, which is row then column (R32). -/
def Device.presenceBody (d : Device) : PresenceBody :=
  { state := byteOf d.peers.state.code, position := d.link.position, hoistBin := d.hoistBin, stakes := d.ownClaims.map stakeItemOf }

/-- R41: offered in every configured state while NORMAL. -/
def Device.offerPresence (d : Device) : Device :=
  if d.configured && !d.muted then d.sendAbsorbed .peerRoster (.presence d.presenceBody) else d

/-- R41: the Peer Roster's beacon-period expiry: the two timers, the roster, the PRESENCE. -/
def Device.peerRosterBeacon (order : List Station) (d : Device) : Device :=
  (((d.joinTick order).silenceTick).rosterAges order).offerPresence

end Sys2Proof.Machine
end

