-- ==== Sys2Proof/Machine/Reports.lean ====
section
/-! DEFINITION. How queued frames end (R11, R12, R4, R14): the report to the block that queued the frame and what that block does with it
(R60, R99, R101, R117, R121, R140, R144), the flush, the line mode, the clean send and the collision. -/

namespace Sys2Proof.Machine

/-- The ending of an own frame (R14). -/
inductive Ending where
  | sent
  | dropped (reason : DropReason)
  deriving DecidableEq, Repr

/-! ## What the blocks do with an ending -/

/-- R60: the own stake whose STAKE outcome is awaited for the frame of this number. -/
def Device.stakeAwaiting (d : Device) (seq : Byte) : Option Claim :=
  d.claims.entries.find? fun x =>
    x.phase == .contested && (match x.own with | some o => o.outcome == some (.awaited seq) | none => false)

def Device.stakeEnded (d : Device) (seq : Byte) (e : Ending) : Device :=
  match d.stakeAwaiting seq with
  | some x =>
    match e, ownUse x with
    | .sent, _ => d.stakeSent x.cell
    | .dropped _, some (.slot i) => d.stakeDropped x.cell i
    | .dropped _, _ => d
  | none => d

/-- The slot of the record with a tag, when that record has a property. -/
def Device.slotWhen (d : Device) (t : Tag) (p : Record → Bool) : Option Nat :=
  match d.slotOf t with
  | some i => if d.recordIs i p then some i else none
  | none => none

/-- R117: the AGREE of an AGREED record. -/
def Device.agreeEnded (d : Device) (t : Tag) (seq : Byte) (e : Ending) : Device :=
  match d.slotWhen t fun r => r.state == .taker .agreed && r.agreeFrame == some seq with
  | some i =>
    match e with
    | .sent => d.modRecord i fun r => { r with timer := 0, agreeFrame := none }
    | .dropped reason => d.agreeDropped i reason
  | none => d

/-- R99: the BIND whose record still stands where it put it. -/
def Device.bindEnded (d : Device) (t : Tag) (seq : Byte) (e : Ending) : Device :=
  match d.slotWhen t fun r => r.bindFrame == some seq with
  | some i =>
    match e with
    | .sent => d.modRecord i fun r => { r with bindFrame := none }
    | .dropped _ => d.bindDropped i
  | none => d

/-- R101: the SETDOWN of a record in PLACED. -/
def Device.setdownEnded (d : Device) (t : Tag) (seq : Byte) (e : Ending) : Device :=
  match d.slotWhen t fun r => r.setdownFrame == some seq with
  | some i =>
    match e with
    | .sent => d.modRecord i fun r => { r with setdownFrame := none }
    | .dropped _ => d.setdownDropped i
  | none => d

/-- R121: the LIFTED of a record whose mark is AWAITED. -/
def Device.liftedEnded (d : Device) (t : Tag) (seq : Byte) (e : Ending) : Device :=
  match d.slotWhen t fun r => r.lifted == .awaited && r.liftedFrame == some seq with
  | some i =>
    match e with
    | .sent => d.liftedSent i
    | .dropped _ => d.liftedDropped i
  | none => d

/-- R140: the ADOPT of the adoption in progress. -/
def Device.adoptEnded (d : Device) (seq : Byte) (e : Ending) : Device :=
  if d.engine.adoption.frame = some seq then
    match e with
    | .sent => d.adoptSent
    | .dropped reason => d.adoptDropped reason
  else d

/-- R144: the empty CEDE of the ceding in progress; the ending of any other CEDE changes nothing. -/
def Device.cedeEnded (d : Device) (seq : Byte) : Device :=
  if d.engine.ceding.frame = some seq then d.emptyCedeEnded else d

/-- R14: the report of one ending, named by kind and sequence. PRESENCE, UNSTAKE, DECLINE, CANCEL and RECEIPT are absorbed, and an
OFFER's ending makes no difference (R96); a relayed frame is reported to nobody (R8). -/
def Device.report (e : Ending) (d : Device) (x : TxEntry) : Device :=
  if x.sender = .relay then d
  else
    let seq := x.frame.seq
    match x.frame.body with
    | .presence _ => d
    | .stake _ => d.stakeEnded seq e
    | .unstake _ => d
    | .offer _ => d
    | .agree b => d.agreeEnded b.tag seq e
    | .decline _ => d
    | .bind b => d.bindEnded b.tag seq e
    | .setdown b => d.setdownEnded b.tag seq e
    | .lifted b => d.liftedEnded b.tag seq e
    | .cancel _ => d
    | .adopt _ => d.adoptEnded seq e
    | .cede _ => d.cedeEnded seq
    | .receipt _ => d

/-! ## Flush and line mode (R3, R4) -/

/-- R4: the queue is emptied, the transmitter stops in any state, and the own frames end DROPPED(LINE_MUTED) in queue order, those of
different blocks too, which R14 leaves unordered (assumption log 46). W keeps its value. The own carrier ends with the sending. -/
def Device.flush (d : Device) : Device :=
  let l := d.line
  let d := d.withLine
    { l with queue := [], tx := .off, remaining := none, carrier := if l.tx = .send then false else l.carrier }
  l.queue.foldl (Device.report (.dropped .lineMuted)) d

/-- R3, R4: the requested mode and the forced-mute flag are set; a change of the effective mode flushes, or starts the transmitter. -/
def Device.setMode (d : Device) (requested : LineMode) (forced : Bool) : Device :=
  let d' := d.withLine { d.line with requested := requested, forcedMute := forced }
  match d.line.mode, d'.line.mode with
  | .normal, .mute => d'.flush
  | .mute, .normal => d'.withLine { d'.line with tx := .idle }
  | _, _ => d'

/-! ## The end of a transmission (R11, R12) -/

/-- R11: the head is sent cleanly: W returns to 8, the entry leaves, and an own frame ends SENT. -/
def Device.cleanSend (d : Device) : Device :=
  if d.line.tx = .send then
    match d.line.queue with
    | x :: _ =>
      Device.report .sent (d.withLine { d.line.popHead with window := Config.windowMin, carrier := false }) x
    | [] => d
  else d

/-- R12: a collision: the count rises and W doubles; the sixth drops the head, else a new attempt begins. -/
def Device.collision (d : Device) : Device :=
  if d.line.tx = .send then
    match d.line.queue with
    | x :: rest =>
      let l := { d.line with window := min Config.windowMax (2 * d.line.window) }
      let n := x.collisions + 1
      if n < Config.maxCollisions then
        d.withLine { l with queue := { x with collisions := n } :: rest, tx := .quietWait, remaining := none }
      else Device.report (.dropped .lineCongested) (d.withLine l.popHead) x
    | [] => d
  else d

end Sys2Proof.Machine
end

