-- ==== Sys2Proof/Machine/Receive.lean ====
section
/-! DEFINITION. What a received frame does: the receive filter (R15 to R18), the number clash (R17), the judging of the body (R22), the
relayed copy (R19), the hearing and the dispatch (R29). -/

namespace Sys2Proof.Machine

/-! ## Dispatch (R29) -/

/-- R29: an accepted body goes to the block that owns its kind. -/
def Device.dispatch (origin : Station) (body : Body) (hoistFirst : Bool) (d : Device) : Device :=
  match body with
  | .presence b => d.hearPresence origin b hoistFirst
  | .stake b => d.hearStake origin b
  | .unstake b => d.hearUnstake origin b
  | .offer b => d.hearOffer origin b
  | .agree b => d.hearAgree origin b
  | .decline b => d.hearDecline origin b
  | .bind b => d.hearBind origin b
  | .setdown b => d.hearSetdown origin b
  | .lifted b => d.hearLifted origin b
  | .cancel b => d.hearCancel origin b
  | .adopt b => d.hearAdopt origin b
  | .cede b => d.hearCede origin b
  | .receipt b => d.hearReceipt origin b

/-- A body at its owner: only while the port is on (R29), from another station (R42), and valid (R22). -/
def Device.takeBody (origin : Station) (body : Body) (hoistFirst : Bool) (d : Device) : Device :=
  if d.running && d.configured && stationInRange origin && origin != d.own && bodyValid origin body then
    d.dispatch origin body hoistFirst
  else d

/-! ## The number clash (R17) -/

/-- R17: CLASH is set; with the forced mute clear, it is set too, the notice is queued, and a NORMAL line is flushed. -/
def Device.clash (d : Device) : Device :=
  let d := d.withLink { d.link with flags := { d.link.flags with clash := true } }
  if d.line.forcedMute then d
  else (d.pushNotice (plainNotice .clash (Config.plainOutcome .clash) [] d.own)).setMode d.line.requested true

/-! ## Acceptance (R19, R22, R29) -/

/-- R19: the relayed copy of an accepted hop-0 frame, with the relay setting on and the line NORMAL. -/
def Device.relayCopy (d : Device) (f : Frame) : Device :=
  if !f.relayed && d.line.relay && !d.muted then d.withLine (d.line.offerRelay f) else d

def Device.acceptStep (f : Frame) (hoistFirst : Bool) (d : Device) : FrameStep → Device
  | .relayCopy => d.relayCopy f
  | .hearing => d.hear f.origin
  | .body => d.dispatch f.origin f.body hoistFirst

/-- R19, R29: an accepted frame is copied, counts as a hearing and reaches its owner, in an order the rules leave open (assumption
log 11). A second hearing of the same frame by the Peer Roster changes nothing. -/
def Device.acceptFrame (f : Frame) (order : List FrameStep) (hoistFirst : Bool) (d : Device) : Device :=
  (orderBy order [.relayCopy, .hearing, .body]).foldl (Device.acceptStep f hoistFirst) d

/-- R22: the body is judged; a frame whose body is not valid goes no further. -/
def Device.judgeBody (r : RawFrame) (order : List FrameStep) (hoistFirst : Bool) (d : Device) : Device :=
  match parseBody r.kind r.body with
  | some b =>
    if bodyValid r.origin b then
      d.acceptFrame { sect := rawSect r, relayed := rawHop r == 1#4, origin := r.origin, seq := r.seq, body := b } order hoistFirst
    else d
  | none => d

/-! ## The filter (R15 to R18) -/

/-- R16 to R18: steps 2 to 6 of the filter, then the body. -/
def Device.filterFrame (r : RawFrame) (order : List FrameStep) (hoistFirst : Bool) (d : Device) : Device :=
  if rawSect r ≠ d.line.sect.extractLsb' 0 4 then d
  else if envelopeInRange r = false then d
  else if r.origin = d.own then
    if rawHop r = 1#4 then d else d.clash
  else if d.line.recentHas r.origin r.seq then d
  else (d.withLine (d.line.recentAdd r.origin r.seq)).judgeBody r order hoistFirst

/-- R15: a frame completes on the wire, while the port is on and its transmitter is not in SEND. -/
def Device.frameReceived (bytes : List Byte) (order : List FrameStep) (hoistFirst : Bool) (d : Device) : Device :=
  if d.running && d.configured && !(d.line.tx == .send) then
    match checkFrame bytes with
    | some r => d.filterFrame r order hoistFirst
    | none => d
  else d

end Sys2Proof.Machine
end

