-- ==== Sys2Proof/Machine/Requests.lean ====
section
/-! DEFINITION. What each request does when it is carried out: its checks in the order of its rule, its effects, and its result's outcome
and data (10.3 to 10.6 and the rule of each request). The bytes on the link stand in Link.lean. -/

namespace Sys2Proof.Machine

/-- The outcome and the data bytes of a result (R151). -/
structure Reply where
  outcome : OutcomePair
  data : List Byte
  deriving DecidableEq, Repr

/-- A refusal carries no data (R151). -/
def refusal (d : Detail) : Reply := ⟨⟨.refused, d⟩, []⟩

def okay (data : List Byte) : Reply := ⟨outcomeDone, data⟩

/-- A request that is refused changes nothing. -/
def Device.refuse (d : Device) (why : Detail) : Device × Reply := (d, refusal why)

/-! ## Configuration, line mode, position (10.4) -/

def lineModeOf (mode : Byte) : LineMode := if mode = 1#8 then .mute else .normal

/-- R2, R10: CONFIGURE turns the Line Port on. -/
def LinePort.configured (l : LinePort) (station sect : Byte) (relay : Bool) (mode : LineMode) : LinePort :=
  { l with
    station := station, sect := sect, relay := relay, requested := mode, forcedMute := false, window := Config.windowMin,
    generator := station.toNat, tx := if mode = .normal then .idle else .off, remaining := none, queue := [], recent := [] }

/-- R35: JOINING, with both timers started. -/
def PeerRoster.joining (p : PeerRoster) : PeerRoster :=
  { p with state := .joining, joinTimer := some Config.joinListen, silenceTimer := some Config.hostSilence }

/-- R153. -/
def Device.reqConfigure (d : Device) (station sect relay mode : Byte) : Device × Reply :=
  if d.configured then d.refuse .alreadyConfigured
  else if !stationInRange station || 16 ≤ sect.toNat || 2 ≤ relay.toNat || 2 ≤ mode.toNat then d.refuse .badParam
  else
    ((d.withLine (d.line.configured station sect (relay == 1#8) (lineModeOf mode))).withPeers d.peers.joining, okay [])

/-- R154, check 3: what keeps a station from being muted. -/
def Device.busy (d : Device) : Bool :=
  (d.anyRecord fun r => !r.isEnded) || d.engine.run.state != .none || d.ownCount != 0

/-- R154. -/
def Device.reqSetLineMode (d : Device) (mode : Byte) : Device × Reply :=
  if !d.configured then d.refuse .notConfigured
  else if 2 ≤ mode.toNat then d.refuse .badParam
  else if mode = 1#8 && d.busy then d.refuse .wrongState
  else
    let d := if mode = 1#8 then d.setMode .mute d.line.forcedMute else d.setMode .normal false
    (d, okay [byteOf d.line.mode.code])

/-- R155. -/
def Device.reqSetPosition (d : Device) (c : Cell) : Device × Reply :=
  if c.onGrid then (d.withLink { d.link with position := c }, okay []) else d.refuse .badParam

/-! ## Status (R156) -/

def RunState.code : RunState → Nat
  | .none => 0
  | .awaitingNext => 1
  | .inEntry => 2
  | .ending => 3
  | .ended => 4

/-- R156: notices held in pending-notice sets, plus 1 when RUN_ENDED is owed. -/
def Device.owedCount (d : Device) : Nat :=
  (d.engine.table.map fun o => match o with
    | some r => r.notices.length
    | none => 0).sum + if d.engine.run.mark = .owed then 1 else 0

/-- R156: the data bytes, in their order. -/
def Device.statusBytes (d : Device) : List Byte :=
  [byteOf d.peers.state.code, d.line.modeByte] ++
  (if d.configured then [d.line.station, d.line.sect] else [0#8, 0#8]) ++
  cellBytes d.link.position ++ bytes32 d.hoistBin ++ bytesOfNat16 d.hoistE ++
  [byteOf d.recordCount, byteOf d.ownCount, byteOf d.link.notices.length, byteOf d.owedCount,
   byteOf d.engine.run.state.code, flagByte d.link.retentionRead, d.link.flags.byte]

/-- R156: the five summary flags are returned and cleared, and the retention-read flag is set. -/
def Device.reqReadStatus (d : Device) : Device × Reply :=
  (d.withLink { d.link with flags := SummaryFlags.clear, retentionRead := true }, okay d.statusBytes)

/-! ## Bins (R83) -/

/-- R83: LOAD BIN. -/
def Device.reqLoadBin (d : Device) (bin : BinId) (cls : Byte) (e0 : BitVec 16) : Device × Reply :=
  if !d.configured then d.refuse .notConfigured
  else if bin = 0#32 then d.refuse .badParam
  else if d.accounts.hoist.isSome then d.refuse .hoistBusy
  else if d.holdsBin bin then d.refuse .wrongBin
  else
    let c := BinClass.ofByte cls
    let a : Account := { bin := bin, cls := c, e := e0.toNat, location := .hoist, spent := false, wait := 0 }
    (d.createAccount .hoist bin c e0.toNat .hoist, okay ([byteOf c.code] ++ bytesOfNat16 a.slack))

/-- A giver record that is not ENDED has this bin (R93, R129). -/
def Device.givesBin (d : Device) (bin : BinId) : Bool :=
  d.anyRecord fun r => r.isGiver && !r.isEnded && r.bin == bin

/-- R83: UNLOAD BIN. -/
def Device.reqUnloadBin (d : Device) : Device × Reply :=
  if !d.configured then d.refuse .notConfigured
  else
    match d.accounts.hoist with
    | none => d.refuse .hoistEmpty
    | some a =>
      if d.anyRecord fun r => r.isGiver && !r.isEnded && !r.placed && r.bin == a.bin then d.refuse .wrongState
      else
        (d.removeAccount .hoist,
          okay (bytes32 a.bin ++ [byteOf a.cls.code] ++ bytesOfNat16 a.e ++ [flagByte a.spent]))

/-! ## The giver's requests (06) -/

/-- A taker parameter that is refused: above 31, or the own number (R93, R105). -/
def Device.takerBad (d : Device) (taker : Byte) : Bool := 31 < taker.toNat || taker == d.own

def slotTagBytes (i : Nat) (t : Tag) : List Byte := [byteOf i] ++ tagBytes t

/-- R93. -/
def Device.reqPostHandover (d : Device) (cell : Cell) (taker : Byte) : Device × Reply :=
  if !d.configured then d.refuse .notConfigured
  else
    match d.accounts.hoist, d.freeSlot with
    | none, _ => d.refuse .hoistEmpty
    | some a, free =>
      if d.givesBin a.bin then d.refuse .wrongState
      else
        match free with
        | none => d.refuse .tableFull
        | some i =>
          if !cell.onGrid then d.refuse .badParam
          else if d.takerBad taker then d.refuse .badParam
          else (d.createGiver i a cell taker 0, okay (slotTagBytes i d.newTag))

/-- The first two checks of every request that names a record: NOT_CONFIGURED, NO_SUCH_TAG. -/
def Device.withRecord (d : Device) (t : Tag) (f : Nat → Record → Device × Reply) : Device × Reply :=
  if !d.configured then d.refuse .notConfigured
  else
    match d.slotOf t with
    | none => d.refuse .noSuchTag
    | some i =>
      match d.recordAt i with
      | none => d.refuse .noSuchTag
      | some r => f i r

/-- R105. -/
def Device.reqReoffer (d : Device) (t : Tag) (taker : Byte) : Device × Reply :=
  d.withRecord t fun i r =>
    if r.state ≠ .giver .unbound then d.refuse .wrongState
    else if d.takerBad taker then d.refuse .badParam
    else (d.giverReoffer i r taker, okay [])

/-- R100. -/
def Device.reqReportSetdown (d : Device) (t : Tag) : Device × Reply :=
  d.withRecord t fun i r =>
    if r.state ≠ .giver .bound ∧ ¬ (r.state = .giver .unbound ∧ r.placed = false) then d.refuse .wrongState
    else if d.link.position ≠ r.cell then d.refuse .wrongCell
    else
      match d.accounts.hoist with
      | none => d.refuse .hoistEmpty
      | some a =>
        if a.bin ≠ r.bin then d.refuse .wrongBin
        else (d.giverSetdown i r, okay (bytesOfNat16 a.e))

/-- ENDED(DONE). -/
def Record.endedDone (r : Record) : Bool :=
  r.isEnded && (match r.outcome with
    | some o => o.cls == .done
    | none => false)

/-- R103. -/
def Device.reqRecover (d : Device) (t : Tag) : Device × Reply :=
  d.withRecord t fun i r =>
    match r.state with
    | .taker _ => d.refuse .wrongState
    | .giver s =>
      if r.endedDone then d.refuse .tooLate
      else if s = .ended ∨ r.placed = false then d.refuse .wrongState
      else if d.accounts.hoist.isSome then d.refuse .hoistBusy
      else if d.link.position ≠ r.cell then d.refuse .wrongCell
      else (d.giverRecover i r, okay (bytesOfNat16 (d.slotE i)))

/-- R107 for a giver record, R122 for a taker record. -/
def Device.reqCancel (d : Device) (t : Tag) : Device × Reply :=
  d.withRecord t fun i r =>
    if r.isEnded then d.refuse .wrongState
    else if r.isGiver then
      if r.placed then d.refuse .wrongState else (d.giverCancel i r, okay [])
    else (d.takerCancel i r, okay [])

/-! ## The taker's requests (07) -/

/-- R116. -/
def Device.reqAnswerInvite (d : Device) (t : Tag) (answer : Byte) : Device × Reply :=
  d.withRecord t fun i r =>
    if 1 < answer.toNat then d.refuse .badParam
    else if r.state ≠ .taker .invited then d.refuse .wrongState
    else if answer = 1#8 then (d.takerAgree i r, okay [])
    else (d.takerDecline i r, okay [])

/-- R120. -/
def Device.reqReportLift (d : Device) (t : Tag) : Device × Reply :=
  d.withRecord t fun i r =>
    match r.state with
    | .giver _ => d.refuse .wrongState
    | .taker .ended => d.refuse .tooLate
    | .taker .ready =>
      if d.accounts.hoist.isSome then d.refuse .hoistBusy
      else if d.link.position ≠ r.cell then d.refuse .wrongCell
      else (d.takerLift i r, okay (bytesOfNat16 (d.slotE i)))
    | .taker _ => d.refuse .wrongState

/-! ## Runs (08) -/

/-- R128, check 5: no entry with bin 0, a taker above 31 or the own number, or the bin of an earlier entry. -/
def runItemsValid (own : Station) : List BinId → List RunItem → Bool
  | _, [] => true
  | seen, e :: es =>
    e.bin != 0#32 && e.taker.toNat ≤ 31 && e.taker != own && !(seen.contains e.bin) && runItemsValid own (e.bin :: seen) es

def runEntryOf (e : RunItem) : RunEntry :=
  { bin := e.bin, cls := BinClass.ofByte e.cls, taker := e.taker, state := .waiting }

/-- R128: the run list that START RUN leaves. -/
def startedRun (cell : Cell) (skip : BitVec 4) (es : List RunItem) : RunList :=
  { state := .awaitingNext, cell := cell, skip := skip == 1#4, entries := es.map runEntryOf, next := 1, timer := some 0,
    outcome := none, mark := .none }

/-- R128. -/
def Device.reqStartRun (d : Device) (cell : Cell) (skip count : BitVec 4) (es : List RunItem) : Device × Reply :=
  if !d.configured then d.refuse .notConfigured
  else if !d.isActive then d.refuse .notActive
  else if d.engine.run.state ≠ .none then d.refuse .wrongState
  else if count.toNat = 0 ∨ Config.runSize < count.toNat ∨ cell.onGrid = false ∨ 1 < skip.toNat then d.refuse .badParam
  else if !runItemsValid d.own [] es then d.refuse .badParam
  else (d.withRun (startedRun cell skip es), okay [byteOf es.length])

/-- R129: the entry is ACTIVE, the run IN_ENTRY, and the service timer stops. -/
def RunList.handing (r : RunList) (ordinal : Nat) : RunList :=
  { r.setEntry ordinal .active with state := .inEntry, timer := none }

/-- R129. -/
def Device.reqNextEntry (d : Device) (ordinal : Byte) : Device × Reply :=
  let r := d.engine.run
  if !d.configured then d.refuse .notConfigured
  else if r.state ≠ .awaitingNext then d.refuse .wrongState
  else if ordinal.toNat ≠ r.next then d.refuse .badParam
  else
    match d.accounts.hoist with
    | none => d.refuse .hoistEmpty
    | some a =>
      match r.entry ordinal.toNat with
      | none => d.refuse .wrongBin
      | some e =>
        if a.bin ≠ e.bin ∨ a.cls ≠ e.cls then d.refuse .wrongBin
        else if d.givesBin a.bin then d.refuse .wrongState
        else
          match d.freeSlot with
          | none => d.refuse .tableFull
          | some i =>
            ((d.withRun (r.handing ordinal.toNat)).createGiver i a r.cell e.taker ordinal.toNat, okay (slotTagBytes i d.newTag))

/-- R134. -/
def Device.reqWithdrawEntry (d : Device) (ordinal : Byte) : Device × Reply :=
  let r := d.engine.run
  let n := ordinal.toNat
  if !d.configured then d.refuse .notConfigured
  else if r.state = .none ∨ r.state = .ended then d.refuse .wrongState
  else
    match r.entry n with
    | none => d.refuse .badParam
    | some e =>
      if e.state ≠ .waiting ∨ n < r.next then d.refuse .wrongState
      else
        let d := d.withRun (r.setEntry n .withdrawn)
        let d := if r.state = .awaitingNext ∧ n = r.next then (d.advanceRun false).1 else d
        (d, okay [byteOf d.engine.run.state.code, byteOf d.engine.run.next])

/-- R133. -/
def Device.reqEndRun (d : Device) : Device × Reply :=
  if !d.configured then d.refuse .notConfigured
  else
    match d.engine.run.state with
    | .awaitingNext => (d.endRun ⟨.done, .terminated⟩, okay [])
    | .inEntry => (d.withRun { d.engine.run with state := .ending }, okay [])
    | _ => d.refuse .wrongState

/-! ## Adoption (R139) -/

/-- R139, check 6: what the roster says of the target; none when the request is taken. -/
def Device.targetVerdict (d : Device) (target : Station) : Option Detail :=
  match d.rosterEntry target with
  | none => some .targetSilent
  | some e =>
    if e.link = .lost then some .targetSilent
    else
      match e.announced with
      | some .lapsed => none
      | some .ceding => some .targetBusy
      | _ => some .targetLive

/-- R139. -/
def Device.reqAdopt (d : Device) (target : Byte) : Device × Reply :=
  if !d.configured then d.refuse .notConfigured
  else if !stationInRange target || target == d.own then d.refuse .badParam
  else if !d.isActive then d.refuse .notActive
  else if d.muted then d.refuse .lineMuted
  else if d.engine.adoption.phase ≠ .none then d.refuse .wrongState
  else
    match d.targetVerdict target with
    | some why => d.refuse why
    | none => (d.startAdoption target, okay [])

/-! ## Watches (R72) -/

/-- R72. -/
def Device.reqSetWatch (d : Device) (index flag row col station : Byte) : Device × Reply :=
  if 3 < index.toNat ∨ 1 < flag.toNat then d.refuse .badParam
  else
    let w : Option Watch := if flag = 1#8 then some { row := row, col := col, station := station } else none
    (d.withClaims { d.claims with watches := d.claims.watches.set index.toNat w }, okay [])

/-! ## COLLECT (R160) -/

/-- R33: the 12-byte notice record. Unused value bytes are 0. -/
def Notice.bytes (n : Notice) : List Byte :=
  [byteOf n.kind.code, byteOf n.outcome.cls.code, byteOf n.outcome.detail.code,
   (match n.slot with | some i => byteOf i | none => 255#8)] ++
  (match n.tag with | some t => tagBytes t | none => [0#8, 0#8]) ++
  (n.values ++ List.replicate 5 0#8).take 5 ++ [n.station]

/-- R160: what COLLECT returns with the queue empty. -/
def Notice.absent : Notice := plainNotice .none outcomeDone [] 0#8

/-- R92, R160 step 1: the ENDED notice of a record has been collected: its slot is freed, or waits for its last notice. -/
def Device.endedCollected (d : Device) (i : Nat) (t : Tag) : Device :=
  match d.recordAt i with
  | some r =>
    if r.tag = t ∧ r.isEnded then
      if r.notices.isEmpty then d.setSlot i none else d.setSlot i (some { r with endCollected := true })
    else d
  | none => d

/-- R137: RUN_ENDED has been collected. -/
def RunList.collected (r : RunList) : RunList :=
  { r with state := .none, entries := [], outcome := none, mark := .none }

/-- R160, steps 1 and 2. -/
def Device.noticeCollected (d : Device) (n : Notice) : Device :=
  match n.kind, n.slot, n.tag with
  | .ended, some i, some t => d.endedCollected i t
  | .runEnded, _, _ => d.withRun d.engine.run.collected
  | _, _, _ => d

/-- R160, without its step 3: the oldest notice leaves the queue and takes its effects, or the queue is empty. -/
def Device.takeNotice (d : Device) : Device × Reply :=
  match d.link.notices with
  | [] => (d, ⟨outcomeDone, Notice.absent.bytes⟩)
  | n :: rest => ((d.withLink { d.link with notices := rest }).noticeCollected n, ⟨n.outcome, n.bytes⟩)

/-- R160: the three steps in order, the last of them the owed move into the place come free (R159). They are the request's own effects, so
the LAPSE_ENDED of a LAPSED station (R38), which `Device.completed` queues after them (R150), finds the place taken by what was owed. A
notice of another command is offered before the place comes free or after the owed move, never between (the model's choice, assumption log 50). -/
def Device.reqCollect (d : Device) : Device × Reply :=
  let r := d.takeNotice
  (if d.link.notices.isEmpty then r.1 else r.1.moveOwed, r.2)

/-! ## The paged reads (R157) -/

def GiverState.code : GiverState → Nat
  | .pending => 1
  | .staking => 2
  | .offering => 3
  | .bound => 4
  | .placed => 5
  | .unbound => 6
  | .ended => 7

def TakerState.code : TakerState → Nat
  | .invited => 1
  | .agreed => 2
  | .bound => 3
  | .ready => 4
  | .ended => 5

/-- R157: the role byte and the state byte. -/
def RecState.bytes : RecState → Byte × Byte
  | .giver s => (1#8, byteOf s.code)
  | .taker s => (2#8, byteOf s.code)

def LiftedMark.code : LiftedMark → Nat
  | .none => 0
  | .awaited => 1
  | .owed => 2
  | .sent => 3

def RequestStatus.code : RequestStatus → Nat
  | .contesting => 1
  | .limit => 2
  | .ownUse => 3
  | .blocked => 4
  | .outranked => 5
  | .afterDrop => 6

def Location.code : Location → Nat
  | .hoist => 1
  | .cell => 2
  | .shadow => 3

/-- R157: bin (4), class, E (2), location, spent flag, W (2); all 0 without an account. -/
def accountBytes : Option Account → List Byte
  | some a =>
    bytes32 a.bin ++ [byteOf a.cls.code] ++ bytesOfNat16 a.e ++ [byteOf a.location.code, flagByte a.spent] ++ bytesOfNat16 a.wait
  | none => List.replicate 11 0#8

/-- R157: 0..15 for a slot, 16 for H, 255 for none. -/
def accountPosByte : Option AccountPos → Byte
  | some .hoist => 16#8
  | some (.slot n) => byteOf n
  | none => 255#8

/-- R157: the fields of R90 in its table's order, the LIFTED mark, the request status and the account. -/
def Device.recordBytes (d : Device) (i : Nat) (r : Record) : List Byte :=
  [byteOf i] ++ tagBytes r.tag ++ [(RecState.bytes r.state).1, r.partner] ++ bytes32 r.bin ++ [byteOf r.cls.code] ++
  cellBytes r.cell ++ [(RecState.bytes r.state).2] ++
  (match r.outcome with | some o => [byteOf o.cls.code, byteOf o.detail.code] | none => [255#8, 255#8]) ++
  [byteOf r.ordinal, flagByte r.placed, flagByte r.addressed, byteOf r.offers, byteOf r.timer] ++
  bytesOfNat16 (r.frozenKey.getD 65535) ++ [flagByte r.setdownOwed] ++ bytesOfNat16 (pendingBits r.notices) ++
  [accountPosByte (r.accountPos i), byteOf r.lifted.code,
   (match r.request with | some s => byteOf s.code | none => 0#8)] ++
  accountBytes (d.recordAccount i r)

/-- R157: READ RECORD; the slot modulo 16. -/
def Device.reqReadRecord (d : Device) (slot : Byte) : Device × Reply :=
  let i := slot.toNat % Config.slotCount
  (d, okay ([byteOf i] ++ (match d.recordAt i with
    | some r => 1#8 :: d.recordBytes i r
    | none => [0#8])))

/-- R157: page p of a list, eight to a page. -/
def pageOf {α : Type} (l : List α) (p : Nat) : List α := (l.drop (8 * p)).take 8

/-- R157: the total, the number on the page, and the page's entries. -/
def pageBytes {α : Type} (l : List α) (p : Nat) (f : α → List Byte) : List Byte :=
  [byteOf l.length, byteOf (pageOf l p).length] ++ (pageOf l p).flatMap f

/-- R157: 0..15 slot, 16 RUN_HOLD, 17 LINGER, 255 for a heard entry. -/
def useByte : Option StakeUse → Byte
  | some (.slot i) => byteOf i
  | some .runHold => 16#8
  | some .linger => 17#8
  | none => 255#8

/-- R157: one claim in 11 bytes. -/
def claimBytes (x : Claim) : List Byte :=
  cellBytes x.cell ++ [x.claimant] ++ tagBytes x.tag ++ bytesOfNat16 x.key ++
  [phaseCode x.phase, byteOf x.age, flagByte x.own.isSome, useByte (ownUse x)]

/-- R157: READ CLAIMS; the page modulo 6. -/
def Device.reqReadClaims (d : Device) (page : Byte) : Device × Reply :=
  let p := page.toNat % 6
  (d, okay ([byteOf p] ++ pageBytes d.claims.entries p claimBytes))

def LinkState.code : LinkState → Nat
  | .heard => 0
  | .quiet => 1
  | .lost => 2

/-- R157: one roster entry in 10 bytes. -/
def rosterBytes (e : RosterEntry) : List Byte :=
  [e.station, (match e.announced with | some s => byteOf s.code | none => 0#8), byteOf e.link.code] ++
  (match e.position with | some c => cellBytes c | none => [0#8, 0#8]) ++
  bytes32 (e.hoistBin.getD 0#32) ++ [byteOf e.age]

/-- R157: READ ROSTER; the page modulo 3. -/
def Device.reqReadRoster (d : Device) (page : Byte) : Device × Reply :=
  let p := page.toNat % 3
  (d, okay ([byteOf p] ++ pageBytes d.peers.roster p rosterBytes))

/-! ## Carrying a request out -/

/-- R150 step 3: the request goes to its owning block and is carried out by its own rule. -/
def Device.perform (d : Device) : Request → Device × Reply
  | .configure st se re mo => d.reqConfigure st se re mo
  | .setLineMode mo => d.reqSetLineMode mo
  | .readStatus => d.reqReadStatus
  | .setPosition c => d.reqSetPosition c
  | .loadBin b cl e0 => d.reqLoadBin b cl e0
  | .unloadBin => d.reqUnloadBin
  | .postHandover c t => d.reqPostHandover c t
  | .reoffer g t => d.reqReoffer g t
  | .reportSetdown g => d.reqReportSetdown g
  | .reportLift g => d.reqReportLift g
  | .recover g => d.reqRecover g
  | .answerInvite g a => d.reqAnswerInvite g a
  | .cancel g => d.reqCancel g
  | .startRun c skip n es => d.reqStartRun c skip n es
  | .nextEntry o => d.reqNextEntry o
  | .withdrawEntry o => d.reqWithdrawEntry o
  | .endRun => d.reqEndRun
  | .adopt t => d.reqAdopt t
  | .setWatch i f r c s => d.reqSetWatch i f r c s
  | .collect => d.reqCollect
  | .readRecord s => d.reqReadRecord s
  | .readClaims p => d.reqReadClaims p
  | .readRoster p => d.reqReadRoster p

end Sys2Proof.Machine
end

