-- ==== Sys2Proof/Machine/Link.lean ====
section
/-! DEFINITION. The byte exchange (10.1, 10.2): one byte each way in IDLE, GATHER and RESULT (R148 to R152), the completion of a request
(R150) and SELECT going high. -/

namespace Sys2Proof.Machine

/-- R151: a result as bytes: the count of what follows, outcome class, detail, data. -/
def Reply.bytes (r : Reply) : List Byte :=
  [byteOf (2 + r.data.length), byteOf r.outcome.cls.code, byteOf r.outcome.detail.code] ++ r.data

/-- R150: the judging of a complete request: unknown code, length, then its own rule. -/
def Device.judgeRequest (d : Device) (code length : Byte) (ps : List Byte) : Device × Reply :=
  if 24 ≤ code.toNat then d.refuse .invalidRequest
  else if Config.maxParams < length.toNat then d.refuse .badLength
  else
    match parseRequest code ps with
    | some q => d.perform q
    | none => d.refuse .badLength

/-- R150: the result goes to the buffer and the link enters RESULT. -/
def Device.withResult (d : Device) (r : Reply) : Device :=
  d.withLink { d.link with phase := .result, gathered := [], result := r.bytes }

/-- R150: a request is complete: it is judged, its result placed, and then the station hears of its completion (R37 to R39). -/
def Device.complete (d : Device) (code length : Byte) (ps : List Byte) : Device :=
  let r := d.judgeRequest code length ps
  (r.1.withResult r.2).requestCompleted

/-- R149: code, length and as many parameters as the length says; none for a length above 250. -/
def gatherComplete (length : Byte) (ps : List Byte) : Bool :=
  length.toNat ≤ ps.length || Config.maxParams < length.toNat

/-- R149, R150: one byte received in IDLE or GATHER. -/
def Device.gatherByte (d : Device) (gathered : List Byte) : Device :=
  match gathered with
  | code :: length :: ps =>
    if gatherComplete length ps then d.complete code length ps
    else d.withLink { d.link with phase := .gather, gathered := gathered }
  | _ => d.withLink { d.link with phase := .gather, gathered := gathered }

/-- R149, R150, R152: the status byte goes out, and the two flags it showed are cleared. -/
def DriveLink.giveStatus (l : DriveLink) : DriveLink :=
  { l with selected := true, dataOut := some l.statusByte, outOfPhase := false, incomplete := false }

/-- R151: the next byte of the result goes out; a byte received that is not 0 sets the out-of-phase flag. -/
def DriveLink.giveResult (l : DriveLink) (b : Byte) : DriveLink :=
  { l with
    selected := true, dataOut := l.result.head?, result := l.result.tail,
    phase := if l.result.tail.isEmpty then .idle else .result,
    outOfPhase := l.outOfPhase || b != 0#8 }

/-- R148 to R151: one exchange of a byte, with SELECT low. Bytes clocked in RETAIN are not taken (R161). -/
def Device.linkByte (d : Device) (b : Byte) : Device :=
  if d.running then
    match d.link.phase with
    | .idle =>
      let d := d.withLink d.link.giveStatus
      if b = 0#8 then d else d.gatherByte [b]
    | .gather => (d.withLink d.link.giveStatus).gatherByte (d.link.gathered ++ [b])
    | .result => d.withLink (d.link.giveResult b)
  else d

def Device.linkBytes (d : Device) (bs : List Byte) : Device := bs.foldl Device.linkByte d

/-- A host sends the bytes of a request (assumption log 7). -/
def Device.hostRequest (q : Request) (d : Device) : Device := d.linkBytes (requestBytes q)

/-- R148, R150: SELECT goes high: in GATHER the partial request is discarded and the incomplete flag set. -/
def Device.selectHigh (d : Device) : Device :=
  let l := { d.link with selected := false, dataOut := none }
  if d.link.phase = .gather then d.withLink { l with phase := .idle, gathered := [], incomplete := true }
  else d.withLink l

/-- The bytes clocked before SELECT goes high, then SELECT going high (assumption log 8). -/
def Device.selectRelease (clocked : List Byte) (d : Device) : Device :=
  if d.running then (d.linkBytes clocked).selectHigh else d

end Sys2Proof.Machine
end

