-- ==== Sys2Proof/Machine/HostCommands.lean ====
section
/-! DEFINITION. The meanings of the drive link's commands: the 23 requests of the catalogue and the unknown request (R150), and the byte
and SELECT events (R149 to R151). A request is its bytes on the link: one sent while a result waits is not taken (R151). -/

namespace Sys2Proof.Machine

/-- R153. -/
def execConfigure (station sect relay mode : Byte) (s : State) : Host.Outcome State Fault Refusal :=
  act (Device.hostRequest (.configure station sect relay mode)) s

/-- R154. -/
def execSetLineMode (mode : Byte) (s : State) : Host.Outcome State Fault Refusal :=
  act (Device.hostRequest (.setLineMode mode)) s

/-- R156. -/
def execReadStatus (s : State) : Host.Outcome State Fault Refusal :=
  act (Device.hostRequest .readStatus) s

/-- R155. -/
def execSetPosition (row col : Byte) (s : State) : Host.Outcome State Fault Refusal :=
  act (Device.hostRequest (.setPosition ⟨row, col⟩)) s

/-- R83. -/
def execLoadBin (bin : BinId) (cls : Byte) (e0 : BitVec 16) (s : State) : Host.Outcome State Fault Refusal :=
  act (Device.hostRequest (.loadBin bin cls e0)) s

/-- R83. -/
def execUnloadBin (s : State) : Host.Outcome State Fault Refusal :=
  act (Device.hostRequest .unloadBin) s

/-- R93. -/
def execPostHandover (row col taker : Byte) (s : State) : Host.Outcome State Fault Refusal :=
  act (Device.hostRequest (.postHandover ⟨row, col⟩ taker)) s

/-- R105. -/
def execReoffer (giver seq taker : Byte) (s : State) : Host.Outcome State Fault Refusal :=
  act (Device.hostRequest (.reoffer ⟨giver, seq⟩ taker)) s

/-- R100. -/
def execReportSetdown (giver seq : Byte) (s : State) : Host.Outcome State Fault Refusal :=
  act (Device.hostRequest (.reportSetdown ⟨giver, seq⟩)) s

/-- R120. -/
def execReportLift (giver seq : Byte) (s : State) : Host.Outcome State Fault Refusal :=
  act (Device.hostRequest (.reportLift ⟨giver, seq⟩)) s

/-- R103. -/
def execRecover (giver seq : Byte) (s : State) : Host.Outcome State Fault Refusal :=
  act (Device.hostRequest (.recover ⟨giver, seq⟩)) s

/-- R116. -/
def execAnswerInvite (giver seq answer : Byte) (s : State) : Host.Outcome State Fault Refusal :=
  act (Device.hostRequest (.answerInvite ⟨giver, seq⟩ answer)) s

/-- R107, R122. -/
def execCancel (giver seq : Byte) (s : State) : Host.Outcome State Fault Refusal :=
  act (Device.hostRequest (.cancel ⟨giver, seq⟩)) s

/-- R128; the count is the number of entries given. -/
def execStartRun (row col : Byte) (skip : BitVec 4) (entries : List RunItem) (s : State) : Host.Outcome State Fault Refusal :=
  act (Device.hostRequest (.startRun ⟨row, col⟩ skip (BitVec.ofNat 4 entries.length) entries)) s

/-- R129. -/
def execNextEntry (ordinal : Byte) (s : State) : Host.Outcome State Fault Refusal :=
  act (Device.hostRequest (.nextEntry ordinal)) s

/-- R134. -/
def execWithdrawEntry (ordinal : Byte) (s : State) : Host.Outcome State Fault Refusal :=
  act (Device.hostRequest (.withdrawEntry ordinal)) s

/-- R133. -/
def execEndRun (s : State) : Host.Outcome State Fault Refusal :=
  act (Device.hostRequest .endRun) s

/-- R139. -/
def execAdopt (target : Byte) (s : State) : Host.Outcome State Fault Refusal :=
  act (Device.hostRequest (.adopt target)) s

/-- R72. -/
def execSetWatch (index flag row col station : Byte) (s : State) : Host.Outcome State Fault Refusal :=
  act (Device.hostRequest (.setWatch index flag row col station)) s

/-- R160. -/
def execCollect (s : State) : Host.Outcome State Fault Refusal :=
  act (Device.hostRequest .collect) s

/-- R157. -/
def execReadRecord (slot : Byte) (s : State) : Host.Outcome State Fault Refusal :=
  act (Device.hostRequest (.readRecord slot)) s

/-- R157. -/
def execReadClaims (page : Byte) (s : State) : Host.Outcome State Fault Refusal :=
  act (Device.hostRequest (.readClaims page)) s

/-- R157. -/
def execReadRoster (page : Byte) (s : State) : Host.Outcome State Fault Refusal :=
  act (Device.hostRequest (.readRoster page)) s

/-- R150: any code, length and parameter bytes; with a code of 24 or above the request is unknown. -/
def execInvalidRequest (code length : Byte) (params : List Byte) (s : State) : Host.Outcome State Fault Refusal :=
  act (fun d => d.linkBytes ([code, length] ++ params)) s

/-- R149: a byte of 0 is exchanged. -/
def execFillByte (s : State) : Host.Outcome State Fault Refusal :=
  act (fun d => d.linkByte 0#8) s

/-- R151: a byte is exchanged. -/
def execResultByte (received : Byte) (s : State) : Host.Outcome State Fault Refusal :=
  act (fun d => d.linkByte received) s

/-- R150: bytes are exchanged and SELECT goes high. -/
def execSelectRelease (clocked : List Byte) (s : State) : Host.Outcome State Fault Refusal :=
  act (Device.selectRelease clocked) s

end Sys2Proof.Machine
end

