-- ==== Sys2Proof/Machine/LineCommands.lean ====
section
/-! DEFINITION. The meanings of the grid line's commands: medium access (R9 to R12), a frame received (R15), and a body at its owner
(R29), one command for each kind of body. -/

namespace Sys2Proof.Machine

/-! ## Medium access -/

/-- An event of the line at a port that is on (R2). -/
def onLine (f : LinePort → LinePort) : Device → Device := whenConfigured fun d => d.withLine (f d.line)

/-- R9. -/
def execLineBusy (s : State) : Host.Outcome State Fault Refusal := act (onLine LinePort.busy) s

/-- R9, R10. -/
def execQuietGapComplete (s : State) : Host.Outcome State Fault Refusal := act (onLine LinePort.quietGap) s

/-- R9. -/
def execDeferralEnd (s : State) : Host.Outcome State Fault Refusal := act (onLine LinePort.deferEnd) s

/-- R9. -/
def execLineSlot (s : State) : Host.Outcome State Fault Refusal := act (onLine LinePort.slot) s

/-- R11. -/
def execCleanSend (s : State) : Host.Outcome State Fault Refusal := act (whenConfigured Device.cleanSend) s

/-- R12. -/
def execCollision (s : State) : Host.Outcome State Fault Refusal := act (whenConfigured Device.collision) s

/-! ## Frames and bodies -/

/-- R15 to R19, R22, R29. -/
def execFrameReceived (bytes : List Byte) (order : List FrameStep) (hoistFirst : Bool) (s : State) :
    Host.Outcome State Fault Refusal :=
  act (Device.frameReceived bytes order hoistFirst) s

/-- R42, R45, R47, R53, R168. -/
def execPresenceHeard (origin : Station) (body : PresenceBody) (hoistFirst : Bool) (s : State) : Host.Outcome State Fault Refusal :=
  act (Device.takeBody origin (.presence body) hoistFirst) s

/-- R51. -/
def execStakeHeard (origin : Station) (body : StakeBody) (s : State) : Host.Outcome State Fault Refusal :=
  act (Device.takeBody origin (.stake body) false) s

/-- R51. -/
def execUnstakeHeard (origin : Station) (body : UnstakeBody) (s : State) : Host.Outcome State Fault Refusal :=
  act (Device.takeBody origin (.unstake body) false) s

/-- R113, R114. -/
def execOfferHeard (origin : Station) (body : OfferBody) (s : State) : Host.Outcome State Fault Refusal :=
  act (Device.takeBody origin (.offer body) false) s

/-- R97, R106. -/
def execAgreeHeard (origin : Station) (body : AgreeBody) (s : State) : Host.Outcome State Fault Refusal :=
  act (Device.takeBody origin (.agree body) false) s

/-- R98. -/
def execDeclineHeard (origin : Station) (body : DeclineBody) (s : State) : Host.Outcome State Fault Refusal :=
  act (Device.takeBody origin (.decline body) false) s

/-- R118. -/
def execBindHeard (origin : Station) (body : BindBody) (s : State) : Host.Outcome State Fault Refusal :=
  act (Device.takeBody origin (.bind body) false) s

/-- R119. -/
def execSetdownHeard (origin : Station) (body : SetdownBody) (s : State) : Host.Outcome State Fault Refusal :=
  act (Device.takeBody origin (.setdown body) false) s

/-- R102, R104. -/
def execLiftedHeard (origin : Station) (body : LiftedBody) (s : State) : Host.Outcome State Fault Refusal :=
  act (Device.takeBody origin (.lifted body) false) s

/-- R109, R123. -/
def execCancelHeard (origin : Station) (body : CancelBody) (s : State) : Host.Outcome State Fault Refusal :=
  act (Device.takeBody origin (.cancel body) false) s

/-- R143. -/
def execAdoptHeard (origin : Station) (body : AdoptBody) (s : State) : Host.Outcome State Fault Refusal :=
  act (Device.takeBody origin (.adopt body) false) s

/-- R141, R142. -/
def execCedeHeard (origin : Station) (body : CedeBody) (s : State) : Host.Outcome State Fault Refusal :=
  act (Device.takeBody origin (.cede body) false) s

/-- R145, R147, R69. -/
def execReceiptHeard (origin : Station) (body : ReceiptBody) (s : State) : Host.Outcome State Fault Refusal :=
  act (Device.takeBody origin (.receipt body) false) s

end Sys2Proof.Machine
end

