-- ==== Sys2Proof/Machine/Power.lean ====
section
/-! DEFINITION. Power, retention and start (11): the entry to RETAIN (R161), the hold latch (R162), the cold start (R165), the resume
(R166, R167), and the meanings of the seven power commands. -/

namespace Sys2Proof.Machine

/-! ## Entry to RETAIN (R161) -/

/-- R161: running timers of the stakes stop and are discarded. -/
def Claim.stopped (x : Claim) : Claim :=
  { x with own := x.own.map fun o => { o with settle := none, linger := none } }

/-- R161: every block stops where it stands: timers are discarded, the queue is abandoned without an ending, the transmitter stops,
DATA-OUT goes to high impedance, and a request or result on the link is lost. The carrier flag is set quiet (assumption log 45). -/
def Device.stopped (d : Device) : Device :=
  { d with
    line := { d.line with tx := .off, remaining := none, queue := [], carrier := false }
    peers := { d.peers with joinTimer := none, silenceTimer := none }
    claims := { d.claims with entries := d.claims.entries.map Claim.stopped }
    engine := { d.engine with
      run := { d.engine.run with timer := none }
      adoption := { d.engine.adoption with timer := none, frame := none }
      ceding := { d.engine.ceding with frame := none } }
    link := { d.link with
      phase := .idle, gathered := [], result := [], outOfPhase := false, incomplete := false, dataOut := none } }

/-- R161: the power state becomes RETAIN and the backup seconds counter begins at 0. -/
def Device.enterRetain (d : Device) (mainPower resetHeld : Bool) : Device :=
  d.stopped.withPower { d.power with state := .retain, backup := 0, mainPower := mainPower, resetHeld := resetHeld }

/-- R161: main power is lost; in RETAIN, with RESET held on main power, the station stays there. -/
def Device.mainPowerLoss (d : Device) : Device :=
  match d.power.state with
  | .run => d.enterRetain false d.power.resetHeld
  | .retain => d.withPower { d.power with mainPower := false }
  | .unpowered => d

/-- R161: RESET is asserted. -/
def Device.resetAssert (d : Device) : Device :=
  match d.power.state with
  | .run => d.enterRetain d.power.mainPower true
  | _ => d.withPower { d.power with resetHeld := true }

/-- R161: one second in RETAIN. -/
def Device.backupSecond (d : Device) : Device :=
  match d.power.state with
  | .retain => d.withPower { d.power with backup := min Config.countMax (d.power.backup + 1) }
  | _ => d

/-- R162: judged only in RETAIN while main power is absent. -/
def Device.thresholdDip (d : Device) : Device :=
  if d.power.state = .retain ∧ d.power.mainPower = false then d.withPower { d.power with holdLatch := true } else d

/-! ## Cold start (R165) -/

/-- R165: all state takes its initial value, START is queued, and the latch is clear. -/
def Device.coldStart (d : Device) : Device := { Device.cold with freeCount := d.freeCount }

/-! ## Resume (R164, R166, R167) -/

/-- R49, R164: whether an entry is the own entry of a giver record that is not ENDED and has its placed flag set. -/
def Device.keepsClaim (d : Device) (x : Claim) : Bool :=
  match ownUse x with
  | some (.slot i) => d.recordIs i fun r => r.isGiver && !r.isEnded && r.placed
  | _ => false

/-- R49: a kept own entry: its tag, key and use, PLACED, age 0, no rival, no counts. -/
def Claim.resumed (x : Claim) : Claim :=
  { x with
    phase := .placed, age := 0,
    own := x.own.map fun o => { o with outcome := none, settle := none, linger := none, rival := none } }

/-- R164: what is lost: the roster, the other claims, the queue and the recent-frame list, the notice queue, the summary flags, the link,
adoption and ceding, the forced-mute flag, the host-returned mark. -/
def Device.retained (d : Device) : Device :=
  { d with
    line := { d.line with
      forcedMute := false, window := Config.windowMin, tx := .off, remaining := none, queue := [], recent := [] }
    peers := { d.peers with joinTimer := none, silenceTimer := none, hostReturned := false, roster := [] }
    claims := { d.claims with entries := (d.claims.entries.filter d.keepsClaim).map Claim.resumed }
    engine := { d.engine with adoption := Adoption.initial, ceding := Ceding.initial }
    link := { d.link with
      phase := .idle, gathered := [], result := [], outOfPhase := false, incomplete := false, notices := [],
      flags := SummaryFlags.clear, dataOut := none } }

/-- R166 step 2, R2, R10, R34, R35: the station enters JOINING and the port is on. -/
def Device.rejoin (d : Device) : Device :=
  if d.configured then
    (d.withPeers
      { d.peers with state := .joining, joinTimer := some Config.joinListen, silenceTimer := some Config.hostSilence }).withLine
      { d.line with generator := d.line.station.toNat, tx := if d.line.mode = .normal then .idle else .off }
  else d

/-- R167: a giver before set-down returns to PENDING. -/
def Device.revertGiver (d : Device) (i : Nat) (r : Record) : Device :=
  let d := d.setSlot i (some { r with state := .giver .pending, offers := 0, frozenKey := none, request := none, addressed := false })
  if r.addressed then d.sendCancel r.tag 1#8 else d

/-- R167: one record, by its role and state, once its timer is 0 and it awaits no frame's ending. -/
def Device.revalidateAs (d : Device) (i : Nat) (r : Record) : Device :=
  match r.state with
  | .giver .ended => d.raiseEnded i
  | .giver .placed => d.setSlot i (some { r with setdownOwed := true })
  | .giver .offering => if r.placed then d.setSlot i (some r.unbound) else d.revertGiver i r
  | .giver .unbound => if r.placed then d else d.revertGiver i r
  | .giver _ => d.revertGiver i r
  | .taker .invited => (d.sendDecline r.tag 2#8).endTaker i ⟨.refused, .noAnswer⟩
  | .taker .agreed => (d.sendCancel r.tag 1#8).endTaker i ⟨.upset, .resumed⟩
  | .taker .bound => (d.sendCancel r.tag 1#8).endTaker i ⟨.upset, .resumed⟩
  | .taker .ready => d
  | .taker .ended =>
    if r.lifted = .awaited ∨ r.lifted = .owed then d.setSlot i (some { r with lifted := .owed }) else d.raiseEnded i

/-- R167: the state timer is 0 in every case, no ending is awaited, and an end notice counts as not collected. -/
def Record.resumed (r : Record) : Record :=
  { r with timer := 0, endCollected := false, agreeFrame := none, bindFrame := none, setdownFrame := none, liftedFrame := none }

def Device.revalidate (d : Device) (i : Nat) : Device :=
  match d.recordAt i with
  | some r => (d.setSlot i (some r.resumed)).revalidateAs i r.resumed
  | none => d

/-- R127, R166 step 4. -/
def RunList.resumed (r : RunList) : RunList :=
  { r with
    timer := if r.state = .awaitingNext then some 0 else none,
    mark := if r.state = .ended then .owed else r.mark }

/-- R166 step 5: the retention-read flag, START with the downtime, then (in RUN) the owed notices. -/
def Device.announceStart (d : Device) (downtime : Nat) : Device :=
  let d := (d.withLink { d.link with retentionRead := true }).pushNotice (Notice.start downtime)
  (d.withPower { d.power with state := .run, mainPower := true, resetHeld := false }).moveOwed

/-- R166: a resume, in the order of its steps. The power state is RUN only at the last, so that owed notices wait for it. -/
def Device.resume (d : Device) : Device :=
  let downtime := d.power.backup
  let d := (d.retained.chargeDowntime downtime).rejoin
  let d := forSlots (fun i d => d.revalidate i) d
  (d.withRun d.engine.run.resumed).announceStart downtime

/-! ## Starts (R161, R162) -/

/-- R161, R162, R165: first power, or leaving RETAIN with the latch set. -/
def Device.tryColdStart (d : Device) : Device :=
  match d.power.state with
  | .unpowered => d.coldStart
  | .retain => if d.power.holdLatch then d.coldStart else d
  | .run => d

/-- R161, R162, R166: leaving RETAIN with the latch clear. -/
def Device.tryResume (d : Device) : Device :=
  if d.power.state = .retain ∧ d.power.holdLatch = false then d.resume else d

/-- R161, R162: main power returns. With RESET held the station stays in RETAIN, fed from main power; with RESET released it starts.
First power under RESET finds no retained contents: the latch is set and the start waits for the release. -/
def Device.mainPowerReturn (d : Device) : Device :=
  match d.power.state with
  | .run => d
  | .retain =>
    if d.power.resetHeld then d.withPower { d.power with mainPower := true }
    else d.tryColdStart.tryResume
  | .unpowered =>
    if d.power.resetHeld then
      d.withPower { d.power with state := .retain, holdLatch := true, backup := 0, mainPower := true }
    else d.coldStart

/-! ## The commands -/

/-- R161. -/
def execMainPowerLoss (s : State) : Host.Outcome State Fault Refusal := act Device.mainPowerLoss s

/-- R161. -/
def execResetAssert (s : State) : Host.Outcome State Fault Refusal := act Device.resetAssert s

/-- R161. -/
def execBackupSecond (s : State) : Host.Outcome State Fault Refusal := act Device.backupSecond s

/-- R162. -/
def execHoldThresholdDip (s : State) : Host.Outcome State Fault Refusal := act Device.thresholdDip s

/-- R165. -/
def execColdStart (s : State) : Host.Outcome State Fault Refusal := act Device.tryColdStart s

/-- R166. -/
def execResume (s : State) : Host.Outcome State Fault Refusal := act Device.tryResume s

/-- R161. -/
def execMainPowerReturn (s : State) : Host.Outcome State Fault Refusal := act Device.mainPowerReturn s

end Sys2Proof.Machine
end

