-- ==== Sys2Proof/Machine/TimeCommands.lean ====
section
/-! DEFINITION. The meanings of the Timebase's commands and of each timer's expiry. BEACON_PERIOD_EXPIRY lets every block count its
timers (R163); an expiry command lets one timer that stands one short of its end expire (assumption log 2). -/

namespace Sys2Proof.Machine

/-! ## The beacon period (R163) -/

/-- One beacon-period expiry at a record: the offer window, an owed SETDOWN, the answer window, the AGREED timer, an owed LIFTED. A
record's state lets at most one of them act. -/
def Device.recordTick (d : Device) (i : Nat) : Device :=
  ((((d.offerTick i).setdownTick i).answerTick i).agreedTick i).liftedTick i

/-- The work of one block or part at a beacon-period expiry. -/
def Device.beaconTask (o : BeaconOrder) (d : Device) : BeaconTask → Device
  | .linePort => d.withLine d.line.recentAges
  | .peerRoster => d.peerRosterBeacon o.stations
  | .claimMap => d.claimMapBeacon o.cells
  | .record i => d.recordTick i
  | .run => d.serviceTick
  | .adoption => d.adoptionTick
  | .ceding => d.turnTick

/-- All the work of one beacon-period expiry, in the model's own order. -/
def beaconTasks : List BeaconTask :=
  [.linePort, .peerRoster, .claimMap] ++ slotList.map .record ++ [.run, .adoption, .ceding]

/-- R163: the expiry reaches every block; their order is open (00, "No step is shared by the whole device"; assumption log 9). -/
def Device.beaconPeriod (o : BeaconOrder) (d : Device) : Device :=
  (orderBy o.tasks beaconTasks).foldl (Device.beaconTask o) d

/-- R163. -/
def execBeaconPeriodExpiry (order : BeaconOrder) (s : State) : Host.Outcome State Fault Refusal :=
  act (whenRunning (Device.beaconPeriod order)) s

/-- R78 to R80. -/
def execAccountingSecond (order : List AccountPos) (s : State) : Host.Outcome State Fault Refusal :=
  act (whenRunning (Device.accountingSecond order)) s

/-! ## One timer's expiry -/

/-- An expiry acts only when its timer stands one short of its end. -/
def whenDue (due : Device → Bool) (f : Device → Device) (d : Device) : Device :=
  if d.running && due d then f d else d

/-- R36. -/
def execJoinListenExpiry (order : List Station) (s : State) : Host.Outcome State Fault Refusal :=
  act (whenDue (fun d => d.peers.state == .joining && d.peers.joinTimer == some 1) (Device.joinTick order)) s

/-- R37. -/
def execHostSilenceExpiry (s : State) : Host.Outcome State Fault Refusal :=
  act (whenDue (fun d => d.peers.silenceTimer == some 1) Device.silenceTick) s

/-- The silence age of a station's entry. -/
def Device.silenceAge (d : Device) (st : Station) : Option Nat := (d.rosterEntry st).map (·.age)

/-- R43. -/
def execRosterEntryQuiet (station : Station) (s : State) : Host.Outcome State Fault Refusal :=
  act (whenDue (fun d => d.silenceAge station == some 3) (fun d => d.ageEntry station)) s

/-- R43, R44. -/
def execRosterEntryLost (station : Station) (s : State) : Host.Outcome State Fault Refusal :=
  act (whenDue (fun d => d.silenceAge station == some 15) (fun d => d.ageEntry station)) s

/-- R18. -/
def execRecentPairExpiry (origin : Station) (seq : Byte) (s : State) : Host.Outcome State Fault Refusal :=
  act (whenRunning (fun d => d.withLine (d.line.recentExpire origin seq))) s

/-- R52: one heard entry of age 7 reaches age 8. -/
def Device.claimAgesOut (c : Cell) (st : Station) (d : Device) : Device := (d.removeHeard c st).retryRemoved [c]

/-- R52. -/
def execClaimAgeOut (row col : Byte) (claimant : Station) (s : State) : Host.Outcome State Fault Refusal :=
  act
    (whenDue (fun d => (d.heardClaim ⟨row, col⟩ claimant).map (·.age) == some 7)
      (Device.claimAgesOut ⟨row, col⟩ claimant)) s

/-- The settle count of the own stake on a cell. -/
def Device.settleOf (d : Device) (c : Cell) : Option Nat := (d.ownClaim c).bind fun x => x.own.bind (·.settle)

/-- The linger count of the own stake on a cell. -/
def Device.lingerOf (d : Device) (c : Cell) : Option Nat := (d.ownClaim c).bind fun x => x.own.bind (·.linger)

/-- R60. -/
def execSettleExpiry (row col : Byte) (s : State) : Host.Outcome State Fault Refusal :=
  act (whenDue (fun d => d.settleOf ⟨row, col⟩ == some 1) (fun d => d.settleTick ⟨row, col⟩)) s

/-- R66, R67. -/
def execLingerExpiry (row col : Byte) (s : State) : Host.Outcome State Fault Refusal :=
  act (whenDue (fun d => d.lingerOf ⟨row, col⟩ == some 1) (fun d => d.lingerTick ⟨row, col⟩)) s

/-- An OFFERING record with this state timer and offer-send count. -/
def offeringAt (timer offers : Nat) (r : Record) : Bool :=
  r.state == .giver .offering && r.timer == timer && r.offers == offers

/-- R96: the timer reaches 2 or 4. -/
def execOfferRepeat (slot : Nat) (s : State) : Host.Outcome State Fault Refusal :=
  act
    (whenDue (fun d => d.recordIs slot (offeringAt 1 1) || d.recordIs slot (offeringAt 3 2))
      (fun d => d.offerTick slot)) s

/-- R96: the timer reaches 6. -/
def execOfferWindowExpiry (slot : Nat) (s : State) : Host.Outcome State Fault Refusal :=
  act (whenDue (fun d => d.recordIs slot (offeringAt 5 3)) (fun d => d.offerTick slot)) s

/-- R115. -/
def execAnswerWindowExpiry (slot : Nat) (s : State) : Host.Outcome State Fault Refusal :=
  act
    (whenDue (fun d => d.recordIs slot fun r => r.state == .taker .invited && r.timer == 3)
      (fun d => d.answerTick slot)) s

/-- R117. -/
def execAgreedTimerExpiry (slot : Nat) (s : State) : Host.Outcome State Fault Refusal :=
  act
    (whenDue (fun d => d.recordIs slot fun r => r.state == .taker .agreed && r.agreeFrame.isNone && r.timer == 3)
      (fun d => d.agreedTick slot)) s

/-- R130. -/
def execServiceWindowExpiry (s : State) : Host.Outcome State Fault Refusal :=
  act (whenDue (fun d => d.engine.run.timer == some 11) Device.serviceTick) s

/-- R140. -/
def execAdoptionTimerExpiry (s : State) : Host.Outcome State Fault Refusal :=
  act (whenDue (fun d => d.engine.adoption.timer == some 1) Device.adoptionTick) s

/-- R144, R145: the open turn's record can be offered once more. -/
def Device.turnRetries (d : Device) : Bool :=
  match d.engine.ceding.turn with
  | .tag t => decide (d.engine.ceding.attempts < Config.cedeAttempts) && !d.engine.ceding.broken && d.tagCedable t
  | _ => false

/-- R144: the open turn closes unanswered at the next expiry. -/
def Device.turnCloses (d : Device) : Bool :=
  match d.engine.ceding.turn with
  | .tag _ => !d.turnRetries
  | _ => false

/-- R144. -/
def execCedeRetry (s : State) : Host.Outcome State Fault Refusal :=
  act (whenDue Device.turnRetries Device.turnTick) s

/-- R144, R145. -/
def execTurnCloseUnanswered (s : State) : Host.Outcome State Fault Refusal :=
  act (whenDue Device.turnCloses Device.turnTick) s

/-- R159. -/
def execOwedNoticeMove (s : State) : Host.Outcome State Fault Refusal := act Device.moveOwed s

end Sys2Proof.Machine
end

