-- ==== Sys2Proof/Machine/Dispatch.lean ====
section
/-! DEFINITION. The dispatch: one arm for each command, one direct call of its meaning. -/

namespace Sys2Proof.Machine

/-- The effect of a command on everything but the queue of waiting commands. -/
def exec (i : Instr) (s : State) : Host.Outcome State Fault Refusal :=
  match i with
  | .configure station sect relay mode => Sys2Proof.Machine.execConfigure station sect relay mode s
  | .setLineMode mode => Sys2Proof.Machine.execSetLineMode mode s
  | .readStatus => Sys2Proof.Machine.execReadStatus s
  | .setPosition row col => Sys2Proof.Machine.execSetPosition row col s
  | .loadBin bin cls e0 => Sys2Proof.Machine.execLoadBin bin cls e0 s
  | .unloadBin => Sys2Proof.Machine.execUnloadBin s
  | .postHandover row col taker => Sys2Proof.Machine.execPostHandover row col taker s
  | .reoffer giver seq taker => Sys2Proof.Machine.execReoffer giver seq taker s
  | .reportSetdown giver seq => Sys2Proof.Machine.execReportSetdown giver seq s
  | .reportLift giver seq => Sys2Proof.Machine.execReportLift giver seq s
  | .recover giver seq => Sys2Proof.Machine.execRecover giver seq s
  | .answerInvite giver seq answer => Sys2Proof.Machine.execAnswerInvite giver seq answer s
  | .cancel giver seq => Sys2Proof.Machine.execCancel giver seq s
  | .startRun row col skip entries => Sys2Proof.Machine.execStartRun row col skip entries s
  | .nextEntry ordinal => Sys2Proof.Machine.execNextEntry ordinal s
  | .withdrawEntry ordinal => Sys2Proof.Machine.execWithdrawEntry ordinal s
  | .endRun => Sys2Proof.Machine.execEndRun s
  | .adopt target => Sys2Proof.Machine.execAdopt target s
  | .setWatch index flag row col station => Sys2Proof.Machine.execSetWatch index flag row col station s
  | .collect => Sys2Proof.Machine.execCollect s
  | .readRecord slot => Sys2Proof.Machine.execReadRecord slot s
  | .readClaims page => Sys2Proof.Machine.execReadClaims page s
  | .readRoster page => Sys2Proof.Machine.execReadRoster page s
  | .invalidRequest code length params => Sys2Proof.Machine.execInvalidRequest code length params s
  | .fillByte => Sys2Proof.Machine.execFillByte s
  | .resultByte received => Sys2Proof.Machine.execResultByte received s
  | .selectRelease clocked => Sys2Proof.Machine.execSelectRelease clocked s
  | .mainPowerLoss => Sys2Proof.Machine.execMainPowerLoss s
  | .resetAssert => Sys2Proof.Machine.execResetAssert s
  | .backupSecond => Sys2Proof.Machine.execBackupSecond s
  | .holdThresholdDip => Sys2Proof.Machine.execHoldThresholdDip s
  | .coldStart => Sys2Proof.Machine.execColdStart s
  | .resume => Sys2Proof.Machine.execResume s
  | .beaconPeriodExpiry order => Sys2Proof.Machine.execBeaconPeriodExpiry order s
  | .accountingSecond order => Sys2Proof.Machine.execAccountingSecond order s
  | .joinListenExpiry order => Sys2Proof.Machine.execJoinListenExpiry order s
  | .hostSilenceExpiry => Sys2Proof.Machine.execHostSilenceExpiry s
  | .rosterEntryQuiet station => Sys2Proof.Machine.execRosterEntryQuiet station s
  | .rosterEntryLost station => Sys2Proof.Machine.execRosterEntryLost station s
  | .recentPairExpiry origin seq => Sys2Proof.Machine.execRecentPairExpiry origin seq s
  | .claimAgeOut row col claimant => Sys2Proof.Machine.execClaimAgeOut row col claimant s
  | .settleExpiry row col => Sys2Proof.Machine.execSettleExpiry row col s
  | .lingerExpiry row col => Sys2Proof.Machine.execLingerExpiry row col s
  | .offerRepeat slot => Sys2Proof.Machine.execOfferRepeat slot s
  | .offerWindowExpiry slot => Sys2Proof.Machine.execOfferWindowExpiry slot s
  | .answerWindowExpiry slot => Sys2Proof.Machine.execAnswerWindowExpiry slot s
  | .agreedTimerExpiry slot => Sys2Proof.Machine.execAgreedTimerExpiry slot s
  | .serviceWindowExpiry => Sys2Proof.Machine.execServiceWindowExpiry s
  | .adoptionTimerExpiry => Sys2Proof.Machine.execAdoptionTimerExpiry s
  | .cedeRetry => Sys2Proof.Machine.execCedeRetry s
  | .turnCloseUnanswered => Sys2Proof.Machine.execTurnCloseUnanswered s
  | .owedNoticeMove => Sys2Proof.Machine.execOwedNoticeMove s
  | .lineBusy => Sys2Proof.Machine.execLineBusy s
  | .quietGapComplete => Sys2Proof.Machine.execQuietGapComplete s
  | .deferralEnd => Sys2Proof.Machine.execDeferralEnd s
  | .cleanSend => Sys2Proof.Machine.execCleanSend s
  | .collision => Sys2Proof.Machine.execCollision s
  | .frameReceived bytes order hoistFirst => Sys2Proof.Machine.execFrameReceived bytes order hoistFirst s
  | .presenceHeard origin body hoistFirst => Sys2Proof.Machine.execPresenceHeard origin body hoistFirst s
  | .stakeHeard origin body => Sys2Proof.Machine.execStakeHeard origin body s
  | .unstakeHeard origin body => Sys2Proof.Machine.execUnstakeHeard origin body s
  | .offerHeard origin body => Sys2Proof.Machine.execOfferHeard origin body s
  | .agreeHeard origin body => Sys2Proof.Machine.execAgreeHeard origin body s
  | .declineHeard origin body => Sys2Proof.Machine.execDeclineHeard origin body s
  | .bindHeard origin body => Sys2Proof.Machine.execBindHeard origin body s
  | .setdownHeard origin body => Sys2Proof.Machine.execSetdownHeard origin body s
  | .liftedHeard origin body => Sys2Proof.Machine.execLiftedHeard origin body s
  | .cancelHeard origin body => Sys2Proof.Machine.execCancelHeard origin body s
  | .adoptHeard origin body => Sys2Proof.Machine.execAdoptHeard origin body s
  | .cedeHeard origin body => Sys2Proof.Machine.execCedeHeard origin body s
  | .receiptHeard origin body => Sys2Proof.Machine.execReceiptHeard origin body s
  | .lineSlot => Sys2Proof.Machine.execLineSlot s
  | .mainPowerReturn => Sys2Proof.Machine.execMainPowerReturn s

end Sys2Proof.Machine
end

