-- ==== Sys2Proof/Safety.lean ====
section
/-! DEFINITION. What the statements speak of: a part that takes a request and what it is after one, the families of commands, and what a
sound state is (the capacities and ranges that the spec gives the blocks' state). -/

namespace Sys2Proof

/-! ## Families of commands -/

/-- The commands of chapter 11. -/
def Instr.isPower : Instr → Bool
  | .mainPowerLoss => true
  | .resetAssert => true
  | .backupSecond => true
  | .holdThresholdDip => true
  | .coldStart => true
  | .resume => true
  | .mainPowerReturn => true
  | _ => false

/-- The requests of the catalogue (10.3). -/
def Instr.isRequest : Instr → Bool
  | .configure .. => true
  | .setLineMode _ => true
  | .readStatus => true
  | .setPosition .. => true
  | .loadBin .. => true
  | .unloadBin => true
  | .postHandover .. => true
  | .reoffer .. => true
  | .reportSetdown .. => true
  | .reportLift .. => true
  | .recover .. => true
  | .answerInvite .. => true
  | .cancel .. => true
  | .startRun .. => true
  | .nextEntry _ => true
  | .withdrawEntry _ => true
  | .endRun => true
  | .adopt _ => true
  | .setWatch .. => true
  | .collect => true
  | .readRecord _ => true
  | .readClaims _ => true
  | .readRoster _ => true
  | _ => false

/-- The commands that exchange bytes on the drive link: the requests, the unknown request, and the three link events. -/
def Instr.isLink (c : Instr) : Bool :=
  c.isRequest || (match c with
    | .invalidRequest .. => true
    | .fillByte => true
    | .resultByte _ => true
    | .selectRelease _ => true
    | _ => false)

/-- The requests that an unconfigured station refuses with NOT_CONFIGURED, their first check (R83, R93, R100, R103, R105, R107, R116, R120,
R128, R129, R133, R134, R139, R154). -/
def Instr.needsConfiguration : Instr → Bool
  | .setLineMode _ => true
  | .loadBin .. => true
  | .unloadBin => true
  | .postHandover .. => true
  | .reoffer .. => true
  | .reportSetdown .. => true
  | .reportLift .. => true
  | .recover .. => true
  | .answerInvite .. => true
  | .cancel .. => true
  | .startRun .. => true
  | .nextEntry _ => true
  | .withdrawEntry _ => true
  | .endRun => true
  | .adopt _ => true
  | _ => false

/-- The commands through which other stations are heard, and those that age the roster. -/
def Instr.touchesRoster : Instr → Bool
  | .frameReceived .. => true
  | .presenceHeard .. => true
  | .beaconPeriodExpiry _ => true
  | .rosterEntryQuiet _ => true
  | .rosterEntryLost _ => true
  | _ => false

end Sys2Proof

namespace Sys2Proof.Machine

/-! ## A request on the drive link -/

/-- The part takes a request now: it runs, and the link is in IDLE (R149). -/
abbrev Device.ready (d : Device) : Prop := d.power.state = .run ∧ d.link.phase = .idle

/-- What a request leaves. `d` is the part before it, `e` the part with the request's own effects, `r` its result. The last status byte
that went out showed GATHER and whether a notice was pending (R152), so the out-of-phase and incomplete flags are clear; the result
stands in the buffer in phase RESULT (R150); then the completion takes its effects (R37 to R39). -/
def Device.answered (d e : Device) (r : Reply) : Device :=
  Device.requestCompleted
    { e with link := { e.link with
        phase := .result, gathered := [], result := r.bytes, outOfPhase := false, incomplete := false, selected := true,
        dataOut := some (if d.link.notices.isEmpty then 1#8 else 5#8) } }

/-- A state whose part is `d`; the commands that wait are the same. -/
def State.after (s : State) (d : Device) : State := { s with toDevice := d }

/-- The state after a request. -/
def State.answered (s : State) (e : Device) (r : Reply) : State := s.after (s.toDevice.answered e r)

/-! ## Room -/

/-- An own frame other than PRESENCE joins the queue's tail (R6): the line is NORMAL and a place is free. -/
abbrev Device.canSend (d : Device) : Prop := d.line.mode = .normal ∧ d.line.queue.length < Config.queueSize

/-- The Line Port after an own frame of a block has joined its queue. -/
def Device.sent (d : Device) (s : Sender) (b : Body) : LinePort := (d.line.joinTail s b).1

/-- A notice that is raised joins the queue at once (R159): the part runs, a place is free and nothing is owed. -/
abbrev Device.canNotify (d : Device) : Prop :=
  d.power.state = .run ∧ d.owes = false ∧ d.link.notices.length < Config.noticeQueueSize

/-- The drive link after a notice has joined its queue. -/
def Device.notified (d : Device) (n : Notice) : DriveLink := { d.link with notices := d.link.notices ++ [n] }

/-- The notice of a record: its slot and tag, the partner as its station (R92). -/
def Record.notice (r : Record) (i : Nat) (k : NoticeKind) (o : OutcomePair) (values : List Byte) : Notice :=
  { kind := k, outcome := o, slot := some i, tag := some r.tag, values := values, station := r.partner }

/-- The handover table with a record in a slot. -/
def Device.tableWith (d : Device) (i : Nat) (r : Record) : Engine := { d.engine with table := d.engine.table.set i (some r) }

/-- The Handover Engine with a record changed that has ended or is no longer cedable: an open turn of it is broken (R145). -/
def Device.leftWith (d : Device) (i : Nat) (r : Record) : Engine :=
  { d.tableWith i r with
    ceding := if d.engine.ceding.turn = .tag r.tag then { d.engine.ceding with broken := true } else d.engine.ceding }

/-- No record waits in STAKING, so that a released cell is taken by nobody. -/
def Device.noneStaking (d : Device) : Prop := ∀ i r, d.recordAt i = some r → r.state ≠ .giver .staking

/-- A giver record that is not ENDED has this bin (R93, R129). -/
def Device.offersBin (d : Device) (b : BinId) : Prop :=
  ∃ r, some r ∈ d.engine.table ∧ (∃ g, r.state = .giver g ∧ g ≠ .ended) ∧ r.bin = b

/-! ## Frames heard -/

/-- The part hears a valid body of this origin (R22, R29): it runs, its port is on, and the origin is another station. -/
abbrev Device.hears (d : Device) (o : Station) (b : Body) : Prop :=
  d.power.state = .run ∧ d.peers.state ≠ .unconfigured ∧ 1 ≤ o.toNat ∧ o.toNat ≤ 31 ∧ o ≠ d.line.station ∧ bodyValid o b = true

/-- The record of a slot has gained this notice (R92, R159): it is queued, or it is owed in the record's pending-notice set. -/
def Device.tells (d : Device) (i : Nat) (n : Notice) : Prop :=
  n ∈ d.link.notices ∨ ∃ r p, d.recordAt i = some r ∧ p ∈ r.notices ∧ recordNotice i r.tag p = n

/-- A watch admits a claim (R72): a coordinate of 64 or more, and a station of 0 or of 32 or more, is ANY. -/
abbrev Watch.Admits (w : Watch) (c : Cell) (o : Station) : Prop :=
  (64 ≤ w.row.toNat ∨ w.row = c.row) ∧ (64 ≤ w.col.toNat ∨ w.col = c.col) ∧
    (w.station = 0 ∨ 32 ≤ w.station.toNat ∨ w.station = o)

/-- A stake that is better than another (R58): the lower key, and with equal keys the lower station number. -/
abbrev Outranks (key : Nat) (o : Station) (x : Claim) : Prop := key < x.key ∨ (key = x.key ∧ o.toNat < x.claimant.toNat)

/-- No request waits for an own stake to be released (R57). -/
def Device.noneInOwnUse (d : Device) : Prop := ∀ i r, d.recordAt i = some r → r.request ≠ some .ownUse

/-- A frame whose ending changes nothing (R8, R14, R96): a relayed copy, and an own PRESENCE, UNSTAKE, OFFER, DECLINE, CANCEL or RECEIPT. -/
abbrev TxEntry.Absorbed (x : TxEntry) : Prop :=
  x.sender = .relay ∨
    match x.frame.body with
    | .presence _ => True
    | .unstake _ => True
    | .offer _ => True
    | .decline _ => True
    | .cancel _ => True
    | .receipt _ => True
    | _ => False

/-- An own frame of the block waits or is sent with this body. -/
def Device.queues (d : Device) (s : Sender) (b : Body) : Prop := ∃ x ∈ d.line.queue, x.sender = s ∧ x.frame.body = b

/-! ## Runs -/

/-- R136, R137: the run list of a run that has ended, its RUN_ENDED notice queued: the waiting entries are NOT_STARTED. -/
def Device.runOver (d : Device) (o : OutcomePair) : RunList :=
  { d.engine.run with
    state := .ended, outcome := some o, timer := none, mark := .queued,
    entries := d.engine.run.entries.map fun e => if e.state = .waiting then { e with state := .notStarted } else e }

/-- R137, R33: the values of a RUN_ENDED notice: the highest DONE ordinal (0 for none), the next ordinal, and the entries DONE, SKIPPED and
NOT_STARTED. -/
def RunList.endValues (r : RunList) : List Byte :=
  [BitVec.ofNat 8 r.lastDone, BitVec.ofNat 8 r.next, BitVec.ofNat 8 (r.entries.countP fun e => e.state = .done),
   BitVec.ofNat 8 (r.entries.countP fun e => e.state = .skipped), BitVec.ofNat 8 (r.entries.countP fun e => e.state = .notStarted)]

/-- R136, R137: the run of this list has ended with this outcome: its waiting entries are NOT_STARTED, its timer is stopped, and its RUN_ENDED
notice is queued, or owed while the notice queue is full. -/
def Device.RunEnded (d : Device) (run : RunList) (o : OutcomePair) : Prop :=
  d.engine.run =
    { run with
      state := .ended, outcome := some o, timer := none, mark := d.engine.run.mark,
      entries := run.entries.map fun e => if e.state = .waiting then { e with state := .notStarted } else e } ∧
  ((d.engine.run.mark = .queued ∧
      { kind := .runEnded, outcome := o, slot := none, tag := none, values := d.engine.run.endValues, station := 0 } ∈
        d.link.notices) ∨
    (d.engine.run.mark = .owed ∧ 8 ≤ d.link.notices.length))

/-- The entries of the run list with one entry, by its ordinal, in a state. -/
def RunList.entriesWith (r : RunList) (ordinal : Nat) (x : EntryState) : List RunEntry :=
  r.entries.modify (ordinal - 1) fun e => { e with state := x }

/-! ## Own stakes -/

/-- The claims with the own stake of a cell HELD for a use, under a tag or its own: no counts, nothing awaited, no rival (assumption log 34). -/
def Device.held (d : Device) (c : Cell) (t : Option Tag) (u : StakeUse) (linger : Option Nat) : List Claim :=
  d.claims.entries.map fun y =>
    if y.own.isSome && y.cell == c then
      { y with
        tag := t.getD y.tag, phase := .held, own := some { use := u, outcome := none, settle := none, linger := linger, rival := none } }
    else y

/-- R62, R67: the own stake of a cell lingers, its count at 2. -/
def Device.lingering (d : Device) (c : Cell) : List Claim := d.held c none .linger (some 2)

/-- R62: the own stake of a cell has become the run hold. -/
def Device.runHolding (d : Device) (c : Cell) : List Claim := d.held c none .runHold none

/-- R62, R56: the own stake of a cell has passed to the record of a slot, under its tag. -/
def Device.passing (d : Device) (c : Cell) (i : Nat) (t : Tag) : List Claim := d.held c (some t) (.slot i) none

/-- The claims without the own stake of a cell. -/
def Device.unstaked (d : Device) (c : Cell) : List Claim := d.claims.entries.filter fun y => !(y.own.isSome && y.cell == c)

/-- A record waits in OWN_USE for the own stake on a cell (R56). -/
abbrev Record.WaitsFor (r : Record) (c : Cell) : Prop := r.state = .giver .staking ∧ r.cell = c ∧ r.request = some .ownUse

/-- R68: the claims once the run has ended: a run hold lingers. -/
def Device.holdLingers (d : Device) : List Claim :=
  match d.claimOfUse .runHold with
  | none => d.claims.entries
  | some x => d.lingering x.cell

/-! ## Owed notices -/

/-- The notices that the records of a table owe from a slot on (R92, R159): by slot, each record's in the order of its set. -/
def owedFrom : Nat → List (Option Record) → List Notice
  | _, [] => []
  | i, none :: rest => owedFrom (i + 1) rest
  | i, some r :: rest => r.notices.map (recordNotice i r.tag) ++ owedFrom (i + 1) rest

/-- The table once so many owed notices have left it. A record that is ENDED with its end notice collected goes with its last notice (R92). -/
def tableMoved : Nat → List (Option Record) → List (Option Record)
  | _, [] => []
  | n, none :: rest => none :: tableMoved n rest
  | n, some r :: rest =>
    let kept := r.notices.drop n
    (if r.notices ≠ [] ∧ kept = [] ∧ r.isEnded = true ∧ r.endCollected = true then none else some { r with notices := kept }) ::
      tableMoved (n - r.notices.length) rest

/-- R137, R33: the RUN_ENDED notice, with the values that stand in the run list. -/
def Device.runEndedOwed (d : Device) : Notice :=
  let r := d.engine.run
  { kind := .runEnded, outcome := r.outcome.getD ⟨.done, .ok⟩, slot := none, tag := none,
    values := r.endValues, station := 0 }

/-- All that is owed to the notice queue, in the order in which it moves: the run list ranks after slot 15 (R159). -/
def Device.owedNotices (d : Device) : List Notice :=
  owedFrom 0 d.engine.table ++ if d.engine.run.mark = .owed then [d.runEndedOwed] else []

/-- R159: the owed notices that find a place have joined the queue; nothing else has changed. -/
def Device.moved (d : Device) : Device :=
  let room := 8 - d.link.notices.length
  { d with
    link := { d.link with notices := d.link.notices ++ d.owedNotices.take room }
    engine := { d.engine with
      table := tableMoved room d.engine.table
      run := { d.engine.run with
        mark := if d.engine.run.mark = .owed ∧ d.owedNotices.length ≤ room then .queued else d.engine.run.mark } } }

/-! ## A beacon period -/

/-- Nothing of the record falls due at the next beacon-period expiry: no OFFER or window (R96), no owed SETDOWN (R101) or LIFTED (R121), no
answer or AGREED window (R115, R117), no waiting request (R57). -/
def Record.nothingDue (r : Record) : Prop :=
  r.lifted ≠ .owed ∧
  match r.state with
  | .giver .staking => r.request = none ∨ r.request = some .contesting
  | .giver .offering =>
    ¬((r.timer = 1 ∧ r.offers = 1) ∨ (r.timer = 3 ∧ r.offers = 2) ∨ (r.timer = 5 ∧ r.offers = 3))
  | .giver .placed => r.setdownOwed = false
  | .taker .invited => r.timer < 3
  | .taker .agreed => r.agreeFrame ≠ none ∨ r.timer < 3
  | _ => True

/-- R96, R115, R117: the state timer of a record counts in OFFERING once its first OFFER is queued, in INVITED, and in AGREED once its AGREE
has gone out. -/
def Record.counted (r : Record) : Record :=
  match r.state with
  | .giver .offering => if r.offers = 0 then r else { r with timer := r.timer + 1 }
  | .taker .invited => { r with timer := r.timer + 1 }
  | .taker .agreed => if r.agreeFrame = none then { r with timer := r.timer + 1 } else r
  | _ => r

/-- R52: a heard entry that reaches age 8 at the next expiry. -/
def Claim.agesOut (x : Claim) : Bool := x.own.isNone && decide (7 ≤ x.age)

/-- R52, R60, R67: a heard entry ages, the counts of an own one fall. A conflict rival goes with its entry (R65, assumption log 34). -/
def Claim.counted (gone : List Claim) (x : Claim) : Claim :=
  match x.own with
  | none => { x with age := x.age + 1 }
  | some o =>
    { x with own := some { o with
        settle := o.settle.map fun n => n - 1, linger := o.linger.map fun n => n - 1,
        rival := if gone.any fun y => y.cell == x.cell && o.rival == some y.claimant then none else o.rival } }

/-- At the next beacon-period expiry no timer of the part runs out, and of the records only that of one slot may have something due. -/
structure Device.NothingDueBut (d : Device) (slot : Option Nat) : Prop where
  silence : ∀ n ∈ d.peers.silenceTimer, 2 ≤ n
  join : ∀ n ∈ d.peers.joinTimer, 2 ≤ n
  roster : ∀ e ∈ d.peers.roster, e.age ≠ 15
  run : ∀ n ∈ d.engine.run.timer, n ≤ 10
  adoption : ∀ n ∈ d.engine.adoption.timer, 2 ≤ n
  ceding : ∀ t, d.engine.ceding.turn ≠ .tag t
  stakes : ∀ x ∈ d.claims.entries, ∀ o ∈ x.own, (∀ n ∈ o.settle, 2 ≤ n) ∧ ∀ n ∈ o.linger, 2 ≤ n
  records : ∀ i r, d.recordAt i = some r → slot ≠ some i → r.nothingDue

/-! ## Power -/

/-- R161: what entering RETAIN leaves: every timer discarded, the queue abandoned, the transmitter stopped, the link lost, NOTICE inactive,
the backup counter at 0; the retained state of R164 and the hold latch stand as they were. -/
def RetainEntered (s d : Device) : Prop :=
  d.power.state = .retain ∧ d.power.backup = 0 ∧ d.power.holdLatch = s.power.holdLatch ∧
    d.line.tx = .off ∧ d.line.queue = [] ∧ d.peers.joinTimer = none ∧ d.peers.silenceTimer = none ∧
    d.engine.run.timer = none ∧ d.engine.adoption.timer = none ∧
    (∀ x ∈ d.claims.entries, ∀ o, x.own = some o → o.settle = none ∧ o.linger = none) ∧
    d.link.phase = .idle ∧ d.link.gathered = [] ∧ d.link.result = [] ∧ d.link.dataOut = none ∧ d.noticePin = false ∧
    d.line.station = s.line.station ∧ d.line.sect = s.line.sect ∧ d.line.relay = s.line.relay ∧
    d.line.requested = s.line.requested ∧ d.line.seqCounter = s.line.seqCounter ∧ d.link.position = s.link.position ∧
    d.engine.table = s.engine.table ∧ d.engine.tagCounter = s.engine.tagCounter ∧ d.accounts = s.accounts ∧
    d.engine.run = { s.engine.run with timer := none } ∧ d.claims.watches = s.claims.watches ∧
    d.peers.state = s.peers.state

/-- R49, R164: the own claims that a resume finds again: those of giver records not ENDED with their placed flag set. Each keeps its cell, tag,
key and use, PLACED and of age 0, without rival, counts or an awaited ending. -/
def Device.keptClaims (d : Device) : List Claim :=
  d.claims.entries.filterMap fun x =>
    match x.own with
    | some ⟨.slot i, _, _, _, _⟩ =>
      match d.recordAt i with
      | some r =>
        if r.isGiver = true ∧ r.isEnded = false ∧ r.placed = true then
          some { x with
            phase := .placed, age := 0,
            own := some { use := .slot i, outcome := none, settle := none, linger := none, rival := none } }
        else none
      | none => none
    | _ => none

/-- R167: what revalidation makes of a record: its role, state and outcome, and the fields the table names. The other fields are kept, but
for the marks that await a frame's ending. -/
def Record.Revalidated (r r' : Record) : Prop :=
  r'.tag = r.tag ∧ r'.partner = r.partner ∧ r'.bin = r.bin ∧ r'.cls = r.cls ∧ r'.cell = r.cell ∧ r'.ordinal = r.ordinal ∧
    r'.placed = r.placed ∧ r'.timer = 0 ∧
    match r.state with
    | .giver .ended => r'.state = r.state ∧ r'.outcome = r.outcome
    | .giver .placed => r'.state = .giver .placed ∧ r'.setdownOwed = true
    | .giver s =>
      if r.placed = true ∧ (s = .offering ∨ s = .unbound) then r'.state = .giver .unbound
      else r'.state = .giver .pending ∧ r'.request = none ∧ r'.frozenKey = none ∧ r'.offers = 0 ∧ r'.addressed = false
    | .taker .invited => r'.state = .taker .ended ∧ r'.outcome = some ⟨.refused, .noAnswer⟩ ∧ r'.endValue = 0
    | .taker .agreed => r'.state = .taker .ended ∧ r'.outcome = some ⟨.upset, .resumed⟩ ∧ r'.endValue = 0
    | .taker .bound => r'.state = .taker .ended ∧ r'.outcome = some ⟨.upset, .resumed⟩ ∧ r'.endValue = 0
    | .taker .ready => r'.state = .taker .ready
    | .taker .ended =>
      r'.state = .taker .ended ∧ r'.outcome = r.outcome ∧
        r'.lifted = if r.lifted = .awaited ∨ r.lifted = .owed then .owed else r.lifted

/-! ## Sound states -/

/-- A queued frame that is a relayed copy. -/
def TxEntry.isRelayed (x : TxEntry) : Bool := x.sender == .relay

/-- A queued frame that is a PRESENCE. -/
def TxEntry.isPresence (x : TxEntry) : Bool := bodyIsPresence x.frame.body

/-- R5: at most 8 frames, of which at most one is a PRESENCE and at most 6 are relayed, with collision counts 0..5; R9 with the table of
1.4: the transmitter is OFF or IDLE exactly when nothing is queued, and OFF in MUTE; the draws of R10 stay in 0..63; W is 8, 16, 32 or
64 (R2, R10, R12); the recent-frame list holds at most 32 pairs, of age 0..3 (R18). -/
structure LinePort.Sound (l : LinePort) : Prop where
  queued : l.queue.length ≤ Config.queueSize
  presences : l.queue.countP TxEntry.isPresence ≤ 1
  relayed : l.queue.countP TxEntry.isRelayed ≤ Config.relayLimit
  collisions : ∀ x ∈ l.queue, x.collisions < Config.maxCollisions
  resting : l.queue = [] ↔ l.tx = .off ∨ l.tx = .idle
  mute : l.mode = .mute → l.tx = .off
  window : l.window = 8 ∨ l.window = 16 ∨ l.window = 32 ∨ l.window = 64
  generator : l.generator < 65536
  remaining : ∀ r, l.remaining = some r → r < 64
  recent : l.recent.length ≤ Config.recentSize
  recentAges : ∀ p ∈ l.recent, p.age < Config.recentAge

/-- R42, R43: at most 24 entries in ascending order of station, none the own, their ages saturating, each link state that of its age; R35,
R37: join listen runs down from 4, host silence from 20. -/
structure PeerRoster.Sound (p : PeerRoster) (own : Station) : Prop where
  size : p.roster.length ≤ Config.rosterSize
  ordered : p.roster.Pairwise fun x y => x.station.toNat < y.station.toNat
  others : ∀ e ∈ p.roster, e.station ≠ own
  ages : ∀ e ∈ p.roster, e.age ≤ 255 ∧ e.link = if e.age < 4 then .heard else if e.age < 16 then .quiet else .lost
  joinTimer : ∀ n ∈ p.joinTimer, 1 ≤ n ∧ n ≤ 4
  silenceTimer : ∀ n ∈ p.silenceTimer, 1 ≤ n ∧ n ≤ 20

/-- R49: at most 48 entries in ascending order of row, column and claimant, so at most one for a cell and claimant; the own ones are the own
number's, at most four and so at most one for a cell (R54); ages 0..7 (R52), settle and linger counts 1..2 (R60, R67); four watches (R72). -/
structure ClaimMap.Sound (m : ClaimMap) (own : Station) : Prop where
  size : m.entries.length ≤ Config.claimMapSize
  ordered : m.entries.Pairwise fun x y => claimRank x.cell x.claimant < claimRank y.cell y.claimant
  ours : ∀ x ∈ m.entries, x.own.isSome = true ↔ x.claimant = own
  limit : m.entries.countP (fun x => x.own.isSome) ≤ Config.ownStakeLimit
  ages : ∀ x ∈ m.entries, x.age < Config.claimAge
  counts : ∀ x ∈ m.entries, ∀ o ∈ x.own, (∀ n ∈ o.settle, 1 ≤ n ∧ n ≤ 2) ∧ ∀ n ∈ o.linger, 1 ≤ n ∧ n ≤ 2
  watches : m.watches.length = Config.watchCount

/-- R75, R78, R80: one account position for each slot, E and W saturating. -/
structure Accounts.Sound (a : Accounts) : Prop where
  positions : a.slots.length = Config.slotCount
  hoist : ∀ x ∈ a.hoist, x.e ≤ 65535 ∧ x.wait ≤ 65535
  slots : ∀ y ∈ a.slots, ∀ x ∈ y, x.e ≤ 65535 ∧ x.wait ≤ 65535

/-- The eleven kinds of record notice (R92). -/
abbrev IsRecordNotice (k : NoticeKind) : Prop :=
  k = .invite ∨ k = .bound ∨ k = .placed ∨ k = .budgetSpent ∨ k = .partnerLost ∨ k = .partnerLapsed ∨ k = .partnerChanged ∨
    k = .custodyConflict ∨ k = .cellConflict ∨ k = .arrived ∨ k = .ended

/-- R92: a pending-notice set holds record notices alone, at most one of a kind, in the order in which they are taken. -/
abbrev Record.NoticesSound (r : Record) : Prop :=
  (∀ p ∈ r.notices, IsRecordNotice p.kind) ∧ r.notices.Pairwise fun p q => p.kind.rank < q.kind.rank

/-- R96, R115, R117: the offer-send count stays at 3 and the state timer at 6; in OFFERING the count is 0 with the timer 0 until the first
OFFER, then 1, 2 and 3 from the timers 0, 2 and 4; the answer window and the AGREED timer run to 4. R92: its pending-notice set. -/
abbrev Record.Sound (r : Record) : Prop :=
  r.timer ≤ 6 ∧ r.offers ≤ 3 ∧
    (r.state = .giver .offering → (r.offers = 0 ∧ r.timer = 0) ∨ (r.offers = r.timer / 2 + 1 ∧ r.timer ≤ 5)) ∧
    (r.state = .taker .invited ∨ r.state = .taker .agreed → r.timer ≤ 3) ∧ r.NoticesSound

/-- R89: 16 slots, no two records with one tag; R128, R130: at most 12 entries, the service window before 12; R140: the adoption timer runs
down from 8; R144: at most three CEDEs in a turn. -/
structure Engine.Sound (g : Engine) : Prop where
  slots : g.table.length = Config.slotCount
  records : ∀ x ∈ g.table, ∀ r ∈ x, r.Sound
  tags : (g.table.filterMap fun x => x.map fun r => r.tag).Nodup
  runSize : g.run.entries.length ≤ Config.runSize
  runTimer : ∀ n ∈ g.run.timer, n < Config.serviceWindow
  adoption : ∀ n ∈ g.adoption.timer, 1 ≤ n ∧ n ≤ 8
  attempts : g.ceding.attempts ≤ Config.cedeAttempts

/-- The capacities and ranges of every block, the notice queue's 8 places (R158) and the backup counter (R161) among them. Before CONFIGURE
nothing has been heard and nothing staked (R2, R29, R55). -/
structure Device.Sound (d : Device) : Prop where
  line : d.line.Sound
  peers : d.peers.Sound d.line.station
  claims : d.claims.Sound d.line.station
  accounts : d.accounts.Sound
  engine : d.engine.Sound
  notices : d.link.notices.length ≤ Config.noticeQueueSize
  backup : d.power.backup ≤ 65535
  blank : d.peers.state = .unconfigured → d.peers.roster = [] ∧ d.claims.entries = []

end Sys2Proof.Machine
end

