-- ==== Sys2Proof/WellFormed.lean ====
section
/-! DEFINITION. Which commands are well formed: operands that the sender of such a command can send (10.3, R22, R89). The machine
gives every command a meaning, well formed or not. -/

namespace Sys2Proof

/-- The order operands name only work that exists. -/
def BeaconTask.wf : BeaconTask → Bool
  | .record n => n < Config.slotCount
  | _ => true

def AccountPos.wf : AccountPos → Bool
  | .hoist => true
  | .slot n => n < Config.slotCount

/-- A body heard has a valid origin and is valid for it (R22, R29). -/
def heardWf (origin : Station) (b : Body) : Bool :=
  Machine.stationInRange origin && Machine.bodyValid origin b

/-- Well-formedness of a command. -/
def Instr.wf : Instr → Bool
  | .startRun _ _ _ es => es.length < 16
  | .invalidRequest code len ps =>
    24 ≤ code.toNat && (if len.toNat ≤ Config.maxParams then ps.length == len.toNat else ps.isEmpty)
  | .beaconPeriodExpiry o => o.tasks.all BeaconTask.wf
  | .accountingSecond o => o.all AccountPos.wf
  | .claimAgeOut _ _ cl => Machine.stationInRange cl
  | .rosterEntryQuiet st => Machine.stationInRange st
  | .rosterEntryLost st => Machine.stationInRange st
  | .recentPairExpiry o _ => Machine.stationInRange o
  | .offerRepeat n => n < Config.slotCount
  | .offerWindowExpiry n => n < Config.slotCount
  | .answerWindowExpiry n => n < Config.slotCount
  | .agreedTimerExpiry n => n < Config.slotCount
  | .presenceHeard o b _ => heardWf o (.presence b)
  | .stakeHeard o b => heardWf o (.stake b)
  | .unstakeHeard o b => heardWf o (.unstake b)
  | .offerHeard o b => heardWf o (.offer b)
  | .agreeHeard o b => heardWf o (.agree b)
  | .declineHeard o b => heardWf o (.decline b)
  | .bindHeard o b => heardWf o (.bind b)
  | .setdownHeard o b => heardWf o (.setdown b)
  | .liftedHeard o b => heardWf o (.lifted b)
  | .cancelHeard o b => heardWf o (.cancel b)
  | .adoptHeard o b => heardWf o (.adopt b)
  | .cedeHeard o b => heardWf o (.cede b)
  | .receiptHeard o b => heardWf o (.receipt b)
  | .configure .. => true
  | .setLineMode _ => true
  | .readStatus => true
  | .setPosition _ _ => true
  | .loadBin .. => true
  | .unloadBin => true
  | .postHandover .. => true
  | .reoffer .. => true
  | .reportSetdown _ _ => true
  | .reportLift _ _ => true
  | .recover _ _ => true
  | .answerInvite .. => true
  | .cancel _ _ => true
  | .nextEntry _ => true
  | .withdrawEntry _ => true
  | .endRun => true
  | .adopt _ => true
  | .setWatch .. => true
  | .collect => true
  | .readRecord _ => true
  | .readClaims _ => true
  | .readRoster _ => true
  | .fillByte => true
  | .resultByte _ => true
  | .selectRelease _ => true
  | .mainPowerLoss => true
  | .resetAssert => true
  | .backupSecond => true
  | .holdThresholdDip => true
  | .coldStart => true
  | .resume => true
  | .joinListenExpiry _ => true
  | .hostSilenceExpiry => true
  | .settleExpiry _ _ => true
  | .lingerExpiry _ _ => true
  | .serviceWindowExpiry => true
  | .adoptionTimerExpiry => true
  | .cedeRetry => true
  | .turnCloseUnanswered => true
  | .owedNoticeMove => true
  | .lineBusy => true
  | .quietGapComplete => true
  | .deferralEnd => true
  | .cleanSend => true
  | .collision => true
  | .frameReceived .. => true
  | .lineSlot => true
  | .mainPowerReturn => true

end Sys2Proof
end

