-- ==== Sys2Proof/Certificates/Slice0/Obligations.lean ====
section
/-! DEFINITION. The statements about the machine, for the provers. Each formalises the rules of spec/ its docstring names; where it rests
on a choice of the model, the docstring names the row of the assumption log. -/

open Sys2Proof Sys2Proof.Machine

/-! ## The machine -/

/-- The queue is taken from its front: the command there is carried out with the queue's rest. With nothing waiting the part idles, which
is the model's choice (assumption log 4). -/
def Obligations.StepTakesTheFrontCommand : Prop :=
  (∀ (s : State) (c : Instr) (rest : List Instr), s.pending = c :: rest → step s = exec c { s with pending := rest }) ∧
    ∀ s : State, s.pending = [] → step s = .next s

/-- Every command, well formed or not, in every state, is answered by a next state with the same commands waiting. The spec gives the part
no fault (10.2, 2.2: a request that cannot be taken is refused by a result, a frame that cannot be taken is discarded). -/
def Obligations.EveryCommandIsAnswered : Prop :=
  ∀ (c : Instr) (s : State), ∃ d : Device, exec c s = .next (s.after d)

/-- R165 and the start tables of each chapter: the state after a cold start, which State.reset is (assumption log 5). -/
def Obligations.ResetIsAColdStart : Prop :=
  let s := State.reset
  s.peers.state = .unconfigured ∧ s.line.tx = .off ∧ s.line.queue = [] ∧ s.line.recent = [] ∧ s.line.requested = .normal ∧
    s.line.forcedMute = false ∧ s.line.relay = false ∧ s.line.seqCounter = 0 ∧ s.line.window = 8 ∧
    s.peers.roster = [] ∧ s.peers.joinTimer = none ∧ s.peers.silenceTimer = none ∧ s.peers.hostReturned = false ∧
    s.claims.entries = [] ∧ s.claims.watches = [none, none, none, none] ∧
    (∀ p, s.accountAt p = none) ∧ (∀ i, s.recordAt i = none) ∧ s.engine.tagCounter = 0 ∧
    s.engine.run.state = .none ∧ s.engine.run.entries = [] ∧ s.engine.adoption.phase = .none ∧ s.engine.ceding.adopter = none ∧
    s.link.phase = .idle ∧ s.link.gathered = [] ∧ s.link.result = [] ∧ s.link.outOfPhase = false ∧ s.link.incomplete = false ∧
    s.link.notices = [{ kind := .start, outcome := ⟨.done, .ok⟩, slot := none, tag := none, values := [0, 0], station := 0 }] ∧
    s.link.flags = ⟨false, false, false, false, false⟩ ∧ s.link.retentionRead = false ∧ s.link.position = ⟨0, 0⟩ ∧
    s.power.state = .run ∧ s.power.holdLatch = false ∧ s.power.backup = 0

/-! ## Power, retention and start (11) -/

/-- R161, R162, R164: losing main power, or RESET asserted, in RUN enters RETAIN. There a second adds one to the backup counter,
saturating, and touches nothing else; a dip below the hold threshold sets the latch while main power is absent, and is not judged while it
is present. -/
def Obligations.RetainIsEnteredAndCounts : Prop :=
  (∀ s : State, s.power.state = .run →
    (∃ d, exec .mainPowerLoss s = .next (s.after d) ∧ RetainEntered s.toDevice d ∧
      d.power.mainPower = false ∧ d.power.resetHeld = s.power.resetHeld) ∧
    ∃ d, exec .resetAssert s = .next (s.after d) ∧ RetainEntered s.toDevice d ∧
      d.power.mainPower = s.power.mainPower ∧ d.power.resetHeld = true) ∧
  ∀ s : State, s.power.state = .retain →
    exec .backupSecond s =
      .next (s.after { s.toDevice with power := { s.power with backup := min 65535 (s.power.backup + 1) } }) ∧
    exec .holdThresholdDip s =
      .next (s.after { s.toDevice with power :=
        { s.power with holdLatch := if s.power.mainPower then s.power.holdLatch else true } })

/-- R161: out of RUN no request completes, no frame is heard and no timer counts: every command but the power commands leaves everything
as it is. -/
def Obligations.NothingButPowerActsOutOfRun : Prop :=
  ∀ (c : Instr) (s : State), s.power.state ≠ .run → c.isPower = false → exec c s = .next s

/-- R161, R162, R165: with the latch set, leaving RETAIN is a cold start, and so is the start of a part that was in neither state; all
state takes its initial value, the latch among it. That MAIN_POWER_RETURN makes the start itself, and RESUME and COLD_START the release of
RESET, is assumption log 30. With RESET held, main power that returns leaves the station in RETAIN. -/
def Obligations.ColdStartGivesTheInitialState : Prop :=
  ∀ s : State, s.power.state ≠ .run →
    (s.power.state = .retain → s.power.holdLatch = true) →
    exec .coldStart s = .next (s.after { State.reset.toDevice with freeCount := s.freeCount }) ∧
    (s.power.resetHeld = false →
      exec .mainPowerReturn s = .next (s.after { State.reset.toDevice with freeCount := s.freeCount })) ∧
    (s.power.state = .retain → s.power.resetHeld = true →
      exec .mainPowerReturn s = .next (s.after { s.toDevice with power := { s.power with mainPower := true } }))

/-- R161, R162, R164, R166: with the latch clear, leaving RETAIN is a resume. The station is in RUN again; its number, section, relay
setting, requested line mode, position, watches, tag counter and frame sequence counter are kept, the last grown by the frames that
revalidation queues; of the claims only the own PLACED ones of R49 are left; the run list is kept, its service window at 0 when it awaits
its next entry and its RUN_ENDED owed, or queued again, when it has ended (R127, R166 step 4). The forced mute, W, the generator, the
recent-frame list, the roster, the host-returned mark, the adoption, the ceding and the link have their start values, the summary flags
too, but for BUDGET when the downtime spends an account (R79, R87); a configured station is JOINING with both timers started, an
unconfigured one stays so; the retention-read flag is set and START is queued with the seconds counted. -/
def Obligations.ResumeKeepsWhatIsRetained : Prop :=
  ∀ s : State, s.power.state = .retain → s.power.holdLatch = false →
    ∃ d, exec .resume s = .next (s.after d) ∧
      (s.power.resetHeld = false → exec .mainPowerReturn s = .next (s.after d)) ∧
      d.power.state = .run ∧ d.power.holdLatch = false ∧
      d.line.station = s.line.station ∧ d.line.sect = s.line.sect ∧ d.line.relay = s.line.relay ∧
      d.line.requested = s.line.requested ∧ d.line.forcedMute = false ∧ d.line.window = 8 ∧ d.line.recent = [] ∧
      d.line.seqCounter = s.line.seqCounter + BitVec.ofNat 8 d.line.queue.length ∧
      d.link.position = s.link.position ∧ d.engine.tagCounter = s.engine.tagCounter ∧
      d.claims = { entries := s.keptClaims, watches := s.claims.watches } ∧
      d.engine.run = { s.engine.run with
        timer := if s.engine.run.state = .awaitingNext then some 0 else none, mark := d.engine.run.mark } ∧
      (∀ o, s.engine.run.state = .ended → s.engine.run.outcome = some o →
        (d.engine.run.mark = .queued ∧
          { kind := NoticeKind.runEnded, outcome := o, slot := none, tag := none, values := s.engine.run.endValues, station := 0 } ∈
            d.link.notices) ∨
        (d.engine.run.mark = .owed ∧ d.link.notices.length = 8)) ∧
      (s.engine.run.state ≠ .ended → s.engine.run.mark ≠ .owed → d.engine.run.mark = s.engine.run.mark) ∧
      d.peers.roster = [] ∧ d.peers.hostReturned = false ∧
      d.engine.adoption.phase = .none ∧ d.engine.ceding.adopter = none ∧ d.engine.ceding.turn = .none ∧
      d.link.phase = .idle ∧ d.link.gathered = [] ∧ d.link.result = [] ∧ d.link.outOfPhase = false ∧ d.link.incomplete = false ∧
      d.link.retentionRead = true ∧ d.link.flags = { SummaryFlags.clear with budget := d.link.flags.budget } ∧
      (s.accounts.slots.length = 16 → (d.link.flags.budget = true ↔ ∃ p a l, s.accountAt p = some a ∧ a.spent = false ∧
        a.cls.limit = some l ∧ l ≤ a.e + a.rate * s.power.backup)) ∧
      { kind := NoticeKind.start, outcome := ⟨.done, .ok⟩, slot := none, tag := none,
        values := bytesOfNat16 s.power.backup, station := 0 } ∈ d.link.notices ∧
      (if s.peers.state = .unconfigured then
        d.peers.state = .unconfigured ∧ d.peers.joinTimer = none ∧ d.peers.silenceTimer = none
      else
        d.peers.state = .joining ∧ d.peers.joinTimer = some 4 ∧ d.peers.silenceTimer = some 20 ∧
          d.line.generator = s.line.station.toNat)

/-- R87, R164, R166: at a resume every retained account is charged the seconds counted at the rate of its class and location, saturating;
its bin, class, location and staking wait are kept. -/
def Obligations.ResumeChargesTheDowntime : Prop :=
  ∀ s : State, s.power.state = .retain → s.power.holdLatch = false → s.accounts.slots.length = 16 →
    ∃ d, exec .resume s = .next (s.after d) ∧
      ∀ p, match s.accountAt p with
        | none => d.accountAt p = none
        | some a => ∃ a', d.accountAt p = some a' ∧ a'.bin = a.bin ∧ a'.cls = a.cls ∧ a'.location = a.location ∧ a'.wait = a.wait ∧
            a'.e = min 65535 (a.e + a.rate * s.power.backup)

/-- R167, with R166 step 5: at a resume every record of the table is revalidated by its role and state. In the order of the slots a giver
that returns to PENDING and was addressed queues a CANCEL, an INVITED taker its DECLINE with NO_ANSWER, an AGREED or BOUND one its CANCEL;
of more than eight the later are dropped, and in MUTE all are. A record that ends here, and an ENDED one that awaits no LIFTED, tells its
ENDED. -/
def Obligations.ResumeRevalidatesEveryRecord : Prop :=
  ∀ s : State, s.power.state = .retain → s.power.holdLatch = false → s.engine.table.length = 16 →
    let frames : Record → List Body := fun r =>
      match r.state with
      | .giver .ended => []
      | .giver .placed => []
      | .giver g =>
        if r.addressed = true ∧ ¬(r.placed = true ∧ (g = .offering ∨ g = .unbound)) then [.cancel { tag := r.tag, reason := 1 }] else []
      | .taker .invited => [.decline { tag := r.tag, taker := s.line.station, reason := 2 }]
      | .taker .agreed => [.cancel { tag := r.tag, reason := 1 }]
      | .taker .bound => [.cancel { tag := r.tag, reason := 1 }]
      | .taker _ => []
    let told : Record → Prop := fun r =>
      match r.state with
      | .giver g => g = .ended
      | .taker .ready => False
      | .taker .ended => r.lifted ≠ .awaited ∧ r.lifted ≠ .owed
      | .taker _ => True
    ∃ d, exec .resume s = .next (s.after d) ∧
      (∀ i, match s.recordAt i with
        | none => d.recordAt i = none
        | some r => ∃ r', d.recordAt i = some r' ∧ r.Revalidated r' ∧
            (told r → ∀ o, r'.outcome = some o → d.tells i (r'.notice i .ended o (bytesOfNat16 r'.endValue)))) ∧
      (d.line.queue.map fun x => x.frame.body) =
        if s.line.requested = .mute then []
        else (s.engine.table.flatMap fun x => match x with
          | some r => frames r
          | none => []).take 8

/-! ## The drive link (10) -/

/-- R149, R151, R152: a byte exchanged in IDLE or GATHER returns the link status byte, which clears the two flags it shows. In IDLE a byte of
0 starts nothing, any other is held as a request code in GATHER; neither touches the host-silence timer. In RESULT the next byte of the
result goes out, a byte received that is not 0 sets the out-of-phase flag, and the last byte ends the phase. That RESULT_BYTE stands for one
exchange in every phase of the link, with the byte received as its operand, is the model's choice (assumption log 8). -/
def Obligations.LinkExchangesOneByte : Prop :=
  let status : DriveLink → Nat → Byte := fun l phase =>
    BitVec.ofNat 8 ((if l.incomplete then 16 else 0) + (if l.outOfPhase then 8 else 0) + (if l.notices = [] then 0 else 4) + phase)
  (∀ (s : State) (b : Byte), s.power.state = .run → s.link.phase = .idle →
    let shown : DriveLink := { s.link with
      selected := true, outOfPhase := false, incomplete := false, dataOut := some (status s.link 0) }
    exec .fillByte s = .next (s.after { s.toDevice with link := shown }) ∧
    exec (.resultByte b) s = .next (s.after
      { s.toDevice with link := if b = 0 then shown else { shown with phase := .gather, gathered := [b] } })) ∧
  (∀ (s : State) (b : Byte), s.power.state = .run → s.link.phase = .gather →
    ∃ d, exec (.resultByte b) s = .next (s.after d) ∧ d.link.dataOut = some (status s.link 1) ∧ d.link.outOfPhase = false ∧
      d.link.incomplete = false ∧ d.link.selected = true) ∧
  ∀ (s : State) (received b : Byte) (rest : List Byte), s.power.state = .run → s.link.phase = .result → s.link.result = b :: rest →
    exec (.resultByte received) s = .next (s.after { s.toDevice with link := { s.link with
      selected := true, dataOut := some b, result := rest, phase := if rest = [] then .idle else .result,
      outOfPhase := s.link.outOfPhase || decide (received ≠ 0) } })

/-- R148, R150, R151: SELECT going high discards what GATHER holds and sets the incomplete flag; IDLE and RESULT are kept. A request of
which not all parameters were clocked before it has not completed: nothing but the link changes. The bytes are the command's operand
(assumption log 8). -/
def Obligations.SelectReleaseDiscardsAPartialRequest : Prop :=
  ∀ s : State, s.power.state = .run →
    (s.link.phase = .gather →
      exec (.selectRelease []) s = .next (s.after { s.toDevice with link := { s.link with
        phase := .idle, gathered := [], incomplete := true, selected := false, dataOut := none } })) ∧
    (s.link.phase ≠ .gather →
      exec (.selectRelease []) s = .next (s.after { s.toDevice with link := { s.link with selected := false, dataOut := none } })) ∧
    ∀ (code length : Byte) (ps : List Byte), s.link.phase = .idle → code ≠ 0 → length.toNat ≤ 250 → ps.length < length.toNat →
      exec (.selectRelease (code :: length :: ps)) s = .next (s.after { s.toDevice with link := { s.link with
        phase := .idle, gathered := [], outOfPhase := false, incomplete := true, selected := false, dataOut := none } })

/-- R37 to R39, R150: every request that a configured station completes, taken or refused, leaves its result in phase RESULT, restarts the
host-silence timer, ends a lapse, and in CEDING sets the host-returned mark. -/
def Obligations.EveryRequestShowsTheHostIsThere : Prop :=
  ∀ (c : Instr) (s : State), c.isRequest = true → c.wf = true → s.ready → s.peers.state ≠ .unconfigured →
    ∃ d, exec c s = .next (s.after d) ∧ d.link.phase = .result ∧ 3 ≤ d.link.result.length ∧ d.peers.silenceTimer = some 20 ∧
      d.peers.state ≠ .lapsed ∧ (s.peers.state = .lapsed → d.peers.state = .active) ∧
      (d.peers.state = .ceding → d.peers.hostReturned = true)

/-! ## Requests: configuration, line mode, position, watches, status -/

/-- R150; R83, R93, R100, R103, R105, R107, R116, R120, R128, R129, R133, R134, R139, R154, the first check of each: an unknown code is
refused with INVALID_REQUEST, whatever its length, and an unconfigured station refuses every request that needs a configuration. Each is a
complete request without any other effect. -/
def Obligations.UnknownAndUnconfiguredRequestsAreRefused : Prop :=
  (∀ (s : State) (code length : Byte) (ps : List Byte), s.ready → (Instr.invalidRequest code length ps).wf = true →
    exec (.invalidRequest code length ps) s = .next (s.answered s.toDevice ⟨⟨.refused, .invalidRequest⟩, []⟩)) ∧
  ∀ (c : Instr) (s : State), c.needsConfiguration = true → c.wf = true → s.ready → s.peers.state = .unconfigured →
    exec c s = .next (s.answered s.toDevice ⟨⟨.refused, .notConfigured⟩, []⟩)

/-- R153, R2, R10, R35: CONFIGURE turns the port on and starts join listen; a configured station refuses it first, then parameters out of
range are refused. -/
def Obligations.ConfigureTurnsThePortOn : Prop :=
  ∀ (s : State) (station sect relay mode : Byte), s.ready →
    exec (.configure station sect relay mode) s = .next (
      if s.peers.state ≠ .unconfigured then s.answered s.toDevice ⟨⟨.refused, .alreadyConfigured⟩, []⟩
      else if station.toNat = 0 ∨ 31 < station.toNat ∨ 15 < sect.toNat ∨ 1 < relay.toNat ∨ 1 < mode.toNat then
        s.answered s.toDevice ⟨⟨.refused, .badParam⟩, []⟩
      else
        s.answered
          { s.toDevice with
            line := { s.line with
              station := station, sect := sect, relay := decide (relay = 1),
              requested := if mode = 1 then .mute else .normal, forcedMute := false, window := 8, generator := station.toNat,
              tx := if mode = 1 then .off else .idle, remaining := none, queue := [], recent := [] }
            peers := { s.peers with state := .joining, joinTimer := some 4, silenceTimer := some 20 } }
          ⟨⟨.done, .ok⟩, []⟩)

/-- R154, R3, R4: SET LINE MODE. NORMAL clears a forced mute and starts the transmitter. MUTE is refused while the station is busy; it
empties the queue of a NORMAL line. The result carries the effective mode. -/
def Obligations.SetLineModeTakesTheMode : Prop :=
  ∀ (s : State), s.ready → s.peers.state ≠ .unconfigured →
    (∀ mode : Byte, 1 < mode.toNat → exec (.setLineMode mode) s = .next (s.answered s.toDevice ⟨⟨.refused, .badParam⟩, []⟩)) ∧
    exec (.setLineMode 0) s = .next (s.answered
      { s.toDevice with line := { s.line with
          requested := .normal, forcedMute := false, tx := if s.line.mode = .mute then .idle else s.line.tx } }
      ⟨⟨.done, .ok⟩, [0]⟩) ∧
    ((∃ i r, s.recordAt i = some r ∧ r.isEnded = false) ∨ s.engine.run.state ≠ .none ∨ (∃ x ∈ s.claims.entries, x.own ≠ none) →
      exec (.setLineMode 1) s = .next (s.answered s.toDevice ⟨⟨.refused, .wrongState⟩, []⟩)) ∧
    ((∀ i r, s.recordAt i = some r → r.isEnded = true) → s.engine.run.state = .none → (∀ x ∈ s.claims.entries, x.own = none) →
      (s.line.mode = .mute →
        exec (.setLineMode 1) s =
          .next (s.answered { s.toDevice with line := { s.line with requested := .mute } } ⟨⟨.done, .ok⟩, [1]⟩)) ∧
      (s.line.mode = .normal →
        ∃ d, exec (.setLineMode 1) s = .next (s.after d) ∧ d.line.requested = .mute ∧ d.line.forcedMute = s.line.forcedMute ∧
          d.line.queue = [] ∧ d.line.tx = .off ∧ d.line.window = s.line.window ∧ d.link.phase = .result ∧
          d.link.result = [3, 0, 0, 1]))

/-- R155, R72: SET POSITION and SET WATCH, in every station state. -/
def Obligations.PositionAndWatchesAreSet : Prop :=
  ∀ s : State, s.ready →
    (∀ row col : Byte, exec (.setPosition row col) s = .next (
      if row.toNat < 64 ∧ col.toNat < 64 then
        s.answered { s.toDevice with link := { s.link with position := ⟨row, col⟩ } } ⟨⟨.done, .ok⟩, []⟩
      else s.answered s.toDevice ⟨⟨.refused, .badParam⟩, []⟩)) ∧
    ∀ index flag row col station : Byte, exec (.setWatch index flag row col station) s = .next (
      if 3 < index.toNat ∨ 1 < flag.toNat then s.answered s.toDevice ⟨⟨.refused, .badParam⟩, []⟩
      else
        let w : Option Watch := if flag = 1 then some { row := row, col := col, station := station } else none
        s.answered { s.toDevice with claims := { s.claims with watches := s.claims.watches.set index.toNat w } }
          ⟨⟨.done, .ok⟩, []⟩)

/-- R156: READ STATUS returns the state in the order of its table, then clears the five summary flags and sets the retention-read flag. -/
def Obligations.ReadStatusReturnsAndClears : Prop :=
  ∀ s : State, s.ready →
    exec .readStatus s = .next (s.answered
      { s.toDevice with link := { s.link with flags := ⟨false, false, false, false, false⟩, retentionRead := true } }
      ⟨⟨.done, .ok⟩,
        [match s.peers.state with
          | .unconfigured => 0
          | .joining => 1
          | .active => 2
          | .lapsed => 3
          | .ceding => 4,
         BitVec.ofNat 8 ((if s.line.mode = .mute then 1 else 0) + (if s.line.forcedMute then 2 else 0) +
           if s.line.relay then 4 else 0),
         if s.peers.state = .unconfigured then 0 else s.line.station,
         if s.peers.state = .unconfigured then 0 else s.line.sect,
         s.link.position.row, s.link.position.col] ++
        bytes32 ((s.accounts.hoist.map fun a => a.bin).getD 0) ++
        bytesOfNat16 ((s.accounts.hoist.map fun a => a.e).getD 0) ++
        [BitVec.ofNat 8 (s.engine.table.filter Option.isSome).length,
         BitVec.ofNat 8 (s.claims.entries.filter fun x => x.own.isSome).length,
         BitVec.ofNat 8 s.link.notices.length,
         BitVec.ofNat 8 ((s.engine.table.map fun o => match o with | some r => r.notices.length | none => 0).sum +
           if s.engine.run.mark = .owed then 1 else 0),
         match s.engine.run.state with
          | .none => 0
          | .awaitingNext => 1
          | .inEntry => 2
          | .ending => 3
          | .ended => 4,
         if s.link.retentionRead then 1 else 0,
         BitVec.ofNat 8 ((if s.link.flags.noticeLost then 1 else 0) + (if s.link.flags.peerChange then 2 else 0) +
           (if s.link.flags.watchHit then 4 else 0) + (if s.link.flags.clash then 8 else 0) +
           if s.link.flags.budget then 16 else 0)]⟩)

/-! ## Requests: bins (R83) -/

/-- R83, R77, R79, R81: LOAD BIN opens the hoist account with W 0, and the result carries the class as taken and the slack. A bin already
at its limit is spent at once: the flag, the BUDGET summary flag and a BUDGET_SPENT notice (its outcome: assumption log 14). -/
def Obligations.LoadBinOpensTheHoistAccount : Prop :=
  ∀ (s : State) (bin : BinId) (cls : Byte) (e0 : BitVec 16), s.ready → s.peers.state ≠ .unconfigured →
    bin ≠ 0 → s.accounts.hoist = none → (∀ p a, s.accountAt p = some a → a.bin ≠ bin) →
    let c : BinClass := if cls = 0 then .ambient else if cls = 1 then .chilled else .frozen
    let slack : Nat := match c with
      | .ambient => 4095
      | .chilled => (2400 - e0.toNat) / 4
      | .frozen => (1500 - e0.toNat) / 6
    let spent : Bool := match c with
      | .ambient => false
      | .chilled => 2400 ≤ e0.toNat
      | .frozen => 1500 ≤ e0.toNat
    let a : Account := { bin := bin, cls := c, e := e0.toNat, location := .hoist, spent := spent, wait := 0 }
    let n : Notice :=
      { kind := .budgetSpent, outcome := ⟨.done, .budgetSpent⟩, slot := none, tag := none, values := bytes16 e0, station := 0 }
    let l : DriveLink :=
      if spent = false then s.link
      else if s.link.notices.length < 8 then
        { s.link with flags := { s.link.flags with budget := true }, notices := s.link.notices ++ [n] }
      else { s.link with flags := { s.link.flags with budget := true, noticeLost := true } }
    exec (.loadBin bin cls e0) s = .next (s.answered
      { s.toDevice with accounts := { s.accounts with hoist := some a }, link := l }
      ⟨⟨.done, .ok⟩, BitVec.ofNat 8 (match c with
        | .ambient => 0
        | .chilled => 1
        | .frozen => 2) :: bytesOfNat16 slack⟩)

/-- R83: UNLOAD BIN gives the hoist account up and returns it, unless a giver record that has not set the bin down offers it. -/
def Obligations.UnloadBinReturnsTheAccount : Prop :=
  ∀ s : State, s.ready → s.peers.state ≠ .unconfigured →
    (s.accounts.hoist = none → exec .unloadBin s = .next (s.answered s.toDevice ⟨⟨.refused, .hoistEmpty⟩, []⟩)) ∧
    ∀ a, s.accounts.hoist = some a →
      let offered : Prop := ∃ r, some r ∈ s.engine.table ∧ (∃ g, r.state = .giver g ∧ g ≠ .ended) ∧ r.placed = false ∧ r.bin = a.bin
      (offered → exec .unloadBin s = .next (s.answered s.toDevice ⟨⟨.refused, .wrongState⟩, []⟩)) ∧
      (¬offered → exec .unloadBin s = .next (s.answered { s.toDevice with accounts := { s.accounts with hoist := none } }
        ⟨⟨.done, .ok⟩, bytes32 a.bin ++ [BitVec.ofNat 8 (match a.cls with
          | .ambient => 0
          | .chilled => 1
          | .frozen => 2)] ++ bytesOfNat16 a.e ++ [if a.spent then 1 else 0]⟩))

/-! ## Requests: the giver (06) -/

/-- R93, R91, R80: POST HANDOVER in a station that is not ACTIVE makes a PENDING giver record of the hoisted bin in the lowest empty slot,
clears the staking wait, and returns slot and tag. The tag is the counter's when no record carries that one, and is carried by none. -/
def Obligations.PostHandoverOutsideActiveIsPending : Prop :=
  ∀ (s : State) (row col taker : Byte) (a : Account) (i : Nat), s.ready →
    s.peers.state ≠ .unconfigured → s.peers.state ≠ .active →
    s.accounts.hoist = some a → ¬s.offersBin a.bin → s.freeSlot = some i → s.engine.table.length ≤ 16 →
    row.toNat < 64 → col.toNat < 64 → taker.toNat ≤ 31 → taker ≠ s.line.station →
    ∃ t : Tag, t.giver = s.line.station ∧ (∀ j r, s.recordAt j = some r → r.tag ≠ t) ∧
      ((∀ j r, s.recordAt j = some r → r.tag ≠ ⟨s.line.station, s.engine.tagCounter⟩) → t.seq = s.engine.tagCounter) ∧
      exec (.postHandover row col taker) s = .next (s.answered
        { s.toDevice with
          engine := { s.tableWith i (Record.new t (.giver .pending) taker a.bin a.cls ⟨row, col⟩ 0) with tagCounter := t.seq + 1 },
          accounts := { s.accounts with hoist := some { a with wait := 0 } } }
        ⟨⟨.done, .ok⟩, [BitVec.ofNat 8 i, t.giver, t.seq]⟩)

/-- R93, R55, R56, R81: POST HANDOVER in ACTIVE stakes the cell at once. With no stake known on it, fewer than four own stakes and room in
the map and the queue, the record's key is frozen, the own entry is CONTESTED and a STAKE is queued; with a HELD or PLACED stake of
another on it, the record waits and nothing is sent. -/
def Obligations.PostHandoverInActiveStakes : Prop :=
  ∀ (s : State) (row col taker : Byte) (a : Account) (i : Nat), s.ready → s.peers.state = .active →
    s.accounts.hoist = some a → ¬s.offersBin a.bin → s.freeSlot = some i →
    (∀ j r, s.recordAt j = some r → r.tag ≠ ⟨s.line.station, s.engine.tagCounter⟩) →
    row.toNat < 64 → col.toNat < 64 → taker.toNat ≤ 31 → taker ≠ s.line.station →
    (∀ x ∈ s.claims.entries, x.own ≠ none → x.cell ≠ ⟨row, col⟩) →
    (s.claims.entries.filter fun x => x.own.isSome).length < 4 →
    let t : Tag := ⟨s.line.station, s.engine.tagCounter⟩
    let new : Record := Record.new t (.giver .staking) taker a.bin a.cls ⟨row, col⟩ 0
    let reply : Reply := ⟨⟨.done, .ok⟩, [BitVec.ofNat 8 i, t.giver, t.seq]⟩
    ((∀ x ∈ s.claims.entries, x.cell ≠ ⟨row, col⟩) → s.claims.entries.length < 48 → s.canSend →
      exec (.postHandover row col taker) s = .next (s.answered
        { s.toDevice with
          line := s.sent .claimMap (.stake { cell := ⟨row, col⟩, tag := t, key := BitVec.ofNat 16 a.slack }),
          engine := { s.tableWith i { new with frozenKey := some a.slack, request := some .contesting } with tagCounter := t.seq + 1 },
          accounts := { s.accounts with hoist := some { a with wait := 0 } },
          claims := { s.claims with
            entries := insertClaim
              { cell := ⟨row, col⟩, claimant := s.line.station, tag := t, key := a.slack, phase := .contested, age := 0,
                own := some { use := .slot i, outcome := some (.awaited s.line.seqCounter), settle := none, linger := none,
                              rival := none } } s.claims.entries } }
        reply)) ∧
    ((∃ x ∈ s.claims.entries, x.cell = ⟨row, col⟩ ∧ x.phase ≠ .contested) →
      exec (.postHandover row col taker) s = .next (s.answered
        { s.toDevice with
          engine := { s.tableWith i { new with request := some .blocked } with tagCounter := t.seq + 1 },
          accounts := { s.accounts with hoist := some { a with wait := 0 } } }
        reply))

/-- R105, R95: REOFFER takes an UNBOUND record to OFFERING with the taker given, counts and timer at 0; an open turn of it gets no further
CEDE (R145). In ACTIVE its first OFFER is queued at once, with the slack of the record's account at this moment. -/
def Obligations.ReofferOffersAgain : Prop :=
  ∀ (s : State) (g q taker : Byte) (i : Nat) (r : Record), s.ready → s.peers.state ≠ .unconfigured →
    s.slotOf ⟨g, q⟩ = some i → s.recordAt i = some r → r.state = .giver .unbound →
    let new : Record := { r with
      partner := taker, state := .giver .offering, offers := 0, timer := 0, frozenKey := none, request := none }
    (31 < taker.toNat ∨ taker = s.line.station →
      exec (.reoffer g q taker) s = .next (s.answered s.toDevice ⟨⟨.refused, .badParam⟩, []⟩)) ∧
    (taker.toNat ≤ 31 → taker ≠ s.line.station → s.peers.state ≠ .active →
      exec (.reoffer g q taker) s = .next (s.answered { s.toDevice with engine := s.leftWith i new } ⟨⟨.done, .ok⟩, []⟩)) ∧
    (taker.toNat ≤ 31 → taker ≠ s.line.station → s.peers.state = .active → s.canSend →
      ∀ a, (if r.placed then s.accountAt (.slot i) else s.accounts.hoist) = some a → a.bin = r.bin →
      exec (.reoffer g q taker) s = .next (s.answered
        { s.toDevice with
          line := s.sent .engine (.offer
            { tag := r.tag, bin := r.bin, cls := BitVec.ofNat 8 r.cls.code, slack := BitVec.ofNat 16 a.slack, cell := r.cell,
              taker := taker, placed := if r.placed then 1 else 0, ordinal := BitVec.ofNat 8 r.ordinal }),
          engine := s.leftWith i { new with offers := 1, addressed := true } }
        ⟨⟨.done, .ok⟩, []⟩))

/-- R100, R76: REPORT SETDOWN over the record's cell moves the hoist account to the record's slot, sets the placed flag and makes the stake
PLACED. From BOUND the record enters PLACED and its SETDOWN is queued; from UNBOUND it becomes UNBOUND-placed. -/
def Obligations.ReportSetdownPutsTheBinOnTheCell : Prop :=
  ∀ (s : State) (g q : Byte) (i : Nat) (r : Record) (a : Account) (x : Claim), s.ready → s.peers.state ≠ .unconfigured →
    s.slotOf ⟨g, q⟩ = some i → s.recordAt i = some r → s.link.position = r.cell → s.accounts.hoist = some a → a.bin = r.bin →
    i < s.accounts.slots.length → s.claimOfUse (.slot i) = some x → x.cell = r.cell →
    let moved : Accounts := { hoist := none, slots := s.accounts.slots.set i (some { a with location := .cell }) }
    let place : Claim → Claim := fun y => if y.own.isSome && y.cell == r.cell then { y with phase := .placed } else y
    let placed : ClaimMap := { s.claims with entries := s.claims.entries.map place }
    (r.state = .giver .unbound → r.placed = false →
      exec (.reportSetdown g q) s = .next (s.answered
        { s.toDevice with
          accounts := moved, claims := placed,
          engine := s.tableWith i { r with placed := true, bindFrame := none, setdownFrame := none } }
        ⟨⟨.done, .ok⟩, bytesOfNat16 a.e⟩)) ∧
    (r.state = .giver .bound → s.canSend →
      exec (.reportSetdown g q) s = .next (s.answered
        { s.toDevice with
          accounts := moved, claims := placed,
          line := s.sent .engine (.setdown { tag := r.tag, cell := r.cell, bin := r.bin, e := BitVec.ofNat 16 a.e }),
          engine := s.tableWith i
            { r with
              state := .giver .placed, placed := true, setdownOwed := false, bindFrame := none,
              setdownFrame := some s.line.seqCounter } }
        ⟨⟨.done, .ok⟩, bytesOfNat16 a.e⟩))

/-- R103, R104: RECOVER over the cell takes the bin back: the account moves to the hoist, the record ends FAILED(RECOVERED) with its E, and
a CANCEL(RECOVERED) is queued for a record whose OFFER went out. A record that ended DONE refuses it with TOO_LATE. -/
def Obligations.RecoverTakesTheBinBack : Prop :=
  ∀ (s : State) (g q : Byte) (i : Nat) (r : Record), s.ready → s.peers.state ≠ .unconfigured →
    s.slotOf ⟨g, q⟩ = some i → s.recordAt i = some r →
    (∀ gs d, r.state = .giver gs → gs = .ended → r.outcome = some ⟨.done, d⟩ →
      exec (.recover g q) s = .next (s.answered s.toDevice ⟨⟨.refused, .tooLate⟩, []⟩)) ∧
    (∀ a, r.state = .giver .placed ∨ r.state = .giver .unbound ∨ r.state = .giver .offering → r.placed = true →
      s.accounts.hoist = none → s.link.position = r.cell → s.accountAt (.slot i) = some a →
      ∃ d, exec (.recover g q) s = .next (s.after d) ∧
        d.accountAt .hoist = some { a with location := .hoist } ∧ d.accountAt (.slot i) = none ∧
        (∃ r', d.recordAt i = some r' ∧ r'.tag = r.tag ∧ r'.state = .giver .ended ∧ r'.outcome = some ⟨.failed, .recovered⟩ ∧
          r'.endValue = a.e ∧ r'.setdownOwed = false) ∧
        (r.addressed = true → s.canSend →
          ∃ y ∈ d.line.queue, y.sender = .engine ∧ y.frame.body = .cancel { tag := r.tag, reason := 2 }) ∧
        d.link.phase = .result ∧ d.link.result = [4, 0, 0] ++ bytesOfNat16 a.e)

/-- R107, R122, R126: CANCEL ends a giver record whose bin is not set down, the bin staying on the hoist, and ends a taker record with its
shadow given up; each is FAILED(CANCELLED), and the line is told with CANCEL(CANCELLED) (a giver's only when an OFFER of it went out). A
giver's staking request is removed (R55); with nobody waiting for its stake, a CONTESTED one is withdrawn with UNSTAKE (R66), a HELD one
lingers (R62), without a conflict rival (the model's choice, assumption log 34). The record of a run's ACTIVE entry takes the run with it:
the entry is FAILED, and the run ends FAILED(CANCELLED) where it stood (R132). A LAPSED station, where the completion of the request begins
the work of R94 anew, is left out of these clauses. -/
def Obligations.CancelEndsTheRecord : Prop :=
  ∀ (s : State) (g q : Byte) (i : Nat) (r : Record), s.ready → s.peers.state ≠ .unconfigured →
    s.slotOf ⟨g, q⟩ = some i → s.recordAt i = some r →
    (r.isEnded = true ∨ (r.isGiver = true ∧ r.placed = true) →
      exec (.cancel g q) s = .next (s.answered s.toDevice ⟨⟨.refused, .wrongState⟩, []⟩)) ∧
    (r.isEnded = false → (r.isGiver = true → r.placed = false) →
      ∃ d, exec (.cancel g q) s = .next (s.after d) ∧
        (∃ r', d.recordAt i = some r' ∧ r'.tag = r.tag ∧ r'.isEnded = true ∧ r'.isGiver = r.isGiver ∧
          r'.outcome = some ⟨.failed, .cancelled⟩ ∧ (r.isGiver = true → r'.request = none) ∧
          r'.endValue = if r.isGiver then accountE s.accounts.hoist
            else if r.state = .taker .ready then accountE (s.accountAt (.slot i)) else 0) ∧
        d.accounts.hoist = s.accounts.hoist ∧
        (r.state = .taker .ready → d.accountAt (.slot i) = none) ∧
        ((r.isGiver = true → r.addressed = true) → s.canSend →
          ∃ y ∈ d.line.queue, y.sender = .engine ∧ y.frame.body = .cancel { tag := r.tag, reason := 1 }) ∧
        d.link.phase = .result ∧ d.link.result = [2, 0, 0] ∧
        (s.peers.state ≠ .lapsed →
          let ours : Prop := r.isGiver = true ∧ r.ordinal ≠ 0 ∧ (s.engine.run.state = .inEntry ∨ s.engine.run.state = .ending)
          (ours → d.RunEnded { s.engine.run with entries := s.engine.run.entriesWith r.ordinal .failed } ⟨.failed, .cancelled⟩) ∧
          (¬ours → d.engine.run = { s.engine.run with mark := d.engine.run.mark }) ∧
          (¬ours ∨ s.claimOfUse .runHold = none →
            (r.isGiver = false ∨ s.claimOfUse (.slot i) = none → d.claims = s.claims) ∧
            ∀ x, r.isGiver = true → s.claimOfUse (.slot i) = some x →
              (∀ j q, s.recordAt j = some q → j ≠ i → ¬q.WaitsFor x.cell) →
              (x.phase ≠ .contested → d.claims.entries = s.lingering x.cell) ∧
              (x.phase = .contested → d.claims.entries = s.unstaked x.cell ∧
                (s.line.mode = .normal → s.line.queue.length ≤ 6 →
                  d.queues .claimMap (.unstake { cell := x.cell, tag := x.tag }))))))

/-! ## Requests: the taker (07) -/

/-- R116: ANSWER INVITE. An answer of 1 queues an AGREE and takes the record to AGREED; in MUTE the AGREE is dropped and the record ends.
An answer of 0 queues DECLINE(HOST_DECLINED) and ends the record REFUSED(DECLINED). -/
def Obligations.AnswerInviteAgreesOrDeclines : Prop :=
  ∀ (s : State) (g q : Byte) (i : Nat) (r : Record), s.ready → s.peers.state ≠ .unconfigured →
    s.slotOf ⟨g, q⟩ = some i → s.recordAt i = some r → r.state = .taker .invited →
    (s.canSend →
      exec (.answerInvite g q 1) s = .next (s.answered
        { s.toDevice with
          line := s.sent .engine (.agree { tag := r.tag, taker := s.line.station }),
          engine := s.tableWith i { r with state := .taker .agreed, timer := 0, agreeFrame := some s.line.seqCounter } }
        ⟨⟨.done, .ok⟩, []⟩)) ∧
    (s.line.mode = .mute →
      ∃ d r', exec (.answerInvite g q 1) s = .next (s.after d) ∧ d.recordAt i = some r' ∧ r'.state = .taker .ended ∧
        r'.outcome = some ⟨.failed, .lineMuted⟩ ∧ d.link.phase = .result ∧ d.link.result = [2, 0, 0]) ∧
    ∃ d r', exec (.answerInvite g q 0) s = .next (s.after d) ∧ d.recordAt i = some r' ∧ r'.state = .taker .ended ∧
      r'.outcome = some ⟨.refused, .declined⟩ ∧ d.link.phase = .result ∧ d.link.result = [2, 0, 0] ∧
      (s.canSend → ∃ y ∈ d.line.queue, y.sender = .engine ∧
        y.frame.body = .decline { tag := r.tag, taker := s.line.station, reason := 3 })

/-- R120, R121: REPORT LIFT over the cell moves the shadow to the hoist and ends the record DONE with its E; a LIFTED is queued, and the
end notice waits until it is SENT. In MUTE the LIFTED is owed. An ended record refuses with TOO_LATE. The detail OK of the record's outcome
is assumption log 47. -/
def Obligations.ReportLiftCompletesTheTaker : Prop :=
  ∀ (s : State) (g q : Byte) (i : Nat) (r : Record), s.ready → s.peers.state ≠ .unconfigured →
    s.slotOf ⟨g, q⟩ = some i → s.recordAt i = some r →
    (r.state = .taker .ended →
      exec (.reportLift g q) s = .next (s.answered s.toDevice ⟨⟨.refused, .tooLate⟩, []⟩)) ∧
    ∀ a, r.state = .taker .ready → s.accounts.hoist = none → s.link.position = r.cell → s.accountAt (.slot i) = some a →
      let lifted : Record := { r with
        state := .taker .ended, outcome := some ⟨.done, .ok⟩, endValue := a.e, endCollected := false }
      let moved : Accounts := { hoist := some { a with location := .hoist }, slots := s.accounts.slots.set i none }
      (s.canSend →
        exec (.reportLift g q) s = .next (s.answered
          { s.toDevice with
            accounts := moved,
            line := s.sent .engine (.lifted { tag := r.tag, taker := s.line.station, bin := r.bin }),
            engine := s.leftWith i { lifted with lifted := .awaited, liftedFrame := some s.line.seqCounter } }
          ⟨⟨.done, .ok⟩, bytesOfNat16 a.e⟩)) ∧
      (s.line.mode = .mute →
        exec (.reportLift g q) s = .next (s.answered
          { s.toDevice with accounts := moved, engine := s.leftWith i { lifted with lifted := .owed, liftedFrame := none } }
          ⟨⟨.done, .ok⟩, bytesOfNat16 a.e⟩))

/-! ## Requests: runs (08) -/

/-- R128: START RUN makes the run list of its entries, AWAITING_NEXT at ordinal 1, with the service timer at 0. It is refused outside
ACTIVE, while a run stands, and with parameters out of range or a bin named twice. -/
def Obligations.StartRunMakesTheRunList : Prop :=
  ∀ (s : State) (row col : Byte) (skip : BitVec 4) (es : List RunItem), s.ready → s.peers.state ≠ .unconfigured → es.length ≤ 15 →
    let valid : Prop := 1 ≤ es.length ∧ es.length ≤ 12 ∧ row.toNat < 64 ∧ col.toNat < 64 ∧ skip.toNat ≤ 1 ∧
      (∀ e ∈ es, e.bin ≠ 0 ∧ e.taker.toNat ≤ 31 ∧ e.taker ≠ s.line.station) ∧ (es.map fun e => e.bin).Nodup
    (s.peers.state ≠ .active →
      exec (.startRun row col skip es) s = .next (s.answered s.toDevice ⟨⟨.refused, .notActive⟩, []⟩)) ∧
    (s.peers.state = .active → s.engine.run.state ≠ .none →
      exec (.startRun row col skip es) s = .next (s.answered s.toDevice ⟨⟨.refused, .wrongState⟩, []⟩)) ∧
    (s.peers.state = .active → s.engine.run.state = .none → ¬valid →
      exec (.startRun row col skip es) s = .next (s.answered s.toDevice ⟨⟨.refused, .badParam⟩, []⟩)) ∧
    (s.peers.state = .active → s.engine.run.state = .none → valid →
      exec (.startRun row col skip es) s = .next (s.answered
        { s.toDevice with engine := { s.engine with run :=
          { state := .awaitingNext, cell := ⟨row, col⟩, skip := decide (skip = 1),
            entries := es.map fun e =>
              { bin := e.bin, cls := if e.cls = 0#8 then .ambient else if e.cls = 1#8 then .chilled else .frozen, taker := e.taker,
                state := .waiting },
            next := 1, timer := some 0, outcome := none, mark := .none } } }
        ⟨⟨.done, .ok⟩, [BitVec.ofNat 8 es.length]⟩))

/-- R129, R56, R62, R68, R95: NEXT ENTRY gives the run's next entry a giver record of the hoisted bin on the run's cell; the run is
IN_ENTRY and its service timer stops. Outside ACTIVE the record is PENDING. In ACTIVE a run hold on the cell passes to it, HELD under its
tag, and its first OFFER is queued. The stake that passes starts without a conflict rival (assumption log 34). -/
def Obligations.NextEntryHandsTheEntryOver : Prop :=
  ∀ (s : State) (ordinal : Byte), s.ready → s.peers.state ≠ .unconfigured →
    (s.engine.run.state ≠ .awaitingNext →
      exec (.nextEntry ordinal) s = .next (s.answered s.toDevice ⟨⟨.refused, .wrongState⟩, []⟩)) ∧
    (s.engine.run.state = .awaitingNext → ordinal.toNat ≠ s.engine.run.next →
      exec (.nextEntry ordinal) s = .next (s.answered s.toDevice ⟨⟨.refused, .badParam⟩, []⟩)) ∧
    ∀ (a : Account) (e : RunEntry) (i : Nat), s.engine.run.state = .awaitingNext → ordinal.toNat = s.engine.run.next →
      ordinal ≠ 0 → s.engine.run.entries[ordinal.toNat - 1]? = some e → s.accounts.hoist = some a →
      (a.bin ≠ e.bin ∨ a.cls ≠ e.cls →
        exec (.nextEntry ordinal) s = .next (s.answered s.toDevice ⟨⟨.refused, .wrongBin⟩, []⟩)) ∧
      (a.bin = e.bin → a.cls = e.cls → ¬s.offersBin a.bin → s.freeSlot = some i →
        (∀ j r, s.recordAt j = some r → r.tag ≠ ⟨s.line.station, s.engine.tagCounter⟩) →
        let t : Tag := ⟨s.line.station, s.engine.tagCounter⟩
        let run : RunList := { s.engine.run with
          state := .inEntry, timer := none,
          entries := s.engine.run.entriesWith ordinal.toNat .active }
        let waits : Accounts := { s.accounts with hoist := some { a with wait := 0 } }
        let reply : Reply := ⟨⟨.done, .ok⟩, [BitVec.ofNat 8 i, t.giver, t.seq]⟩
        (s.peers.state ≠ .active →
          exec (.nextEntry ordinal) s = .next (s.answered
            { s.toDevice with
              accounts := waits,
              engine := { s.tableWith i (Record.new t (.giver .pending) e.taker a.bin a.cls s.engine.run.cell ordinal.toNat) with
                tagCounter := t.seq + 1, run := run } }
            reply)) ∧
        (∀ x, s.peers.state = .active → s.canSend → s.ownClaim s.engine.run.cell = some x → ownUse x = some .runHold →
          exec (.nextEntry ordinal) s = .next (s.answered
            { s.toDevice with
              accounts := waits,
              claims := { s.claims with entries := s.passing s.engine.run.cell i t },
              line := s.sent .engine (.offer
                { tag := t, bin := a.bin, cls := BitVec.ofNat 8 a.cls.code, slack := BitVec.ofNat 16 a.slack,
                  cell := s.engine.run.cell, taker := e.taker, placed := 0, ordinal := ordinal }),
              engine :=
                { s.tableWith i
                    { Record.new t (.giver .offering) e.taker a.bin a.cls s.engine.run.cell ordinal.toNat with
                      offers := 1, addressed := true } with
                  tagCounter := t.seq + 1, run := run } }
            reply)))

/-- R131, R133, R134, R136, R137, R68: END RUN in AWAITING_NEXT ends the run DONE(TERMINATED): its waiting entries are NOT_STARTED, a run
hold lingers, without a conflict rival (the model's choice, assumption log 34), and RUN_ENDED is queued when the notice queue has room; in
IN_ENTRY the run is ENDING. WITHDRAW ENTRY withdraws a waiting entry. At the next ordinal the run advances: with the skip flag past the
entry, which is SKIPPED, its service timer running on; without it the run ends FAILED(WITHDRAWN_MET). -/
def Obligations.RunsEndAndEntriesAreWithdrawn : Prop :=
  (∀ s : State, s.ready → s.peers.state ≠ .unconfigured →
    (s.engine.run.state ≠ .awaitingNext → s.engine.run.state ≠ .inEntry →
      exec .endRun s = .next (s.answered s.toDevice ⟨⟨.refused, .wrongState⟩, []⟩)) ∧
    (s.engine.run.state = .inEntry →
      exec .endRun s = .next (s.answered
        { s.toDevice with engine := { s.engine with run := { s.engine.run with state := .ending } } } ⟨⟨.done, .ok⟩, []⟩)) ∧
    (s.engine.run.state = .awaitingNext → s.noneStaking → s.canNotify →
      let run := s.runOver ⟨.done, .terminated⟩
      exec .endRun s = .next (s.answered
        { s.toDevice with
          engine := { s.engine with run := run },
          claims := { s.claims with entries := s.holdLingers },
          link := s.notified
            { kind := .runEnded, outcome := ⟨.done, .terminated⟩, slot := none, tag := none, values := run.endValues, station := 0 } }
        ⟨⟨.done, .ok⟩, []⟩))) ∧
  ∀ (s : State) (ordinal : Byte) (e : RunEntry), s.ready → s.peers.state ≠ .unconfigured →
    (s.engine.run.state = .none ∨ s.engine.run.state = .ended →
      exec (.withdrawEntry ordinal) s = .next (s.answered s.toDevice ⟨⟨.refused, .wrongState⟩, []⟩)) ∧
    (s.engine.run.state ≠ .none → s.engine.run.state ≠ .ended → ordinal ≠ 0 →
      s.engine.run.entries[ordinal.toNat - 1]? = some e →
      let entriesWith : EntryState → List RunEntry := s.engine.run.entriesWith ordinal.toNat
      (e.state ≠ .waiting ∨ ordinal.toNat < s.engine.run.next →
        exec (.withdrawEntry ordinal) s = .next (s.answered s.toDevice ⟨⟨.refused, .wrongState⟩, []⟩)) ∧
      (e.state = .waiting → s.engine.run.next ≤ ordinal.toNat →
        s.engine.run.state ≠ .awaitingNext ∨ s.engine.run.next < ordinal.toNat →
        exec (.withdrawEntry ordinal) s = .next (s.answered
          { s.toDevice with engine := { s.engine with run := { s.engine.run with entries := entriesWith .withdrawn } } }
          ⟨⟨.done, .ok⟩, [BitVec.ofNat 8 s.engine.run.state.code, BitVec.ofNat 8 s.engine.run.next]⟩)) ∧
      (e.state = .waiting → s.engine.run.next = ordinal.toNat → s.engine.run.state = .awaitingNext → s.engine.run.skip = true →
        ∀ e', s.engine.run.entries[ordinal.toNat]? = some e' → e'.state = .waiting →
        exec (.withdrawEntry ordinal) s = .next (s.answered
          { s.toDevice with engine := { s.engine with run := { s.engine.run with
              entries := entriesWith .skipped, next := ordinal.toNat + 1 } } }
          ⟨⟨.done, .ok⟩, [1, BitVec.ofNat 8 (ordinal.toNat + 1)]⟩)) ∧
      (e.state = .waiting → s.engine.run.next = ordinal.toNat → s.engine.run.state = .awaitingNext → s.engine.run.skip = false →
        s.noneStaking → s.canNotify →
        ∃ d, exec (.withdrawEntry ordinal) s = .next (s.answered d ⟨⟨.done, .ok⟩, [4, ordinal]⟩) ∧ d.engine.run.state = .ended ∧
          d.engine.run.outcome = some ⟨.failed, .withdrawnMet⟩ ∧ d.engine.run.next = ordinal.toNat ∧ d.engine.run.timer = none ∧
          (∀ x ∈ d.engine.run.entries, x.state ≠ .waiting) ∧ d.claims.entries = s.holdLingers ∧ d.engine.run.mark = .queued ∧
          (∃ n ∈ d.link.notices, n.kind = .runEnded ∧ n.outcome = ⟨.failed, .withdrawnMet⟩)))

/-! ## Requests: adoption, notices, reads (09, 10) -/

/-- R139, R140: ADOPT in ACTIVE on a NORMAL line, with no adoption in progress. A target that is not in the roster or is LOST is silent; one
that announced CEDING is busy; one that announced anything but LAPSED is live; a lapsed one is taken: the phase is SENDING and the ADOPT is
queued. -/
def Obligations.AdoptAsksForALapsedTarget : Prop :=
  ∀ (s : State) (target : Byte), s.ready → s.peers.state = .active → s.line.mode = .normal → s.engine.adoption.phase = .none →
    target.toNat ≠ 0 → target.toNat ≤ 31 → target ≠ s.line.station →
    (s.rosterEntry target = none →
      exec (.adopt target) s = .next (s.answered s.toDevice ⟨⟨.refused, .targetSilent⟩, []⟩)) ∧
    ∀ e, s.rosterEntry target = some e →
      (e.link = .lost → exec (.adopt target) s = .next (s.answered s.toDevice ⟨⟨.refused, .targetSilent⟩, []⟩)) ∧
      (e.link ≠ .lost → e.announced = some .ceding →
        exec (.adopt target) s = .next (s.answered s.toDevice ⟨⟨.refused, .targetBusy⟩, []⟩)) ∧
      (e.link ≠ .lost → e.announced ≠ some .ceding → e.announced ≠ some .lapsed →
        exec (.adopt target) s = .next (s.answered s.toDevice ⟨⟨.refused, .targetLive⟩, []⟩)) ∧
      (e.link ≠ .lost → e.announced = some .lapsed → s.canSend →
        exec (.adopt target) s = .next (s.answered
          { s.toDevice with
            line := s.sent .engine (.adopt { target := target }),
            engine := { s.engine with adoption :=
              { phase := .sending, target := target, timer := none, arrived := [], frame := some s.line.seqCounter } } }
          ⟨⟨.done, .ok⟩, []⟩))

/-- R160, R92, R137: COLLECT returns the oldest notice in its 12 bytes (R33), with the notice's outcome as the result's; with an empty
queue it returns kind NONE. A collected ENDED frees its record's slot, at once or with the last notice of its set; a collected RUN_ENDED ends
the run list (the fields it keeps: assumption log 37). Then what is owed moves into the place come free, at the completion of the request
(R159), before the LAPSE_ENDED that a LAPSED station queues after the request's own effects (R38, R150); that no notice of another
command comes between is the model's choice (assumption log 50). -/
def Obligations.CollectReturnsTheOldestNotice : Prop :=
  ∀ (s : State), s.ready →
    (s.link.notices = [] →
      exec .collect s =
        .next (s.answered s.toDevice ⟨⟨.done, .ok⟩, [0, 0, 0, 255, 0, 0, 0, 0, 0, 0, 0, 0]⟩)) ∧
    ∀ (n : Notice) (rest : List Notice), s.link.notices = n :: rest →
      let taken : Device := { s.toDevice with link := { s.link with notices := rest } }
      let reply : Reply := ⟨n.outcome,
        [BitVec.ofNat 8 n.kind.code, BitVec.ofNat 8 n.outcome.cls.code, BitVec.ofNat 8 n.outcome.detail.code,
          match n.slot with
          | some i => BitVec.ofNat 8 i
          | none => 255] ++
        (match n.tag with
          | some t => [t.giver, t.seq]
          | none => [0, 0]) ++ (n.values ++ [0, 0, 0, 0, 0]).take 5 ++ [n.station]⟩
      let leaves : Device → State := fun d => s.answered d.moved reply
      (n.kind ≠ .ended → n.kind ≠ .runEnded → exec .collect s = .next (leaves taken)) ∧
      (∀ i t r, n.kind = .ended → n.slot = some i → n.tag = some t → s.recordAt i = some r → r.tag = t → r.isEnded = true →
        exec .collect s = .next (leaves
          { taken with engine := { s.engine with
            table := s.engine.table.set i (if r.notices = [] then none else some { r with endCollected := true }) } })) ∧
      (n.kind = .runEnded →
        exec .collect s = .next (leaves
          { taken with engine := { s.engine with run :=
            { s.engine.run with state := .none, entries := [], outcome := none, mark := .none } } }))

/-- R157: the paged reads, in every station state, change nothing. READ RECORD takes the slot modulo 16; READ CLAIMS and READ ROSTER take
the page modulo 6 and 3, eight entries a page, in the order the lists stand in. -/
def Obligations.PagedReadsReturnTheState : Prop :=
  ∀ (s : State) (b : Byte), s.ready →
    exec (.readRecord b) s = .next (s.answered s.toDevice ⟨⟨.done, .ok⟩, BitVec.ofNat 8 (b.toNat % 16) ::
      match s.recordAt (b.toNat % 16) with
      | none => [0]
      | some r => (1 : Byte) ::
        [BitVec.ofNat 8 (b.toNat % 16), r.tag.giver, r.tag.seq, if r.isGiver then 1 else 2, r.partner] ++ bytes32 r.bin ++
        [BitVec.ofNat 8 r.cls.code, r.cell.row, r.cell.col,
          match r.state with
          | .giver g => BitVec.ofNat 8 g.code
          | .taker t => BitVec.ofNat 8 t.code] ++
        (match r.outcome with
          | some o => [BitVec.ofNat 8 o.cls.code, BitVec.ofNat 8 o.detail.code]
          | none => [255, 255]) ++
        [BitVec.ofNat 8 r.ordinal, if r.placed then 1 else 0, if r.addressed then 1 else 0, BitVec.ofNat 8 r.offers,
          BitVec.ofNat 8 r.timer] ++
        bytesOfNat16 (r.frozenKey.getD 65535) ++ [if r.setdownOwed then 1#8 else 0] ++ bytesOfNat16 (pendingBits r.notices) ++
        [match r.accountPos (b.toNat % 16) with
          | some .hoist => 16#8
          | some (.slot n) => BitVec.ofNat 8 n
          | none => 255#8,
         BitVec.ofNat 8 r.lifted.code,
         match r.request with
          | some q => BitVec.ofNat 8 q.code
          | none => 0] ++
        (match s.recordAccount (b.toNat % 16) r with
          | some a => bytes32 a.bin ++ [BitVec.ofNat 8 a.cls.code] ++ bytesOfNat16 a.e ++
            [match a.location with
              | .hoist => 1#8
              | .cell => 2
              | .shadow => 3, if a.spent then 1#8 else 0] ++ bytesOfNat16 a.wait
          | none => List.replicate 11 0)⟩) ∧
    exec (.readClaims b) s = .next (s.answered s.toDevice ⟨⟨.done, .ok⟩,
      let page := (s.claims.entries.drop (8 * (b.toNat % 6))).take 8
      [BitVec.ofNat 8 (b.toNat % 6), BitVec.ofNat 8 s.claims.entries.length, BitVec.ofNat 8 page.length] ++
        page.flatMap fun x =>
          [x.cell.row, x.cell.col, x.claimant, x.tag.giver, x.tag.seq] ++ bytesOfNat16 x.key ++
          [match x.phase with
            | .contested => 1
            | .held => 2
            | .placed => 3,
           BitVec.ofNat 8 x.age, if x.own = none then 0 else 1,
           match ownUse x with
            | some (.slot n) => BitVec.ofNat 8 n
            | some .runHold => 16
            | some .linger => 17
            | none => 255]⟩) ∧
    exec (.readRoster b) s = .next (s.answered s.toDevice ⟨⟨.done, .ok⟩,
      let page := (s.peers.roster.drop (8 * (b.toNat % 3))).take 8
      [BitVec.ofNat 8 (b.toNat % 3), BitVec.ofNat 8 s.peers.roster.length, BitVec.ofNat 8 page.length] ++
        page.flatMap fun e =>
          [e.station, BitVec.ofNat 8 ((e.announced.map fun x => x.code).getD 0),
           match e.link with
            | .heard => 0
            | .quiet => 1
            | .lost => 2] ++
          [((e.position.map fun c => c.row).getD 0), ((e.position.map fun c => c.col).getD 0)] ++
          bytes32 (e.hoistBin.getD 0) ++ [BitVec.ofNat 8 e.age]⟩)

/-! ## Time (03, 04, 05, 06 to 09) -/

/-- R77 to R80: one accounting second adds each account's rate, saturating, whatever the order (assumption log 10); an account that is at
its limit has its spent flag set, with the BUDGET flag; the hoist account also waits while a record of its bin is STAKING. With no budget
newly spent nothing but the accounts changes. -/
def Obligations.AccountingSecondCountsEveryAccount : Prop :=
  ∀ (s : State) (order : List AccountPos), s.power.state = .run → s.accounts.slots.length = 16 →
    let weight : Account → Nat := fun a =>
      match a.cls, a.location with
      | .ambient, _ => 0
      | .chilled, .hoist => 2
      | .chilled, _ => 4
      | .frozen, .hoist => 3
      | .frozen, _ => 6
    let atLimit : Account → Prop := fun a =>
      (a.cls = .chilled ∧ 2400 ≤ min 65535 (a.e + weight a)) ∨ (a.cls = .frozen ∧ 1500 ≤ min 65535 (a.e + weight a))
    ∃ d, exec (.accountingSecond order) s = .next (s.after d) ∧
      d.line = s.line ∧ d.peers = s.peers ∧ d.claims = s.claims ∧ d.power = s.power ∧
      (∀ p, match s.accountAt p with
        | none => d.accountAt p = none
        | some a => ∃ a', d.accountAt p = some a' ∧ a'.bin = a.bin ∧ a'.cls = a.cls ∧ a'.location = a.location ∧
            a'.e = min 65535 (a.e + weight a) ∧ (a'.spent = true ↔ a.spent = true ∨ atLimit a) ∧
            (p = .hoist → (∃ r, some r ∈ s.engine.table ∧ r.state = .giver .staking ∧ r.bin = a.bin) →
              a'.wait = min 65535 (a.wait + 1)) ∧
            (¬(p = .hoist ∧ ∃ r, some r ∈ s.engine.table ∧ r.state = .giver .staking ∧ r.bin = a.bin) → a'.wait = a.wait)) ∧
      ((∃ p a, s.accountAt p = some a ∧ a.spent = false ∧ atLimit a) → d.link.flags.budget = true) ∧
      ((∀ p a, s.accountAt p = some a → a.spent = true ∨ ¬atLimit a) → d.link = s.link ∧ d.engine = s.engine)

/-- R163, R18, R32, R35, R37, R41, R43, R52, R57, R60, R67, R96, R101, R115, R117, R121, R130, R140: a beacon-period expiry reaches every
block, in any order (assumption log 9): the recent pairs age and go at 4, the host-silence, join-listen, adoption and service timers count,
every roster entry ages and takes its link state. With nothing else due, an ACTIVE station on a NORMAL line queues one PRESENCE with its
state, position and hoist bin. In a sound part in which no timer runs out, heard claims age and go at 8, settle and linger counts fall, and the
records' timers count; with that, an owed SETDOWN and an owed LIFTED are queued again, and are owed again in MUTE, and the one waiting request
of an ACTIVE station whose cell is free stakes it. -/
def Obligations.BeaconPeriodReachesEveryBlock : Prop :=
  (∀ (s : State) (order : BeaconOrder), s.power.state = .run →
    ∃ d, exec (.beaconPeriodExpiry order) s = .next (s.after d) ∧
      d.line.recent = (s.line.recent.map fun p => { p with age := p.age + 1 }).filter (fun p => p.age < 4) ∧
      (∀ n, s.peers.silenceTimer = some n → d.peers.silenceTimer = if n ≤ 1 then none else some (n - 1)) ∧
      (∀ n, s.peers.state = .joining → s.engine.ceding.turn = .none → s.peers.joinTimer = some n →
        d.peers.joinTimer = if n ≤ 1 then none else some (n - 1)) ∧
      (∀ n, s.engine.adoption.timer = some n → 2 ≤ n →
        d.engine.adoption = { s.engine.adoption with timer := some (n - 1) }) ∧
      (∀ n, s.engine.run.state = .awaitingNext → s.engine.run.timer = some n → n ≤ 10 →
        d.engine.run.state = .awaitingNext ∧ d.engine.run.timer = some (n + 1)) ∧
      ((s.peers.roster.map fun e => e.station).Nodup →
        d.peers.roster = s.peers.roster.map fun e =>
          let n := min 255 (e.age + 1)
          { e with age := n, link := if n < 4 then .heard else if n < 16 then .quiet else .lost })) ∧
  (∀ (s : State) (order : BeaconOrder) (n : Nat), s.power.state = .run → s.peers.state = .active → s.canSend →
    (∀ x ∈ s.line.queue, bodyIsPresence x.frame.body = false) →
    s.peers.silenceTimer = some n → 2 ≤ n → s.peers.roster = [] → s.claims.entries = [] → (∀ i, s.recordAt i = none) →
    s.engine.run.timer = none → s.engine.adoption.timer = none → s.engine.ceding.turn = .none →
    exec (.beaconPeriodExpiry order) s = .next (s.after
      { s.toDevice with
        line := { s.sent .peerRoster (.presence
            { state := 2, position := s.link.position, hoistBin := (s.accounts.hoist.map fun a => a.bin).getD 0, stakes := [] }) with
          recent := (s.line.recent.map fun p => { p with age := p.age + 1 }).filter fun p => p.age < 4 },
        peers := { s.peers with silenceTimer := some (n - 1) } })) ∧
  (∀ (s : State) (order : BeaconOrder), s.power.state = .run → s.toDevice.Sound → s.NothingDueBut none →
    ∃ d, exec (.beaconPeriodExpiry order) s = .next (s.after d) ∧
      d.claims = { s.claims with
        entries := (s.claims.entries.filter fun x => !x.agesOut).map (Claim.counted (s.claims.entries.filter Claim.agesOut)) } ∧
      d.engine.table = s.engine.table.map (fun x => x.map Record.counted) ∧ d.engine.tagCounter = s.engine.tagCounter ∧
      d.engine.ceding = s.engine.ceding ∧ d.accounts = s.accounts ∧ d.link.notices = s.link.notices) ∧
  ∀ (s : State) (order : BeaconOrder) (i : Nat) (r : Record), s.power.state = .run → s.toDevice.Sound → s.NothingDueBut (some i) →
    s.recordAt i = some r →
    (r.state = .giver .placed → r.setdownOwed = true → r.lifted = .none →
      (s.line.mode = .normal → s.line.queue.length ≤ 6 →
        ∃ d q, exec (.beaconPeriodExpiry order) s = .next (s.after d) ∧
          d.recordAt i = some { r with setdownOwed := false, setdownFrame := some q } ∧
          d.queues .engine (.setdown
            { tag := r.tag, cell := r.cell, bin := r.bin, e := BitVec.ofNat 16 (accountE (s.accountAt (.slot i))) })) ∧
      (s.line.mode = .mute →
        ∃ d, exec (.beaconPeriodExpiry order) s = .next (s.after d) ∧
          d.recordAt i = some { r with setdownOwed := true, setdownFrame := none })) ∧
    (r.state = .taker .ended → r.lifted = .owed →
      (s.line.mode = .normal → s.line.queue.length ≤ 6 →
        ∃ d q, exec (.beaconPeriodExpiry order) s = .next (s.after d) ∧
          d.recordAt i = some { r with lifted := .awaited, liftedFrame := some q } ∧
          d.queues .engine (.lifted { tag := r.tag, taker := s.line.station, bin := r.bin })) ∧
      (s.line.mode = .mute →
        ∃ d, exec (.beaconPeriodExpiry order) s = .next (s.after d) ∧
          d.recordAt i = some { r with lifted := .owed, liftedFrame := none })) ∧
    ∀ w a, r.state = .giver .staking → r.request = some w → w ≠ .contesting → r.lifted = .none → s.peers.state = .active →
      s.line.mode = .normal → s.line.queue.length ≤ 6 → s.accounts.hoist = some a → a.bin = r.bin →
      (∀ x ∈ s.claims.entries, x.cell ≠ r.cell) → s.ownCount < 4 → s.claims.entries.length < 48 →
      ∃ d x, exec (.beaconPeriodExpiry order) s = .next (s.after d) ∧
        d.recordAt i = some { r with frozenKey := some a.stakeKey, request := some .contesting } ∧
        d.ownClaim r.cell = some x ∧ x.tag = r.tag ∧ x.key = a.stakeKey ∧ x.phase = .contested ∧ ownUse x = some (.slot i) ∧
        d.queues .claimMap (.stake { cell := r.cell, tag := r.tag, key := BitVec.ofNat 16 a.stakeKey })

/-- R36, R94, R37, R143: the join-listen expiry makes the station ACTIVE and leaves no record PENDING; the host-silence expiry makes an
ACTIVE station LAPSED with the counts of the lapse at 0, clears the host-returned mark in CEDING, and only stops elsewhere (in JOINING by
assumption log 32). -/
def Obligations.JoinAndSilenceExpiriesChangeTheState : Prop :=
  (∀ (s : State) (order : List Station), s.power.state = .run → s.peers.state = .joining → s.peers.joinTimer = some 1 →
    (s.engine.table.length = 16 →
      ∃ d, exec (.joinListenExpiry order) s = .next (s.after d) ∧ d.peers = { s.peers with state := .active, joinTimer := none } ∧
        d.accounts = s.accounts ∧ ∀ i r, d.recordAt i = some r → r.state ≠ .giver .pending) ∧
    ((∀ i r, s.recordAt i = some r → r.isEnded = true) →
      exec (.joinListenExpiry order) s =
        .next (s.after { s.toDevice with peers := { s.peers with state := .active, joinTimer := none } }))) ∧
  ∀ s : State, s.power.state = .run → s.peers.silenceTimer = some 1 →
    exec .hostSilenceExpiry s = .next (s.after (match s.peers.state with
      | .active =>
        { s.toDevice with
          peers := { s.peers with state := .lapsed, silenceTimer := none },
          engine := { s.engine with ceding := { s.engine.ceding with ceded := 0, stranded := 0 } } }
      | .ceding => { s.toDevice with peers := { s.peers with hostReturned := false, silenceTimer := none } }
      | _ => { s.toDevice with peers := { s.peers with silenceTimer := none } }))

/-- R43, R44, R52, R108, R125: an entry of age 3 becomes QUIET, one of age 15 LOST, each with PEER_CHANGE. The loss takes the station's
entries out of the claim map; a giver record that named it as partner and stands in OFFERING, BOUND or PLACED goes to UNBOUND, one in
PENDING or STAKING keeps its state, and a taker record in READY does; each of these is told by PARTNER_LOST with value 0. A taker record
before READY ends UPSET(PARTNER_LOST), told by its ENDED; a giver in UNBOUND and an ended record stay. A station that is nobody's partner
gets a PEER_STATE notice, its outcome free (assumption log 13). -/
def Obligations.SilentStationsBecomeQuietAndLost : Prop :=
  ∀ (s : State) (st : Station) (e : RosterEntry), s.power.state = .run → s.rosterEntry st = some e →
    let aged : Nat → LinkState → PeerRoster := fun n l =>
      { s.peers with roster := s.peers.roster.map fun x => if x.station == st then { x with age := n, link := l } else x }
    let changed : DriveLink := { s.link with flags := { s.link.flags with peerChange := true } }
    (e.age = 3 →
      exec (.rosterEntryQuiet st) s = .next (s.after { s.toDevice with peers := aged 4 .quiet, link := changed })) ∧
    (e.age = 15 → s.engine.table.length = 16 →
      ∃ d, exec (.rosterEntryLost st) s = .next (s.after d) ∧ d.peers = aged 16 .lost ∧ d.link.flags.peerChange = true ∧
        (∀ x ∈ d.claims.entries, x.own = none → x.claimant ≠ st) ∧
        (∀ i r, s.recordAt i = some r → r.partner = st →
          let tellsLost : Prop := d.tells i (r.notice i .partnerLost ⟨.upset, .partnerLost⟩ [0])
          (r.state = .giver .offering ∨ r.state = .giver .bound ∨ r.state = .giver .placed →
            tellsLost ∧
              ∃ r', d.recordAt i = some r' ∧ r'.tag = r.tag ∧ r'.state = .giver .unbound ∧ r'.placed = r.placed ∧ r'.partner = st) ∧
          (r.state = .giver .pending ∨ r.state = .taker .ready →
            tellsLost ∧ ∃ r', d.recordAt i = some r' ∧ r'.tag = r.tag ∧ r'.state = r.state ∧ r'.partner = st) ∧
          (r.state = .giver .staking →
            tellsLost ∧
              ((∀ x ∈ s.claims.entries, x.own = none → x.claimant ≠ st) →
                ∃ r', d.recordAt i = some r' ∧ r'.tag = r.tag ∧ r'.state = .giver .staking ∧ r'.partner = st ∧
                  r'.request = r.request)) ∧
          (r.state = .giver .unbound → ∃ r', d.recordAt i = some r' ∧ r'.tag = r.tag ∧ r'.state = .giver .unbound) ∧
          (r.state = .taker .invited ∨ r.state = .taker .agreed ∨ r.state = .taker .bound →
            d.tells i (r.notice i .ended ⟨.upset, .partnerLost⟩ [0, 0]) ∧
              ∃ r', d.recordAt i = some r' ∧ r'.tag = r.tag ∧ r'.state = .taker .ended ∧
                r'.outcome = some ⟨.upset, .partnerLost⟩ ∧ r'.endValue = 0))) ∧
    (e.age = 15 → (∀ i r, s.recordAt i = some r → r.partner = st → r.isEnded = true) →
      (∀ x ∈ s.claims.entries, x.own = none → x.claimant ≠ st) → s.link.notices.length < 8 →
      exec (.rosterEntryLost st) s = .next (s.after
        { s.toDevice with
          peers := aged 16 .lost,
          link := { changed with notices := s.link.notices ++
            [{ kind := .peerState, outcome := Config.plainOutcome .peerState, slot := none, tag := none, values := [16],
               station := st }] } }))

/-- R18, R52, R60, R66, R67: a pair of age 3 leaves the recent-frame list; a heard entry of age 7 leaves the claim map; a settle count of 1
expires in a grant, HELD, with the record's first OFFER queued in ACTIVE; a linger count of 1 expires in a release with UNSTAKE. -/
def Obligations.AgesSettleAndLingerRunOut : Prop :=
  ∀ s : State, s.power.state = .run →
    (∀ origin seq, exec (.recentPairExpiry origin seq) s = .next (s.after
      { s.toDevice with line := { s.line with
          recent := s.line.recent.filter fun p => decide (¬(p.origin = origin ∧ p.seq = seq ∧ p.age = 3)) } })) ∧
    (∀ (row col : Byte) (st : Station) (x : Claim), s.heardClaim ⟨row, col⟩ st = some x → x.age = 7 → s.noneStaking →
      ∃ d, exec (.claimAgeOut row col st) s = .next (s.after d) ∧ d.heardClaim ⟨row, col⟩ st = none ∧
        (∀ y ∈ s.claims.entries, y.cell ≠ ⟨row, col⟩ → y ∈ d.claims.entries) ∧
        d.line = s.line ∧ d.peers = s.peers ∧ d.accounts = s.accounts ∧ d.engine = s.engine ∧ d.link = s.link) ∧
    (∀ (row col : Byte) (x : Claim) (o : OwnStake) (i : Nat) (r : Record) (a : Account),
      s.ownClaim ⟨row, col⟩ = some x → x.own = some o → o.settle = some 1 → o.use = .slot i → s.recordAt i = some r →
      r.state = .giver .staking → r.placed = false → s.accounts.hoist = some a → a.bin = r.bin →
      let held : Claim → Claim := fun y =>
        if y.own.isSome && y.cell == ⟨row, col⟩ then
          { y with phase := .held, own := y.own.map fun o => { o with outcome := none, settle := none } }
        else y
      let new : Record := { r with state := .giver .offering, offers := 0, timer := 0, frozenKey := none, request := none }
      let granted : ClaimMap := { s.claims with entries := s.claims.entries.map held }
      (s.peers.state ≠ .active →
        exec (.settleExpiry row col) s = .next (s.after { s.toDevice with claims := granted, engine := s.tableWith i new })) ∧
      (s.peers.state = .active → s.canSend →
        exec (.settleExpiry row col) s = .next (s.after
          { s.toDevice with
            claims := granted,
            engine := s.tableWith i { new with offers := 1, addressed := true },
            line := s.sent .engine (.offer
              { tag := r.tag, bin := r.bin, cls := BitVec.ofNat 8 r.cls.code, slack := BitVec.ofNat 16 a.slack, cell := r.cell,
                taker := r.partner, placed := 0, ordinal := BitVec.ofNat 8 r.ordinal }) }))) ∧
    ∀ (row col : Byte) (x : Claim) (o : OwnStake),
      s.ownClaim ⟨row, col⟩ = some x → x.own = some o → o.linger = some 1 → s.noneStaking → s.canSend →
      exec (.lingerExpiry row col) s = .next (s.after
        { s.toDevice with
          line := s.sent .claimMap (.unstake { cell := ⟨row, col⟩, tag := x.tag }),
          claims := { s.claims with
            entries := s.claims.entries.filter fun y => !(y.own.isSome && y.cell == ⟨row, col⟩) } })

/-- R96, R115, R117, R92: the windows of a record. The second and third OFFER go out when the state timer reaches 2 and 4. At 6 a record
whose bin is on the cell is UNBOUND with a PARTNER_LOST notice, any other ends FAILED(PARTNER_MISSING). An invitation unanswered at 4
declines with NO_ANSWER and ends; an AGREED record without a BIND at 4 ends FAILED(PARTNER_MISSING). The timer keeps the value it expired at
(assumption log 27). A giver record that ends lets its stake linger when nobody waits for it (R62), without a conflict rival (the model's
choice, assumption log 34), and the record of a run's ACTIVE entry ends the run with its outcome, the entry FAILED and the next ordinal kept
(R132). -/
def Obligations.RecordWindowsRunOut : Prop :=
  ∀ (s : State) (i : Nat) (r : Record), s.power.state = .run → s.recordAt i = some r →
    (∀ a, r.state = .giver .offering → (r.timer = 1 ∧ r.offers = 1) ∨ (r.timer = 3 ∧ r.offers = 2) → s.canSend →
      (if r.placed then s.accountAt (.slot i) else s.accounts.hoist) = some a → a.bin = r.bin →
      exec (.offerRepeat i) s = .next (s.after
        { s.toDevice with
          engine := s.tableWith i { r with timer := r.timer + 1, offers := r.offers + 1, addressed := true },
          line := s.sent .engine (.offer
            { tag := r.tag, bin := r.bin, cls := BitVec.ofNat 8 r.cls.code, slack := BitVec.ofNat 16 a.slack, cell := r.cell,
              taker := r.partner, placed := if r.placed then 1 else 0, ordinal := BitVec.ofNat 8 r.ordinal }) })) ∧
    (r.state = .giver .offering → r.timer = 5 → r.offers = 3 → r.placed = true → s.canNotify →
      exec (.offerWindowExpiry i) s = .next (s.after
        { s.toDevice with
          engine := s.tableWith i
            { r with timer := 6, state := .giver .unbound, setdownOwed := false, bindFrame := none, setdownFrame := none },
          link := s.notified (r.notice i .partnerLost ⟨.upset, .partnerMissing⟩ [0]) })) ∧
    (r.state = .giver .offering → r.timer = 5 → r.offers = 3 → r.placed = false → r.ordinal = 0 → s.canNotify →
      ∃ d r', exec (.offerWindowExpiry i) s = .next (s.after d) ∧ d.recordAt i = some r' ∧ r'.tag = r.tag ∧
        r'.state = .giver .ended ∧ r'.outcome = some ⟨.failed, .partnerMissing⟩ ∧
        r'.endValue = accountE s.accounts.hoist ∧ d.accounts = s.accounts ∧ d.peers = s.peers ∧
        d.link = s.notified (r.notice i .ended ⟨.failed, .partnerMissing⟩ (bytesOfNat16 (accountE s.accounts.hoist)))) ∧
    (r.state = .giver .offering → r.timer = 5 → r.offers = 3 → r.placed = false →
      ∃ d r', exec (.offerWindowExpiry i) s = .next (s.after d) ∧ d.recordAt i = some r' ∧ r'.tag = r.tag ∧
        r'.state = .giver .ended ∧ r'.outcome = some ⟨.failed, .partnerMissing⟩ ∧ r'.endValue = accountE s.accounts.hoist ∧
        d.tells i (r.notice i .ended ⟨.failed, .partnerMissing⟩ (bytesOfNat16 (accountE s.accounts.hoist))) ∧
        d.accounts = s.accounts ∧ d.peers = s.peers ∧
        let ours : Prop := r.ordinal ≠ 0 ∧ (s.engine.run.state = .inEntry ∨ s.engine.run.state = .ending)
        (ours → d.RunEnded { s.engine.run with entries := s.engine.run.entriesWith r.ordinal .failed } ⟨.failed, .partnerMissing⟩) ∧
        (¬ours → d.engine.run = { s.engine.run with mark := d.engine.run.mark }) ∧
        (¬ours ∨ s.claimOfUse .runHold = none → ∀ x, s.claimOfUse (.slot i) = some x → x.phase ≠ .contested →
          (∀ j q, s.recordAt j = some q → ¬q.WaitsFor x.cell) → d.claims.entries = s.lingering x.cell ∧ d.line = s.line)) ∧
    (r.state = .taker .invited → r.timer = 3 → s.canSend → s.canNotify →
      exec (.answerWindowExpiry i) s = .next (s.after
        { s.toDevice with
          engine := s.leftWith i
            { r with
              timer := 4, state := .taker .ended, outcome := some ⟨.refused, .noAnswer⟩, endValue := 0, endCollected := false,
              agreeFrame := none },
          line := s.sent .engine (.decline { tag := r.tag, taker := s.line.station, reason := 2 }),
          link := s.notified (r.notice i .ended ⟨.refused, .noAnswer⟩ [0, 0]) })) ∧
    (r.state = .taker .agreed → r.agreeFrame = none → r.timer = 3 → s.canNotify →
      exec (.agreedTimerExpiry i) s = .next (s.after
        { s.toDevice with
          engine := s.leftWith i
            { r with
              timer := 4, state := .taker .ended, outcome := some ⟨.failed, .partnerMissing⟩, endValue := 0,
              endCollected := false },
          link := s.notified (r.notice i .ended ⟨.failed, .partnerMissing⟩ [0, 0]) }))

/-- R130, R136, R140, R144, R145: the service window ends a run FAILED(OVERRUN), and a run hold lingers, without a conflict rival (the model's
choice, assumption log 34); the adoption timer ends an adoption, FAILED(NOTHING_CEDED)
when no record arrived; an open turn offers a PLACED record again while fewer than three CEDEs went out, and closes unanswered after that,
and when its record is not cedable or stopped being so in its turn, whatever it has become since; the record is stranded. After the last
turn the station is LAPSED again. -/
def Obligations.RunAdoptionAndTurnRunOut : Prop :=
  ∀ s : State, s.power.state = .run →
    (s.engine.run.timer = some 11 → s.engine.run.state = .awaitingNext → s.noneStaking → s.canNotify →
      let run := s.runOver ⟨.failed, .overrun⟩
      exec .serviceWindowExpiry s = .next (s.after
        { s.toDevice with
          engine := { s.engine with run := run },
          claims := { s.claims with entries := s.holdLingers },
          link := s.notified
            { kind := .runEnded, outcome := ⟨.failed, .overrun⟩, slot := none, tag := none, values := run.endValues, station := 0 } })) ∧
    (s.engine.adoption.timer = some 1 → s.link.notices.length < 8 →
      exec .adoptionTimerExpiry s = .next (s.after
        { s.toDevice with
          engine := { s.engine with adoption := { s.engine.adoption with phase := .none, timer := none, frame := none } },
          link := s.notified
            { kind := .adoptionEnded,
              outcome := if s.engine.adoption.arrived = [] then ⟨.failed, .nothingCeded⟩ else ⟨.done, .ok⟩,
              slot := none, tag := none, values := [BitVec.ofNat 8 s.engine.adoption.arrived.length],
              station := s.engine.adoption.target } })) ∧
    ∀ (t : Tag) (i : Nat) (r : Record), s.engine.ceding.turn = .tag t → s.slotOf t = some i → s.recordAt i = some r →
      let closes : Prop := 3 ≤ s.engine.ceding.attempts ∨ s.engine.ceding.broken = true ∨ r.cedable = false
      (∀ adopter a, s.engine.ceding.attempts < 3 → s.engine.ceding.broken = false → s.canSend → s.engine.ceding.adopter = some adopter →
        r.state = .giver .placed → s.accountAt (.slot i) = some a →
        exec .cedeRetry s = .next (s.after
          { s.toDevice with
            engine := { s.engine with ceding := { s.engine.ceding with attempts := s.engine.ceding.attempts + 1 } },
            line := s.sent .engine (.cede
              { adopter := adopter, flags := if tagsAfter t s.engine.ceding.tags = [] then 3 else 2,
                part := some
                  { tag := r.tag, role := 1, partner := r.partner, bin := r.bin, cls := BitVec.ofNat 8 r.cls.code,
                    e := BitVec.ofNat 16 a.e, cell := r.cell, state := 1, location := 2 } }) })) ∧
      (closes → r.isEnded = false → tagsAfter t s.engine.ceding.tags = [] → s.peers.hostReturned = false →
        exec .turnCloseUnanswered s = .next (s.after
          { s.toDevice with
            peers := { s.peers with state := .lapsed },
            engine := { s.engine with ceding := { s.engine.ceding with
              adopter := none, tags := [], turn := .none, attempts := 0, broken := false,
              stranded := s.engine.ceding.stranded + 1, frame := none } } })) ∧
      (∀ t' rest j r', closes → r.isEnded = false → tagsAfter t s.engine.ceding.tags = t' :: rest →
        s.peers.hostReturned = false → s.slotOf t' = some j → s.recordAt j = some r' → r'.state = .taker .ready → s.canSend →
        ∃ d, exec .turnCloseUnanswered s = .next (s.after d) ∧ d.engine.ceding.turn = .tag t' ∧ d.engine.ceding.attempts = 1 ∧ d.engine.ceding.broken = false ∧
          d.engine.ceding.stranded = s.engine.ceding.stranded + 1 ∧ d.peers = s.peers ∧
          ∃ b ∈ d.line.queue, ∃ c p, b.frame.body = .cede c ∧ c.part = some p ∧ p.tag = r'.tag ∧ p.role = 2 ∧ p.state = 5 ∧
            p.location = 3)

/-- R159, R92, R137: owed notices join the queue, behind those in it, until nothing is owed or it is full: by slot, each record's in the order
of its set, and RUN_ENDED after slot 15, its mark then QUEUED. A record that is ENDED with its end notice collected goes with its last notice.
Nothing else of the part changes. Out of RUN nothing moves. -/
def Obligations.OwedNoticesMoveIntoTheQueue : Prop :=
  (∀ s : State, s.power.state ≠ .run → exec .owedNoticeMove s = .next s) ∧
  ∀ s : State, s.power.state = .run →
    exec .owedNoticeMove s = .next (s.after s.moved) ∧
    (s.moved.owes = false ∨ 8 ≤ s.moved.link.notices.length) ∧
    (∀ i r n rest, s.link.notices.length = 7 → s.recordAt i = some r → r.notices = n :: rest → r.endCollected = false →
      (∀ j r', j < i → s.recordAt j = some r' → r'.notices = []) →
      exec .owedNoticeMove s = .next (s.after
        { s.toDevice with
          engine := s.tableWith i { r with notices := rest },
          link := s.notified
            { kind := n.kind, outcome := n.outcome, slot := some i, tag := some r.tag, values := n.values, station := n.station } })) ∧
    ∀ o, s.link.notices.length < 8 → (∀ i r, s.recordAt i = some r → r.notices = []) → s.engine.run.mark = .owed →
      s.engine.run.outcome = some o →
      exec .owedNoticeMove s = .next (s.after
        { s.toDevice with
          engine := { s.engine with run := { s.engine.run with mark := .queued } },
          link := s.notified
            { kind := .runEnded, outcome := o, slot := none, tag := none, values := s.engine.run.endValues, station := 0 } })

/-! ## The grid line (01, 02) -/

/-- R9, R10: carrier returns a countdown to QUIET_WAIT with its count kept; a quiet gap draws the first deferral of an attempt from the
generator, or resumes the count; a slot counts it down; at 0 the head is on the wire (the carrier flag then: assumption log 39). -/
def Obligations.MediumAccessCountsDownToSend : Prop :=
  ∀ s : State, s.power.state = .run → s.peers.state ≠ .unconfigured →
    let go : LinePort → Nat → LinePort := fun l n =>
      if n = 0 then { l with tx := .send, remaining := none, carrier := true }
      else { l with tx := .defer, remaining := some n, carrier := false }
    exec .lineBusy s = .next (s.after { s.toDevice with line := { s.line with
      carrier := true, tx := if s.line.tx = .defer then .quietWait else s.line.tx } }) ∧
    (s.line.tx = .quietWait →
      (s.line.remaining = none →
        let g := (s.line.generator * 25173 + 13849) % 65536
        exec .quietGapComplete s = .next (s.after
          { s.toDevice with line := go { s.line with generator := g } (g * s.line.window / 65536) })) ∧
      ∀ n, s.line.remaining = some n →
        exec .quietGapComplete s = .next (s.after { s.toDevice with line := go s.line n })) ∧
    ∀ n, s.line.tx = .defer → s.line.remaining = some n →
      exec .lineSlot s = .next (s.after { s.toDevice with line := go s.line (n - 1) }) ∧
      (n = 1 → exec .deferralEnd s = .next (s.after { s.toDevice with line := go s.line 0 }))

/-- R11, R14, R60, R99, R101, R117, R121, R140, R144: a clean send returns W to 8 and takes the head off the queue, the carrier flag then quiet
(assumption log 39); the block of an own frame hears SENT. A relayed frame is reported to nobody, and six kinds are absorbed; a STAKE starts its settle count; an AGREE
starts its record's timer; a BIND and a SETDOWN are awaited no more; an ADOPT starts the adoption timer; the empty CEDE ends the ceding; a
LIFTED lets the end notice out. -/
def Obligations.CleanSendEndsTheHead : Prop :=
  ∀ (s : State) (x : TxEntry) (rest : List TxEntry), s.power.state = .run → s.peers.state ≠ .unconfigured →
    s.line.tx = .send → s.line.queue = x :: rest →
    let line : LinePort := { s.line with
      queue := rest, tx := if rest = [] then .idle else .quietWait, remaining := none, window := 8, carrier := false }
    (x.Absorbed ∨ (∃ b, x.frame.body = .cede b ∧ s.engine.ceding.frame ≠ some x.frame.seq) →
      exec .cleanSend s = .next (s.after { s.toDevice with line := line })) ∧
    (∀ b y, x.sender ≠ .relay → x.frame.body = .stake b → s.stakeAwaiting x.frame.seq = some y →
      let sent : Claim → Claim := fun z =>
        if z.own.isSome && z.cell == y.cell then
          { z with own := z.own.map fun o => { o with outcome := some .sent, settle := some 2 } }
        else z
      exec .cleanSend s = .next (s.after
        { s.toDevice with line := line, claims := { s.claims with entries := s.claims.entries.map sent } })) ∧
    (∀ b i r, x.sender ≠ .relay → x.frame.body = .agree b → s.slotOf b.tag = some i → s.recordAt i = some r →
      r.state = .taker .agreed → r.agreeFrame = some x.frame.seq →
      exec .cleanSend s = .next (s.after
        { s.toDevice with line := line, engine := s.tableWith i { r with timer := 0, agreeFrame := none } })) ∧
    (∀ b i r, x.sender ≠ .relay → x.frame.body = .bind b → s.slotOf b.tag = some i → s.recordAt i = some r →
      r.bindFrame = some x.frame.seq →
      exec .cleanSend s = .next (s.after { s.toDevice with line := line, engine := s.tableWith i { r with bindFrame := none } })) ∧
    (∀ b i r, x.sender ≠ .relay → x.frame.body = .setdown b → s.slotOf b.tag = some i → s.recordAt i = some r →
      r.setdownFrame = some x.frame.seq →
      exec .cleanSend s = .next (s.after
        { s.toDevice with line := line, engine := s.tableWith i { r with setdownFrame := none } })) ∧
    (∀ b, x.sender ≠ .relay → x.frame.body = .adopt b → s.engine.adoption.frame = some x.frame.seq →
      s.engine.adoption.phase = .sending →
      exec .cleanSend s = .next (s.after
        { s.toDevice with
          line := line,
          engine := { s.engine with adoption := { s.engine.adoption with phase := .listening, timer := some 8, frame := none } } })) ∧
    (∀ b, x.sender ≠ .relay → x.frame.body = .cede b → s.engine.ceding.frame = some x.frame.seq →
      s.engine.ceding.turn = .emptyCede → s.peers.hostReturned = false →
      exec .cleanSend s = .next (s.after
        { s.toDevice with
          line := line,
          peers := { s.peers with state := .lapsed },
          engine := { s.engine with ceding := { s.engine.ceding with
            adopter := none, tags := [], turn := .none, attempts := 0, broken := false, frame := none } } })) ∧
    ∀ b i r o, x.sender ≠ .relay → x.frame.body = .lifted b → s.slotOf b.tag = some i → s.recordAt i = some r →
      r.lifted = .awaited → r.liftedFrame = some x.frame.seq → r.outcome = some o → r.endCollected = false → s.canNotify →
      exec .cleanSend s = .next (s.after
        { s.toDevice with
          line := line, engine := s.tableWith i { r with lifted := .sent, liftedFrame := none },
          link := s.notified (r.notice i .ended o (bytesOfNat16 r.endValue)) })

/-- R12, R14, R60, R99, R101, R117, R121, R140, R144: a collision doubles W up to 64 and begins a new attempt at the same frame; the sixth
takes the frame off the queue, DROPPED(LINE_CONGESTED), which its block hears. A relayed frame is reported to nobody, and six kinds are
absorbed, as a CEDE with a record is. The record of an AGREE ends; a STAKE's own entry goes while its request waits; the record of a BIND is
UNBOUND, told with value 5, and its taker is told with CANCEL(LINE_CONGESTED); a SETDOWN and a LIFTED are owed; an ADOPT ends the adoption;
the empty CEDE ends the ceding as it does when it is SENT. -/
def Obligations.CollisionDoublesTheWindow : Prop :=
  ∀ (s : State) (x : TxEntry) (rest : List TxEntry), s.power.state = .run → s.peers.state ≠ .unconfigured →
    s.line.tx = .send → s.line.queue = x :: rest →
    let gone : LinePort := { s.line with
      queue := rest, tx := if rest = [] then .idle else .quietWait, remaining := none, window := min 64 (2 * s.line.window) }
    (x.collisions < 5 →
      exec .collision s = .next (s.after { s.toDevice with line := { s.line with
        queue := { x with collisions := x.collisions + 1 } :: rest, tx := .quietWait, remaining := none,
        window := min 64 (2 * s.line.window) } })) ∧
    (x.collisions = 5 → x.Absorbed ∨ (∃ b, x.frame.body = .cede b ∧ s.engine.ceding.frame ≠ some x.frame.seq) →
      exec .collision s = .next (s.after { s.toDevice with line := gone })) ∧
    (∀ b i r, x.collisions = 5 → x.sender ≠ .relay → x.frame.body = .agree b → s.slotOf b.tag = some i → s.recordAt i = some r →
      r.state = .taker .agreed → r.agreeFrame = some x.frame.seq → s.canNotify →
      exec .collision s = .next (s.after
        { s.toDevice with
          line := gone,
          engine := s.leftWith i
            { r with
              state := .taker .ended, outcome := some ⟨.failed, .lineCongested⟩, endValue := 0, endCollected := false,
              agreeFrame := none },
          link := s.notified (r.notice i .ended ⟨.failed, .lineCongested⟩ [0, 0]) })) ∧
    (∀ b y i r, x.collisions = 5 → x.sender ≠ .relay → x.frame.body = .stake b → s.stakeAwaiting x.frame.seq = some y →
      ownUse y = some (.slot i) → s.recordAt i = some r →
      exec .collision s = .next (s.after
        { s.toDevice with
          line := gone,
          claims := { s.claims with entries := s.unstaked y.cell },
          engine := s.tableWith i { r with frozenKey := none, request := some .afterDrop } })) ∧
    (∀ b i r, x.collisions = 5 → x.sender ≠ .relay → x.frame.body = .bind b → s.slotOf b.tag = some i → s.recordAt i = some r →
      r.bindFrame = some x.frame.seq → r.state = .giver .bound ∨ r.state = .giver .placed → s.line.mode = .normal →
      rest.length < 8 → s.canNotify →
      exec .collision s = .next (s.after
        { s.toDevice with
          line := (gone.joinTail .engine (.cancel { tag := r.tag, reason := 3 })).1,
          engine := s.tableWith i
            { r with state := .giver .unbound, setdownOwed := false, bindFrame := none, setdownFrame := none },
          link := s.notified (r.notice i .partnerLost ⟨.upset, .partnerLost⟩ [5]) })) ∧
    (∀ b i r, x.collisions = 5 → x.sender ≠ .relay → x.frame.body = .setdown b → s.slotOf b.tag = some i → s.recordAt i = some r →
      r.setdownFrame = some x.frame.seq → r.state = .giver .placed →
      exec .collision s = .next (s.after
        { s.toDevice with line := gone, engine := s.tableWith i { r with setdownOwed := true, setdownFrame := none } })) ∧
    (∀ b i r, x.collisions = 5 → x.sender ≠ .relay → x.frame.body = .lifted b → s.slotOf b.tag = some i → s.recordAt i = some r →
      r.lifted = .awaited → r.liftedFrame = some x.frame.seq →
      exec .collision s = .next (s.after
        { s.toDevice with line := gone, engine := s.tableWith i { r with lifted := .owed, liftedFrame := none } })) ∧
    (∀ b, x.collisions = 5 → x.sender ≠ .relay → x.frame.body = .adopt b → s.engine.adoption.frame = some x.frame.seq →
      s.engine.adoption.phase = .sending → s.link.notices.length < 8 →
      exec .collision s = .next (s.after
        { s.toDevice with
          line := gone,
          engine := { s.engine with adoption := { s.engine.adoption with phase := .none, timer := none, frame := none } },
          link := s.notified
            { kind := .adoptionEnded, outcome := ⟨.failed, .lineCongested⟩, slot := none, tag := none,
              values := [BitVec.ofNat 8 s.engine.adoption.arrived.length], station := s.engine.adoption.target } })) ∧
    ∀ b, x.collisions = 5 → x.sender ≠ .relay → x.frame.body = .cede b → s.engine.ceding.frame = some x.frame.seq →
      s.engine.ceding.turn = .emptyCede → s.peers.hostReturned = false →
      exec .collision s = .next (s.after
        { s.toDevice with
          line := gone,
          peers := { s.peers with state := .lapsed },
          engine := { s.engine with ceding := { s.engine.ceding with
            adopter := none, tags := [], turn := .none, attempts := 0, broken := false, frame := none } } })

/-- R16, with R17 for step 5: a frame whose check agrees is discarded, leaving the recent-frame list and every block as they were, when its
section is not the station's, when its kind, hop or origin is out of range, or when it is the echo of the own number with hop 1. With the
own number and hop 0 it reaches step 5, a number clash. -/
def Obligations.EnvelopeChecksDiscardSilently : Prop :=
  ∀ (s : State) (bytes : List Byte) (order : List FrameStep) (hoistFirst : Bool) (k hs o sq len : Byte) (rest : List Byte),
    s.power.state = .run → s.peers.state ≠ .unconfigured → s.line.tx ≠ .send →
    bytes = k :: hs :: o :: sq :: len :: rest → len.toNat ≤ 36 → rest.length = len.toNat + 2 →
    rest.drop len.toNat = bytes16 (crc16 (k :: hs :: o :: sq :: len :: rest.take len.toNat)) →
    let sect := hs.toNat % 16
    let hop := hs.toNat / 16
    (sect ≠ s.line.sect.toNat % 16 ∨ k.toNat = 0 ∨ 13 < k.toNat ∨ 1 < hop ∨ o.toNat = 0 ∨ 31 < o.toNat ∨
        (o = s.line.station ∧ hop = 1) →
      exec (.frameReceived bytes order hoistFirst) s = .next s) ∧
    (sect = s.line.sect.toNat % 16 → 1 ≤ k.toNat → k.toNat ≤ 13 → o = s.line.station → 1 ≤ o.toNat → o.toNat ≤ 31 → hop = 0 →
      ∃ d, exec (.frameReceived bytes order hoistFirst) s = .next (s.after d) ∧ d.link.flags.clash = true ∧
        d.line.forcedMute = true ∧ d.line.mode = .mute ∧ d.line.recent = s.line.recent ∧
        (s.line.mode = .normal → d.line.queue = [] ∧ d.line.tx = .off))

/-- R15, R18, R19, R29, R42: a frame whose check fails, one received while the own transmitter sends, and a repeat of a recent pair do
nothing. A frame of another station that passes enters the recent-frame list, the oldest pair going when it is full, and is a hearing of its
origin, whatever its body does and in whatever order. With the relay setting on, a hop-0 frame is copied with hop 1: an ADOPT of another
target, and, at an ACTIVE station without records, own stakes, adoption or open turn, which sends nothing of its own, a frame of every kind,
while fewer than 6 frames are queued, a PRESENCE while none is; nothing else joins the queue (R8). A frame whose body is not valid only
enters the recent-frame list (R22). -/
def Obligations.AcceptedFramesAreHeard : Prop :=
  ∀ (s : State) (bytes : List Byte) (order : List FrameStep) (hoistFirst : Bool), s.power.state = .run → s.peers.state ≠ .unconfigured →
    (s.line.tx = .send ∨ checkFrame bytes = none → exec (.frameReceived bytes order hoistFirst) s = .next s) ∧
    (∀ f : Frame, bytes = wireBytes f → s.line.tx ≠ .send → f.sect = s.line.sect.extractLsb' 0 4 → f.origin ≠ s.line.station →
      stationInRange f.origin = true → bodyValid f.origin f.body = true →
      ((∃ p ∈ s.line.recent, p.origin = f.origin ∧ p.seq = f.seq) →
        exec (.frameReceived bytes order hoistFirst) s = .next s) ∧
      ((∀ p ∈ s.line.recent, ¬(p.origin = f.origin ∧ p.seq = f.seq)) →
        ∃ d, exec (.frameReceived bytes order hoistFirst) s = .next (s.after d) ∧
          d.line.recent = (if s.line.recent.length < 32 then s.line.recent else s.line.recent.tail) ++
            [{ origin := f.origin, seq := f.seq, age := 0 }] ∧
          (∃ e ∈ d.peers.roster, e.station = f.origin ∧ e.age = 0 ∧ e.link = .heard) ∧
          (∀ t, f.body = .adopt { target := t } → t ≠ s.line.station → s.line.relay = true → s.line.mode = .normal →
            f.relayed = false → s.line.queue.length < 6 → s.peers.roster.length < 24 →
            ∃ x ∈ d.line.queue, x.sender = .relay ∧ x.frame = { f with relayed := true }) ∧
          (s.peers.state = .active → s.line.mode = .normal → s.peers.roster.length < 24 → s.engine.table.length = 16 →
            (∀ i, s.recordAt i = none) → (∀ x ∈ s.claims.entries, x.own = none) → s.engine.adoption.phase = .none →
            s.engine.ceding.turn = .none →
            d.line.queue =
              if s.line.relay = true ∧ f.relayed = false ∧ s.line.queue.length < 6 ∧
                  (bodyIsPresence f.body = true → ∀ x ∈ s.line.queue, bodyIsPresence x.frame.body = false) then
                s.line.queue ++ [{ frame := { f with relayed := true }, sender := .relay, collisions := 0 }]
              else s.line.queue))) ∧
    ∀ r : RawFrame, checkFrame bytes = some r → s.line.tx ≠ .send → rawSect r = s.line.sect.extractLsb' 0 4 →
      envelopeInRange r = true → r.origin ≠ s.line.station →
      (∀ p ∈ s.line.recent, ¬(p.origin = r.origin ∧ p.seq = r.seq)) →
      (∀ b, parseBody r.kind r.body = some b → bodyValid r.origin b = false) →
      exec (.frameReceived bytes order hoistFirst) s = .next (s.after
        { s.toDevice with line := { s.line with
            recent := (if s.line.recent.length < 32 then s.line.recent else s.line.recent.tail) ++
              [{ origin := r.origin, seq := r.seq, age := 0 }] } })

/-! ## Frames heard (03, 04, 06, 07, 09) -/

/-- R42, R45: a PRESENCE is a hearing of its origin, whose entry takes the announced state, position and hoist bin. A new entry sets
PEER_CHANGE; so does LAPSED newly announced, with a PEER_STATE notice when the origin is nobody's partner, its outcome free (assumption log
13), and with a PARTNER_LAPSED notice of each record that is not ENDED and has it as partner, the record's state kept, and no PEER_STATE (the
pending-notice sets hold record notices alone: R92, kept by every step, as the statement on sound states says); so does LAPSED replaced,
with no notice. -/
def Obligations.PresenceUpdatesTheRoster : Prop :=
  ∀ (s : State) (o : Station) (b : PresenceBody) (h : Bool), s.hears o (.presence b) → b.stakes = [] → s.peers.state ≠ .joining →
    (∀ x ∈ s.claims.entries, x.own = none → x.claimant ≠ o) →
    let announced : Option StationState := some (match b.state.toNat with
      | 1 => .joining
      | 2 => .active
      | 3 => .lapsed
      | _ => .ceding)
    let changed : DriveLink := { s.link with flags := { s.link.flags with peerChange := true } }
    let known : PeerRoster := { s.peers with roster := s.peers.roster.map fun x =>
      if x.station == o then
        { x with announced := announced, position := some b.position, hoistBin := some b.hoistBin, age := 0, link := .heard }
      else x }
    let new : RosterEntry :=
      { station := o, announced := announced, position := some b.position, hoistBin := some b.hoistBin, age := 0, link := .heard }
    (s.rosterEntry o = none → s.peers.roster.length < 24 → b.state ≠ 3 →
      exec (.presenceHeard o b h) s = .next (s.after
        { s.toDevice with peers := { s.peers with roster := insertEntry new s.peers.roster }, link := changed })) ∧
    (s.rosterEntry o = none → s.peers.roster.length < 24 → b.state = 3 →
      (∀ i r, s.recordAt i = some r → r.partner = o → r.isEnded = true) → s.link.notices.length < 8 →
      exec (.presenceHeard o b h) s = .next (s.after
        { s.toDevice with
          peers := { s.peers with roster := insertEntry new s.peers.roster },
          link := { changed with notices := s.link.notices ++
            [{ kind := .peerState, outcome := Config.plainOutcome .peerState, slot := none, tag := none, values := [3],
               station := o }] } })) ∧
    (∀ e, s.rosterEntry o = some e → e.announced = some .lapsed →
      exec (.presenceHeard o b h) s = .next (s.after
        { s.toDevice with peers := known, link := if b.state = 3 then s.link else changed })) ∧
    ∀ e, s.rosterEntry o = some e → e.announced ≠ some .lapsed →
      (b.state = 3 → s.engine.table.length = 16 → (∃ i r, s.recordAt i = some r ∧ r.partner = o ∧ r.isEnded = false) →
        ∃ d, exec (.presenceHeard o b h) s = .next (s.after d) ∧ d.peers = known ∧ d.link.flags.peerChange = true ∧
          (∀ i r, s.recordAt i = some r → r.partner = o → r.isEnded = false →
            d.tells i (r.notice i .partnerLapsed ⟨.done, .ok⟩ []) ∧ ∃ r', d.recordAt i = some r' ∧ r'.tag = r.tag ∧ r'.state = r.state) ∧
          ((∀ j q, s.recordAt j = some q → ∀ p ∈ q.notices, IsRecordNotice p.kind) →
            ∀ n ∈ d.link.notices, n.kind = .peerState → n ∈ s.link.notices) ∧
          d.line = s.line ∧ d.claims = s.claims ∧ d.accounts = s.accounts) ∧
      (b.state ≠ 3 → exec (.presenceHeard o b h) s = .next (s.after { s.toDevice with peers := known })) ∧
      (b.state = 3 → (∀ i r, s.recordAt i = some r → r.partner = o → r.isEnded = true) → s.link.notices.length < 8 →
        exec (.presenceHeard o b h) s = .next (s.after
          { s.toDevice with
            peers := known,
            link := { changed with notices := s.link.notices ++
              [{ kind := .peerState, outcome := Config.plainOutcome .peerState, slot := none, tag := none, values := [3],
                 station := o }] } }))

/-- R53, R59, R63, R64, R65, R168: a PRESENCE rewrites its origin's heard entries to its stake list. A listed stake makes an own CONTESTED
stake yield when it is better, or HELD or PLACED; an own HELD stake yields to a PLACED one, and to a HELD one of a lower station number;
the yield queues an UNSTAKE. Any other own stake is kept, and two PLACED ones are in conflict. In JOINING a hoist bin that is the bin of a
record standing on its cell ends that record DONE (assumption log 28; the detail OK of its outcome: 47). -/
def Obligations.PresenceStakesAreJudged : Prop :=
  ∀ (s : State) (o : Station) (b : PresenceBody) (h : Bool), s.hears o (.presence b) → s.peers.roster.length < 24 →
    (s.noneStaking → (∀ x ∈ s.claims.entries, x.own = none) → s.claims.entries.length + b.stakes.length ≤ 48 →
      ∃ d, exec (.presenceHeard o b h) s = .next (s.after d) ∧
        (∀ i ∈ b.stakes, ∃ x ∈ d.claims.entries, x.own = none ∧ x.cell = i.cell ∧ x.claimant = o ∧ x.tag = i.tag ∧
          x.key = i.key.toNat ∧ phaseCode x.phase = i.phase ∧ x.age = 0) ∧
        (∀ x ∈ d.claims.entries, x.claimant = o → ∃ i ∈ b.stakes, i.cell = x.cell) ∧
        ∀ x ∈ s.claims.entries, x.claimant ≠ o → x ∈ d.claims.entries) ∧
    (∀ (i : StakeItem) (x : Claim) (n : OwnStake), b.stakes = [i] → s.peers.state ≠ .joining → s.noneInOwnUse →
      (∀ y ∈ s.claims.entries, y.own = none → y.claimant ≠ o) → s.claims.entries.length < 48 →
      s.ownClaim i.cell = some x → x.own = some n →
      let yields : Prop := match x.phase with
        | .contested => i.phase ≠ 1 ∨ Outranks i.key.toNat o x
        | .held => i.phase = 3 ∨ (i.phase = 2 ∧ o.toNat < s.line.station.toNat)
        | .placed => False
      ∃ d, exec (.presenceHeard o b h) s = .next (s.after d) ∧
        (yields → d.ownClaim i.cell = none ∧
          (s.canSend → d.queues .claimMap (.unstake { cell := i.cell, tag := x.tag }))) ∧
        (¬yields → ∃ y, d.ownClaim i.cell = some y ∧ y.tag = x.tag ∧ y.key = x.key ∧ y.phase = x.phase ∧ ownUse y = some n.use ∧
          (x.phase = .placed → i.phase = 3 → (y.own.map fun n => n.rival) = some (some o)))) ∧
    ∀ i r, s.peers.state = .joining → b.stakes = [] → b.hoistBin ≠ 0 → s.engine.table.length = 16 → s.recordAt i = some r →
      r.placed = true → (r.state = .giver .placed ∨ r.state = .giver .unbound ∨ r.state = .giver .offering) → r.bin = b.hoistBin →
      ∃ d r', exec (.presenceHeard o b h) s = .next (s.after d) ∧ d.recordAt i = some r' ∧ r'.tag = r.tag ∧
        r'.state = .giver .ended ∧ r'.outcome = some ⟨.done, .ok⟩ ∧ r'.endValue = accountE (s.accountAt (.slot i)) ∧
        d.accountAt (.slot i) = none

/-- R51, R59, R61, R72 to R74: a STAKE heard writes its entry, CONTESTED with age 0; a watch that admits it queues a WATCH_HIT, its outcome
free (assumption log 13). It makes a worse own CONTESTED stake yield, its request OUTRANKED, and leaves any other own stake as it is. An
UNSTAKE heard removes the entry, whatever its tag. -/
def Obligations.StakesAndUnstakesAreHeard : Prop :=
  ∀ (s : State) (o : Station),
    (∀ b : StakeBody, s.hears o (.stake b) → s.claims.entries.length < 48 →
      let heard : Claim :=
        { cell := b.cell, claimant := o, tag := b.tag, key := b.key.toNat, phase := .contested, age := 0, own := none }
      let written : ClaimMap := { s.claims with entries := insertClaim heard s.claims.entries }
      ((∀ y ∈ s.claims.entries, y.own ≠ none → y.cell ≠ b.cell) →
        ((∀ w, some w ∈ s.claims.watches → ¬w.Admits b.cell o) →
          exec (.stakeHeard o b) s = .next (s.after { s.toDevice with claims := written })) ∧
        ∀ k w, s.claims.watches[k]? = some (some w) → w.Admits b.cell o →
          (∀ j w', s.claims.watches[j]? = some (some w') → j ≠ k → ¬w'.Admits b.cell o) → s.link.notices.length < 8 →
          exec (.stakeHeard o b) s = .next (s.after
            { s.toDevice with
              claims := written,
              link := { s.link with
                flags := { s.link.flags with watchHit := true },
                notices := s.link.notices ++
                  [{ kind := .watchHit, outcome := Config.plainOutcome .watchHit, slot := none, tag := none,
                     values := [BitVec.ofNat 8 k, b.cell.row, b.cell.col], station := o }] } })) ∧
      ∀ x n, s.ownClaim b.cell = some x → x.own = some n → s.noneInOwnUse →
        ∃ d, exec (.stakeHeard o b) s = .next (s.after d) ∧ heard ∈ d.claims.entries ∧
          (x.phase = .contested ∧ Outranks b.key.toNat o x →
            d.ownClaim b.cell = none ∧ (s.canSend → d.queues .claimMap (.unstake { cell := b.cell, tag := x.tag })) ∧
            ∀ i r, n.use = .slot i → s.recordAt i = some r →
              d.recordAt i = some { r with frozenKey := none, request := some .outranked }) ∧
          (¬(x.phase = .contested ∧ Outranks b.key.toNat o x) →
            d.line = s.line ∧ d.engine = s.engine ∧
              ∃ y, d.ownClaim b.cell = some y ∧ y.tag = x.tag ∧ y.key = x.key ∧ y.phase = x.phase ∧ ownUse y = some n.use)) ∧
    ∀ b : UnstakeBody, s.hears o (.unstake b) → s.noneStaking → (∀ y ∈ s.claims.entries, y.own ≠ none → y.cell ≠ b.cell) →
      (∀ w, some w ∈ s.claims.watches → ¬w.Admits b.cell o) →
      exec (.unstakeHeard o b) s = .next (s.after { s.toDevice with claims := { s.claims with
        entries := s.claims.entries.filter fun y => decide (¬(y.own = none ∧ y.cell = b.cell ∧ y.claimant = o)) } })

/-- R114, with R30 and R113: an OFFER that repeats one this station holds is ignored, but that a BOUND record takes the placed flag, in
MUTE too (the model's reading, assumption log 49). A new OFFER, to this station or to any, makes an INVITED record in JOINING and ACTIVE; a MUTE station ignores it, a LAPSED or CEDING one declines
it, a full table declines it when it names this station. -/
def Obligations.OffersInviteOrRepeat : Prop :=
  ∀ (s : State) (o : Station) (b : OfferBody), s.hears o (.offer b) →
    (∀ i r, s.slotOf b.tag = some i → s.recordAt i = some r →
      exec (.offerHeard o b) s = .next (
        if r.state = .taker .bound ∧ r.partner = o ∧ b.placed = 1 then
          s.after { s.toDevice with engine := s.tableWith i { r with placed := true } }
        else s)) ∧
    (s.slotOf b.tag = none →
      (b.taker ≠ 0 → b.taker ≠ s.line.station → exec (.offerHeard o b) s = .next s) ∧
      (b.taker = 0 ∨ b.taker = s.line.station →
        let declined : Byte → Device := fun reason =>
          { s.toDevice with line := s.sent .engine (.decline { tag := b.tag, taker := s.line.station, reason := reason }) }
        (s.line.mode = .mute → exec (.offerHeard o b) s = .next s) ∧
        (s.canSend → s.peers.state = .lapsed ∨ s.peers.state = .ceding →
          exec (.offerHeard o b) s = .next (s.after (declined 4))) ∧
        (s.canSend → s.peers.state = .joining ∨ s.peers.state = .active → s.freeSlot = none →
          exec (.offerHeard o b) s = .next (if b.taker = s.line.station then s.after (declined 1) else s)) ∧
        (∀ i, s.line.mode = .normal → s.peers.state = .joining ∨ s.peers.state = .active → s.freeSlot = some i → s.canNotify →
          let r := Record.new b.tag (.taker .invited) o b.bin
            (if b.cls = 0 then .ambient else if b.cls = 1 then .chilled else .frozen) b.cell b.ordinal.toNat
          exec (.offerHeard o b) s = .next (s.after
            { s.toDevice with
              engine := s.tableWith i { r with placed := decide (b.placed = 1) },
              link := s.notified
                { kind := .invite, outcome := ⟨.done, .ok⟩, slot := some i, tag := some b.tag, values := bytes16 b.slack,
                  station := o } }))))

/-- R97, R106, R102, R104: at a giver. The first AGREE of the named taker, or of any when none was named, binds an OFFERING record: BIND
queued, BOUND raised; with the bin on its cell the record is PLACED and a SETDOWN follows the BIND. The partner's LIFTED of the placed bin
removes its account and ends the record DONE (the detail OK of its outcome: assumption log 47); of another bin, or after a recovery, it raises
CUSTODY_CONFLICT; else it does nothing. The run whose ACTIVE entry ended so has it DONE and takes up the next ordinal (R131, R111): with a
waiting entry there it awaits it, its service timer at 0, a withdrawn one before that SKIPPED; at the end of the list it ends END_OF_LIST, at a
withdrawn entry without the skip flag WITHDRAWN_MET, and in ENDING it ends TERMINATED. A run that goes on holds the stake (R62); else in
ACTIVE the stake passes to the lowest slot that waits for it, whose record is OFFERING, and lingers when nobody waits. That the stake so held,
passed or lingering has no conflict rival any more is the model's choice (assumption log 34). -/
def Obligations.GiversHearAgreeAndLifted : Prop :=
  ∀ (s : State) (o : Station) (i : Nat) (r : Record) (g : GiverState), s.recordAt i = some r → r.state = .giver g →
    (∀ b : AgreeBody, s.hears o (.agree b) → s.slotOf b.tag = some i →
      (g ≠ .offering ∨ (r.partner ≠ o ∧ r.partner ≠ 0) → exec (.agreeHeard o b) s = .next s) ∧
      (g = .offering → r.partner = o ∨ r.partner = 0 → r.placed = false → s.canSend → s.canNotify →
        exec (.agreeHeard o b) s = .next (s.after
          { s.toDevice with
            engine := s.tableWith i
              { r with partner := o, state := .giver .bound, bindFrame := some s.line.seqCounter, setdownFrame := none },
            line := s.sent .engine (.bind { tag := r.tag, taker := o }),
            link := s.notified
              { kind := .bound, outcome := ⟨.done, .ok⟩, slot := some i, tag := some r.tag, values := [o], station := o } })) ∧
      (g = .offering → r.partner = o ∨ r.partner = 0 → r.placed = true → s.line.mode = .normal → s.line.queue.length ≤ 6 →
        ∃ d r', exec (.agreeHeard o b) s = .next (s.after d) ∧ d.recordAt i = some r' ∧ r'.tag = r.tag ∧
          r'.state = .giver .placed ∧ r'.partner = o ∧ r'.placed = true ∧ d.accounts = s.accounts ∧ d.claims = s.claims ∧
          (d.line.queue.map fun x => x.frame.body) = (s.line.queue.map fun x => x.frame.body) ++
            [.bind { tag := r.tag, taker := o },
             .setdown { tag := r.tag, cell := r.cell, bin := r.bin, e := BitVec.ofNat 16 (accountE (s.accountAt (.slot i))) }])) ∧
    ∀ b : LiftedBody, s.hears o (.lifted b) → s.slotOf b.tag = some i →
      let onCell : Prop := r.placed = true ∧ (g = .placed ∨ g = .unbound ∨ g = .offering)
      let recovered : Prop := g = .ended ∧ r.outcome = some ⟨.failed, .recovered⟩
      (r.partner ≠ o ∨ (¬onCell ∧ ¬recovered) → exec (.liftedHeard o b) s = .next s) ∧
      (r.partner = o → (onCell ∧ b.bin ≠ r.bin) ∨ recovered → r.endCollected = false → s.canNotify →
        exec (.liftedHeard o b) s = .next (s.after { s.toDevice with
          link := s.notified (r.notice i .custodyConflict ⟨.upset, .custodyConflict⟩ []) })) ∧
      (r.partner = o → onCell → b.bin = r.bin →
        ∃ d r', exec (.liftedHeard o b) s = .next (s.after d) ∧ d.recordAt i = some r' ∧ r'.tag = r.tag ∧
          r'.state = .giver .ended ∧ r'.outcome = some ⟨.done, .ok⟩ ∧ r'.endValue = accountE (s.accountAt (.slot i)) ∧
          d.tells i (r.notice i .ended ⟨.done, .ok⟩ (bytesOfNat16 (accountE (s.accountAt (.slot i))))) ∧
          d.accountAt (.slot i) = none ∧ d.accounts.hoist = s.accounts.hoist ∧ d.peers = s.peers ∧
          let run := s.engine.run
          let ours : Prop := r.ordinal ≠ 0 ∧ (run.state = .inEntry ∨ run.state = .ending)
          let done : RunList := { run with entries := run.entriesWith r.ordinal .done, next := r.ordinal + 1 }
          let after : Option EntryState := run.entries[r.ordinal]?.map fun e => e.state
          let goesOn : Prop := ours ∧ run.state = .inEntry ∧ after = some .waiting
          let skips : Prop := ours ∧ run.state = .inEntry ∧ after = some .withdrawn ∧ run.skip = true ∧
            (run.entries[r.ordinal + 1]?.map fun e => e.state) = some .waiting
          let ends : Prop := run.state = .ending ∨ after = none ∨ (after = some .withdrawn ∧ run.skip = false)
          (¬ours → d.engine.run = { run with mark := d.engine.run.mark }) ∧
          (goesOn → d.engine.run = { done with state := .awaitingNext, timer := some 0, mark := d.engine.run.mark }) ∧
          (skips → d.engine.run = { done with
            state := .awaitingNext, timer := some 0, mark := d.engine.run.mark, next := r.ordinal + 2,
            entries := done.entriesWith (r.ordinal + 1) .skipped }) ∧
          (ours → run.state = .inEntry → after = none → d.RunEnded done ⟨.done, .endOfList⟩) ∧
          (ours → run.state = .inEntry → after = some .withdrawn → run.skip = false → d.RunEnded done ⟨.failed, .withdrawnMet⟩) ∧
          (ours → run.state = .ending → d.RunEnded done ⟨.done, .terminated⟩) ∧
          ∀ x, s.claimOfUse (.slot i) = some x → x.phase ≠ .contested →
            (goesOn ∨ skips → d.claims.entries = s.runHolding x.cell ∧ d.line = s.line) ∧
            (¬ours ∨ (ends ∧ s.claimOfUse .runHold = none) →
              (s.peers.state ≠ .active ∨ (∀ j q, s.recordAt j = some q → ¬q.WaitsFor x.cell) →
                d.claims.entries = s.lingering x.cell ∧ d.line = s.line) ∧
              ∀ j q, s.engine.table.length = 16 → s.peers.state = .active → s.recordAt j = some q → q.WaitsFor x.cell →
                (∀ k p, k < j → s.recordAt k = some p → ¬p.WaitsFor x.cell) →
                d.claims.entries = s.passing x.cell j q.tag ∧
                  (∃ q', d.recordAt j = some q' ∧ q'.tag = q.tag ∧ q'.state = .giver .offering ∧ q'.request = none) ∧
                  (s.canSend → ∃ o', d.queues .engine (.offer o') ∧ o'.tag = q.tag ∧ o'.cell = q.cell ∧ o'.taker = q.partner)))

/-- R98, R123, with R109: a DECLINE or CANCEL from the partner. At a giver a DECLINE acts in OFFERING, a CANCEL in OFFERING, BOUND and
PLACED: UNBOUND, its offer window stopped, with a PARTNER_LOST notice of the reason. At a taker a CANCEL ends a record before READY; in
READY only RECOVERED does, its shadow removed, any other reason is told; a record that ended DONE is told of RECOVERED. No frame answers.
With room for the notice the record, its notice and the shadow are all that changes, and the mark of an open turn of a record that ends
(R145); that the stopped state timer keeps its value is the model's choice (assumption log 27). -/
def Obligations.DeclineAndCancelAreHeard : Prop :=
  ∀ (s : State) (o : Station) (i : Nat) (r : Record), s.recordAt i = some r →
    let freed : (Instr) → Detail → Byte → Prop := fun c detail reason =>
      (s.canNotify →
        exec c s = .next (s.after
          { s.toDevice with
            engine := s.tableWith i
              { r with state := .giver .unbound, setdownOwed := false, bindFrame := none, setdownFrame := none },
            link := s.notified (r.notice i .partnerLost ⟨.upset, detail⟩ [reason]) })) ∧
      ∃ d r', exec c s = .next (s.after d) ∧ d.recordAt i = some r' ∧ r'.tag = r.tag ∧ r'.state = .giver .unbound ∧
        r'.placed = r.placed ∧ r'.partner = r.partner ∧ r'.setdownOwed = false ∧
        d.tells i (r.notice i .partnerLost ⟨.upset, detail⟩ [reason]) ∧
        exec (.offerRepeat i) (s.after d) = .next (s.after d) ∧ exec (.offerWindowExpiry i) (s.after d) = .next (s.after d) ∧
        d.line = s.line ∧ d.accounts = s.accounts ∧ d.claims = s.claims ∧ d.peers = s.peers
    (∀ b : DeclineBody, s.hears o (.decline b) → s.slotOf b.tag = some i →
      (¬(r.state = .giver .offering ∧ r.partner = o) → exec (.declineHeard o b) s = .next s) ∧
      (r.state = .giver .offering → r.partner = o → freed (.declineHeard o b) .declined b.reason)) ∧
    ∀ b : CancelBody, s.hears o (.cancel b) → s.slotOf b.tag = some i →
      (r.partner ≠ o → exec (.cancelHeard o b) s = .next s) ∧
      (r.partner = o →
        (∀ g, r.state = .giver g →
          (g = .offering ∨ g = .bound ∨ g = .placed → freed (.cancelHeard o b) .partnerLost b.reason) ∧
          (¬(g = .offering ∨ g = .bound ∨ g = .placed) → exec (.cancelHeard o b) s = .next s)) ∧
        (∀ t, r.state = .taker t → t ≠ .ended → (t = .ready → b.reason = 2) →
          let out : OutcomePair := ⟨.upset, if b.reason = 2 then .recovered else .giverCancelled⟩
          let v : Nat := if t = .ready then accountE (s.accountAt (.slot i)) else 0
          (s.canNotify →
            exec (.cancelHeard o b) s = .next (s.after
              { s.toDevice with
                accounts := if t = .ready then { s.accounts with slots := s.accounts.slots.set i none } else s.accounts,
                engine := s.leftWith i
                  { r with
                    state := .taker .ended, outcome := some out, endValue := v, endCollected := false, agreeFrame := none },
                link := s.notified (r.notice i .ended out (bytesOfNat16 v)) })) ∧
          ∃ d r', exec (.cancelHeard o b) s = .next (s.after d) ∧ d.recordAt i = some r' ∧ r'.tag = r.tag ∧
            r'.state = .taker .ended ∧ r'.outcome = some ⟨.upset, if b.reason = 2 then .recovered else .giverCancelled⟩ ∧
            r'.endValue = (if t = .ready then accountE (s.accountAt (.slot i)) else 0) ∧
            (t = .ready → d.accountAt (.slot i) = none) ∧ (t ≠ .ready → d.accounts = s.accounts) ∧
            d.accounts.hoist = s.accounts.hoist ∧ d.line = s.line ∧ d.claims = s.claims ∧ d.peers = s.peers) ∧
        (r.state = .taker .ready → b.reason ≠ 2 →
          (s.canNotify →
            exec (.cancelHeard o b) s = .next (s.after
              { s.toDevice with link := s.notified (r.notice i .partnerLost ⟨.upset, .partnerLost⟩ [b.reason]) })) ∧
          ∃ d r', exec (.cancelHeard o b) s = .next (s.after d) ∧ d.recordAt i = some r' ∧ r'.state = .taker .ready ∧
            r'.tag = r.tag ∧ d.tells i (r.notice i .partnerLost ⟨.upset, .partnerLost⟩ [b.reason]) ∧
            d.accounts = s.accounts ∧ d.line = s.line ∧ d.claims = s.claims ∧ d.peers = s.peers) ∧
        (r.state = .taker .ended →
          (∀ k, b.reason = 2 → r.outcome = some ⟨.done, k⟩ →
            (s.canNotify → r.endCollected = false →
              exec (.cancelHeard o b) s = .next (s.after
                { s.toDevice with link := s.notified (r.notice i .custodyConflict ⟨.upset, .custodyConflict⟩ []) })) ∧
            ∃ d, exec (.cancelHeard o b) s = .next (s.after d) ∧
              d.tells i (r.notice i .custodyConflict ⟨.upset, .custodyConflict⟩ []) ∧
              d.accounts = s.accounts ∧ d.line = s.line ∧ d.claims = s.claims ∧ d.peers = s.peers) ∧
          (b.reason ≠ 2 ∨ (∀ k, r.outcome ≠ some ⟨.done, k⟩) → exec (.cancelHeard o b) s = .next s)))

/-- R118, with R85, R119: at a taker. A BIND that names this station takes an AGREED record to BOUND, its timer stopped; one that names
another ends the record UPSET(LOST_TO_OTHER), a shadow removed; else it does nothing. A SETDOWN of the record's cell and bin opens the
shadow of a BOUND record, which is READY (what becomes of the placed flag is left open: assumption log 26); of another, or of a bin held
here, it raises CUSTODY_CONFLICT; in any other state it does nothing. -/
def Obligations.TakersHearBindAndSetdown : Prop :=
  ∀ (s : State) (o : Station) (i : Nat) (r : Record) (t : TakerState), s.recordAt i = some r → r.state = .taker t → r.partner = o →
    (∀ b : BindBody, s.hears o (.bind b) → s.slotOf b.tag = some i →
      (t = .ended ∨ (b.taker = s.line.station ∧ t ≠ .agreed) → exec (.bindHeard o b) s = .next s) ∧
      (b.taker = s.line.station → t = .agreed →
        ∃ d r', exec (.bindHeard o b) s = .next (s.after d) ∧ d.recordAt i = some r' ∧ r'.tag = r.tag ∧
          r'.state = .taker .bound ∧ d.tells i (r.notice i .bound ⟨.done, .ok⟩ [o]) ∧
          exec (.agreedTimerExpiry i) (s.after d) = .next (s.after d) ∧
          d.accounts = s.accounts ∧ d.line = s.line ∧ d.claims = s.claims ∧ d.peers = s.peers) ∧
      (b.taker ≠ s.line.station → t ≠ .ended →
        ∃ d r', exec (.bindHeard o b) s = .next (s.after d) ∧ d.recordAt i = some r' ∧ r'.tag = r.tag ∧
          r'.state = .taker .ended ∧ r'.outcome = some ⟨.upset, .lostToOther⟩ ∧
          (t = .ready → d.accountAt (.slot i) = none) ∧ (t ≠ .ready → d.accounts = s.accounts) ∧
          d.line = s.line ∧ d.claims = s.claims ∧ d.peers = s.peers)) ∧
    ∀ b : SetdownBody, s.hears o (.setdown b) → s.slotOf b.tag = some i →
      let held : Prop := ∃ p a, s.accountAt p = some a ∧ a.bin = r.bin
      (t ≠ .bound → exec (.setdownHeard o b) s = .next s) ∧
      (t = .bound → b.cell ≠ r.cell ∨ b.bin ≠ r.bin ∨ held →
        ∃ d r', exec (.setdownHeard o b) s = .next (s.after d) ∧ d.recordAt i = some r' ∧ r'.tag = r.tag ∧
          r'.state = .taker .bound ∧ d.tells i (r.notice i .custodyConflict ⟨.upset, .custodyConflict⟩ []) ∧
          d.accounts = s.accounts ∧ d.line = s.line ∧ d.claims = s.claims ∧ d.peers = s.peers) ∧
      (t = .bound → b.cell = r.cell → b.bin = r.bin → ¬held → i < s.accounts.slots.length → s.canNotify →
        (∀ l, r.cls.limit = some l → b.e.toNat < l) →
        ∃ p, exec (.setdownHeard o b) s = .next (s.after
          { s.toDevice with
            accounts := { s.accounts with slots := s.accounts.slots.set i (some
              { bin := r.bin, cls := r.cls, e := b.e.toNat, location := .shadow, spent := false, wait := 0 }) },
            engine := s.tableWith i { r with state := .taker .ready, placed := p },
            link := s.notified (r.notice i .placed ⟨.done, .ok⟩ (bytes16 b.e)) }))

/-- R139 to R147 at the target of an adoption and at a partner: an ADOPT that names a LAPSED station on a NORMAL line opens its ceding with
the first cedable record's CEDE, or with the empty CEDE; else it does nothing. A RECEIPT from the adopter for the turn's record: TAKEN
takes a cedable record away with its account and stake, REFUSED leaves it stranded; after the last turn the station is LAPSED. A giver
record that carries an ordinal ends its run UPSET(TERMINATED), its entry FAILED (R127, R132); a taker record's ordinal is its OFFER's and
leaves the run alone (R112). A record that is not cedable, or stopped being so in its turn, stays and is told of CUSTODY_CONFLICT, stranded.
A RECEIPT(TAKEN) for another ceder makes the adopter the partner of its record and the claimant of its cell, and tells the record's host when
it is not ENDED: in every state, PENDING and STAKING among them, which take no other frame (R94; assumption log 41). -/
def Obligations.AdoptAndReceiptAreHeard : Prop :=
  ∀ (s : State) (o : Station),
    (∀ b : AdoptBody, s.hears o (.adopt b) →
      let cedable : List Tag := s.engine.table.filterMap fun x => match x with
        | some r => if r.cedable then some r.tag else none
        | none => none
      let left : Nat := s.engine.table.countP fun x => match x with
        | some r => !r.isEnded && !r.cedable
        | none => false
      (b.target ≠ s.line.station ∨ s.peers.state ≠ .lapsed ∨ s.line.mode = .mute → exec (.adoptHeard o b) s = .next s) ∧
      (b.target = s.line.station → s.peers.state = .lapsed → s.canSend →
        (cedable = [] →
          exec (.adoptHeard o b) s = .next (s.after
            { s.toDevice with
              peers := { s.peers with state := .ceding, hostReturned := false },
              engine := { s.engine with ceding :=
                { adopter := some o, tags := [], turn := .emptyCede, attempts := 1, broken := false, ceded := s.engine.ceding.ceded,
                  stranded := left, frame := some s.line.seqCounter } },
              line := s.sent .engine (.cede { adopter := o, flags := 1, part := none }) })) ∧
        ∀ t rest i r, cedable = t :: rest → s.slotOf t = some i → s.recordAt i = some r →
          exec (.adoptHeard o b) s = .next (s.after
            { s.toDevice with
              peers := { s.peers with state := .ceding, hostReturned := false },
              engine := { s.engine with ceding :=
                { adopter := some o, tags := cedable, turn := .tag t, attempts := 1, broken := false, ceded := s.engine.ceding.ceded,
                  stranded := left, frame := none } },
              line := s.sent .engine (.cede
                { adopter := o, flags := if rest = [] then 3 else 2,
                  part := some (cedePartOf r (accountE (s.accountAt (.slot i)))) }) }))) ∧
    ∀ b : ReceiptBody, s.hears o (.receipt b) →
      (∀ i r, b.ceder = s.line.station → s.engine.ceding.adopter = some o → s.engine.ceding.turn = .tag b.tag →
        s.slotOf b.tag = some i → s.recordAt i = some r → r.isEnded = false → s.peers.hostReturned = false →
        tagsAfter b.tag s.engine.ceding.tags = [] →
        let closed : Engine := { s.engine with ceding := { s.engine.ceding with
          adopter := none, tags := [], turn := .none, attempts := 0, broken := false,
          stranded := s.engine.ceding.stranded + 1, frame := none } }
        let whole : Prop := r.cedable = true ∧ s.engine.ceding.broken = false
        (b.outcome = 0 → whole → (∀ g, r.state = .giver g → r.ordinal = 0) →
          ∃ d, exec (.receiptHeard o b) s = .next (s.after d) ∧ d.recordAt i = none ∧ d.accountAt (.slot i) = none ∧
            (∀ x, s.claimOfUse (.slot i) = some x → d.ownClaim x.cell = none) ∧
            (∀ j, j ≠ i → d.recordAt j = s.recordAt j ∧ d.accountAt (.slot j) = s.accountAt (.slot j)) ∧
            d.engine.ceding.ceded = s.engine.ceding.ceded + 1 ∧ d.engine.ceding.stranded = s.engine.ceding.stranded ∧
            d.engine.ceding.turn = .none ∧ d.peers.state = .lapsed ∧ d.line = s.line ∧ d.engine.run = s.engine.run) ∧
        (b.outcome = 0 → ¬whole → s.canNotify →
          exec (.receiptHeard o b) s = .next (s.after
            { s.toDevice with
              peers := { s.peers with state := .lapsed }, engine := closed,
              link := s.notified (r.notice i .custodyConflict ⟨.upset, .custodyConflict⟩ []) })) ∧
        (∀ g, b.outcome = 0 → whole → r.state = .giver g → r.ordinal ≠ 0 →
          s.engine.run.state = .inEntry ∨ s.engine.run.state = .ending →
          ∃ d, exec (.receiptHeard o b) s = .next (s.after d) ∧ d.recordAt i = none ∧ d.accountAt (.slot i) = none ∧
            d.engine.ceding.ceded = s.engine.ceding.ceded + 1 ∧ d.peers.state = .lapsed ∧
            d.engine.run.state = .ended ∧ d.engine.run.outcome = some ⟨.upset, .terminated⟩ ∧
            ∀ e, s.engine.run.entry r.ordinal = some e → d.engine.run.entry r.ordinal = some { e with state := .failed }) ∧
        (b.outcome = 1 →
          exec (.receiptHeard o b) s = .next (s.after
            { s.toDevice with peers := { s.peers with state := .lapsed }, engine := closed }))) ∧
      (b.ceder ≠ s.line.station →
        (b.outcome = 1 → exec (.receiptHeard o b) s = .next s) ∧
        (∀ i r, b.outcome = 0 → b.cell = none → s.slotOf b.tag = some i → s.recordAt i = some r → r.partner = b.ceder →
          (r.isEnded = true →
            exec (.receiptHeard o b) s = .next (s.after { s.toDevice with engine := s.tableWith i { r with partner := o } })) ∧
          (r.isEnded = false → s.canNotify →
            exec (.receiptHeard o b) s = .next (s.after
              { s.toDevice with
                engine := s.tableWith i { r with partner := o },
                link := s.notified
                  { kind := .partnerChanged, outcome := ⟨.done, .ok⟩, slot := some i, tag := some r.tag, values := [],
                    station := o } }))) ∧
        ∀ c x, b.outcome = 0 → b.cell = some c → s.slotOf b.tag = none → s.heardClaim c b.ceder = some x → s.noneStaking →
          ∃ d, exec (.receiptHeard o b) s = .next (s.after d) ∧
            { x with claimant := o, age := 0 } ∈ d.claims.entries ∧ (o ≠ b.ceder → d.heardClaim c b.ceder = none) ∧
            (∀ y ∈ s.claims.entries, y.cell ≠ c → y ∈ d.claims.entries) ∧ d.line = s.line ∧ d.engine = s.engine ∧
            d.link = s.link ∧ d.peers = s.peers)

/-- R140 to R142, R71, R86: a CEDE from the target of the adoption in progress starts the adoption timer, at 3 with the last flag and 8
without, also in MUTE (assumption log 35). Its record part is answered by the first case of R141: known (the cell of that RECEIPT:
assumption log 25), table full, stake refused, own partner, known tag or held bin; refused, it leaves the claim map as it was (assumption
log 24). Else an AGREED taker record is made, its tag arrives,
ARRIVED is raised and RECEIPT(TAKEN) is queued; a PLACED giver record is made with its account and PLACED stake, and RECEIPT(TAKEN) and
SETDOWN are queued. A CEDE that does not concern the adoption does nothing. -/
def Obligations.CedesAreTakenOrRefused : Prop :=
  ∀ (s : State) (o : Station) (b : CedeBody), s.hears o (.cede b) →
    let a := s.engine.adoption
    let listening : Adoption := { a with
      phase := .listening, timer := some (if b.flags.getLsbD 0 then 3 else 8) }
    let taken : Engine := { s.engine with adoption := listening }
    (b.adopter ≠ s.line.station ∨ a.phase = .none ∨ o ≠ a.target → exec (.cedeHeard o b) s = .next s) ∧
    (b.adopter = s.line.station → a.phase ≠ .none → o = a.target →
      (s.line.mode = .mute ∨ b.part = none → exec (.cedeHeard o b) s = .next (s.after { s.toDevice with engine := taken })) ∧
      ∀ p, s.canSend → b.part = some p →
        let answer : Byte → Byte → Option Cell → Device := fun outcome reason c =>
          { s.toDevice with
            engine := taken,
            line := s.sent .engine (.receipt { tag := p.tag, ceder := o, outcome := outcome, reason := reason, cell := c }) }
        let noStake : Prop := p.role = 1 ∧
          ((∃ x, s.ownClaim p.cell = some x ∧ ownUse x ≠ some .linger) ∨ (s.ownClaim p.cell = none ∧ 4 ≤ s.ownCount))
        let known : Prop := s.slotOf p.tag ≠ none ∨ ∃ q y, s.accountAt q = some y ∧ y.bin = p.bin
        (p.tag ∈ a.arrived →
          exec (.cedeHeard o b) s = .next (s.after (answer 0 0 (if p.role = 1 then some p.cell else none)))) ∧
        (p.tag ∉ a.arrived → s.freeSlot = none → exec (.cedeHeard o b) s = .next (s.after (answer 1 1 none))) ∧
        ∀ i, p.tag ∉ a.arrived → s.freeSlot = some i →
          (noStake → exec (.cedeHeard o b) s = .next (s.after (answer 1 2 none))) ∧
          (¬noStake → p.partner = s.line.station → exec (.cedeHeard o b) s = .next (s.after (answer 1 3 none))) ∧
          (¬noStake → p.partner ≠ s.line.station → known → exec (.cedeHeard o b) s = .next (s.after (answer 1 4 none))) ∧
          (¬known → p.partner ≠ s.line.station → p.role = 2 → p.state = 3 → s.canNotify →
            exec (.cedeHeard o b) s = .next (s.after
              { answer 0 0 none with
                engine := { taken with
                  table := s.engine.table.set i (some (Record.new p.tag (.taker .agreed) p.partner p.bin
                    (if p.cls = 0 then .ambient else if p.cls = 1 then .chilled else .frozen) p.cell 0)),
                  adoption := { listening with arrived := a.arrived ++ [p.tag] } },
                link := s.notified
                  { kind := .arrived, outcome := ⟨.done, .ok⟩, slot := some i, tag := some p.tag, values := [0, 0],
                    station := p.partner } })) ∧
          (¬noStake → ¬known → p.partner ≠ s.line.station → p.role = 1 → p.state = 1 → s.line.queue.length ≤ 6 →
            s.noneStaking → s.claims.entries.length < 48 → i < s.accounts.slots.length →
            ∃ d r x y, exec (.cedeHeard o b) s = .next (s.after d) ∧ d.recordAt i = some r ∧ r.tag = p.tag ∧
              r.state = .giver .placed ∧ r.partner = p.partner ∧ r.bin = p.bin ∧ r.cell = p.cell ∧ r.placed = true ∧
              r.addressed = true ∧ d.engine.adoption.arrived = a.arrived ++ [p.tag] ∧
              d.accountAt (.slot i) = some x ∧ x.bin = p.bin ∧ x.e = p.e.toNat ∧ x.location = .cell ∧ x.wait = 0 ∧
              d.ownClaim p.cell = some y ∧ y.phase = .placed ∧ y.tag = p.tag ∧ ownUse y = some (.slot i) ∧
              (d.line.queue.map fun z => z.frame.body) = (s.line.queue.map fun z => z.frame.body) ++
                [.receipt { tag := p.tag, ceder := o, outcome := 0, reason := 0, cell := some p.cell },
                 .setdown { tag := p.tag, cell := p.cell, bin := p.bin, e := p.e }]))

/-! ## Across the part -/

/-- R81, with the limits and open rates of R77: slack S, aging credit G and stake key K of an account, and the bounds the rule draws from
them. -/
def Obligations.SlackCreditAndKeyAreComputed : Prop :=
  ∀ a : Account,
    a.slack = (match a.cls with
      | .ambient => 4095
      | .chilled => if 2400 ≤ a.e then 0 else if 4095 < (2400 - a.e) / 4 then 4095 else (2400 - a.e) / 4
      | .frozen => if 1500 ≤ a.e then 0 else if 4095 < (1500 - a.e) / 6 then 4095 else (1500 - a.e) / 6) ∧
    a.credit = min (a.wait / 2) 511 ∧
    a.stakeKey = (if a.slack < a.credit then 0 else a.slack - a.credit) ∧
    a.slack ≤ 4095 ∧ a.stakeKey ≤ 4095 ∧ (a.cls ≠ .ambient → a.slack ≤ 600) ∧
    (a.credit = 511 ↔ 1022 ≤ a.wait) ∧ (a.wait ≤ 1022 → a.credit = a.wait / 2) ∧
    (∀ l, a.cls.limit = some l → l < a.e + a.cls.openRate → a.slack = 0 ∧ a.stakeKey = 0)

/-- R31, with R1, R20 and R22 to R28: a frame goes out as kind, hop and section, origin, sequence, body length, body and check, high byte
first, and the receive filter reads from those bytes the frame that was sent, for every valid body. A hop of 2..15 is out of range, and a
CEDE with a flag above bit 1 is not valid. -/
def Obligations.FramesAreReadAsTheyAreSent : Prop :=
  (∀ f : Frame, stationInRange f.origin = true → bodyValid f.origin f.body = true →
    ∃ check : BitVec 16,
      wireBytes f = [bodyKind f.body, (if f.relayed then 1#4 else 0#4) ++ f.sect, f.origin, f.seq,
        BitVec.ofNat 8 (bodyBytes f.body).length] ++ bodyBytes f.body ++ [check.extractLsb' 8 8, check.extractLsb' 0 8] ∧
      (bodyBytes f.body).length ≤ 36 ∧
      ∃ r, checkFrame (wireBytes f) = some r ∧ r.kind = bodyKind f.body ∧ rawSect r = f.sect ∧
        rawHop r = (if f.relayed then 1 else 0) ∧ r.origin = f.origin ∧ r.seq = f.seq ∧ envelopeInRange r = true ∧
        parseBody r.kind r.body = some f.body) ∧
  (∀ r : RawFrame, 2 ≤ (rawHop r).toNat → envelopeInRange r = false) ∧
  (∀ (o : Station) (b : CedeBody), 4 ≤ b.flags.toNat → bodyValid o (.cede b) = false) ∧
  ∀ (o : Station) (b : CedeBody), bodyValid o (.cede b) = true →
    (cedeLast b = true ↔ b.flags.toNat % 2 = 1) ∧ (b.part ≠ none ↔ 2 ≤ b.flags.toNat)

/-- What each kind of command leaves alone, in every state (R3, R17, R42, R72, R153 to R155, R161): only the power commands change the power
state, its latch and counter; only bytes on the drive link and the power commands change the link's exchange, the position, the watches, the
station's number, section, relay setting and requested line mode; only frames heard, beacon periods and the roster's own expiries change the
roster; only the ends of a transmission, requests and starts change W. -/
def Obligations.CommandsKeepToTheirState : Prop :=
  ∀ (c : Instr) (s : State) (d : Device), c.isPower = false → exec c s = .next (s.after d) →
    d.power = s.power ∧
    (c.isLink = false →
      d.link.phase = s.link.phase ∧ d.link.gathered = s.link.gathered ∧ d.link.result = s.link.result ∧
      d.link.dataOut = s.link.dataOut ∧ d.link.position = s.link.position ∧ d.link.retentionRead = s.link.retentionRead ∧
      d.claims.watches = s.claims.watches ∧ d.line.station = s.line.station ∧ d.line.sect = s.line.sect ∧
      d.line.relay = s.line.relay ∧ d.line.requested = s.line.requested ∧
      (c ≠ .cleanSend → c ≠ .collision → d.line.window = s.line.window)) ∧
    (c.touchesRoster = false → d.peers.roster = s.peers.roster)

/-- R2, R5, R8, R10, R12, R18, R35, R37, R42, R43, R49, R52, R54, R60, R67, R72, R75, R78, R80, R89, R92, R96, R115, R117, R128, R130,
R140, R144, R158, R161: every command leaves the capacities and ranges of a sound part as they are, from every sound state, whether a run reaches
it or not: what `Device.Sound` says of the queue, the roster, the claim map, the accounts, the records, their tags and their pending-notice sets, and every
timer. -/
def Obligations.EveryStepKeepsThePartSound : Prop :=
  ∀ s t : State, s.toDevice.Sound → step s = .next t → t.toDevice.Sound

/-- The part after reset is sound. -/
def Obligations.ResetIsSound : Prop := State.reset.toDevice.Sound
end

