-- ==== Sys2Proof/Laws/Line.lean ====
section
/-! SUPPORT. The Line Port's operations: what they leave alone, and that each keeps a sound port (`LinePort.Sound`). -/

namespace Sys2Proof.Machine

variable {l : LinePort}

/-! ## What stays -/

/-- The parts of the port that no admission to the queue touches. -/
structure LinePort.SameSetting (l m : LinePort) : Prop where
  station : m.station = l.station
  sect : m.sect = l.sect
  relay : m.relay = l.relay
  requested : m.requested = l.requested
  forcedMute : m.forcedMute = l.forcedMute
  window : m.window = l.window
  generator : m.generator = l.generator
  recent : m.recent = l.recent
  carrier : m.carrier = l.carrier

theorem LinePort.SameSetting.refl (l : LinePort) : l.SameSetting l := ⟨rfl, rfl, rfl, rfl, rfl, rfl, rfl, rfl, rfl⟩

theorem LinePort.SameSetting.trans {a b c : LinePort} (h : a.SameSetting b) (k : b.SameSetting c) : a.SameSetting c :=
  ⟨k.1.trans h.1, k.2.trans h.2, k.3.trans h.3, k.4.trans h.4, k.5.trans h.5, k.6.trans h.6, k.7.trans h.7, k.8.trans h.8,
    k.9.trans h.9⟩

theorem LinePort.SameSetting.mode_eq {a b : LinePort} (h : a.SameSetting b) : b.mode = a.mode := by
  simp [LinePort.mode, h.forcedMute, h.requested]

theorem append_setting (f : Frame) (s : Sender) : l.SameSetting (l.append f s) := by
  unfold LinePort.append
  dsimp only
  split <;> exact ⟨rfl, rfl, rfl, rfl, rfl, rfl, rfl, rfl, rfl⟩

theorem removeAt_setting (k : Nat) : l.SameSetting (l.removeAt k) := by
  unfold LinePort.removeAt
  dsimp only
  split <;> exact ⟨rfl, rfl, rfl, rfl, rfl, rfl, rfl, rfl, rfl⟩

theorem joinTail_setting (s : Sender) (b : Body) : l.SameSetting (l.joinTail s b).1 := by
  have h := append_setting (l := l) (l.ownFrame b l.seqCounter) s
  exact ⟨h.1, h.2, h.3, h.4, h.5, h.6, h.7, h.8, h.9⟩

theorem offerPlain_setting (s : Sender) (b : Body) : l.SameSetting (l.offerPlain s b).1 := by
  unfold LinePort.offerPlain
  split
  · exact joinTail_setting s b
  · split
    · exact (removeAt_setting _).trans (joinTail_setting s b)
    · exact .refl l

/-- An offer of an own frame touches the queue, the medium access of its head and the sequence counter, nothing else. -/
theorem offer_setting (s : Sender) (b : Body) : l.SameSetting (l.offer s b).1 := by
  unfold LinePort.offer
  split
  · exact .refl l
  · split
    · unfold LinePort.offerPresence
      split
      · exact offerPlain_setting _ b
      · split
        · exact .refl l
        · exact ⟨rfl, rfl, rfl, rfl, rfl, rfl, rfl, rfl, rfl⟩
    · exact offerPlain_setting s b

/-- R4: in MUTE an offer changes nothing and ends DROPPED(LINE_MUTED). -/
theorem offer_muted (h : l.mode = .mute) (s : Sender) (b : Body) : l.offer s b = (l, .dropped .lineMuted) := by
  simp [LinePort.offer, h]

/-- R6: with a place free in NORMAL an own frame other than PRESENCE joins. -/
theorem offer_room (h : l.mode = .normal) (hq : l.queue.length < Config.queueSize) (s : Sender) (b : Body)
    (hb : bodyIsPresence b = false) : l.offer s b = l.joinTail s b := by
  simp [LinePort.offer, h, hb, LinePort.offerPlain, hq]

/-! ## Soundness -/

theorem sound_of_queue {l m : LinePort} (h : l.Sound) (hs : l.SameSetting m) (q1 : m.queue.length ≤ Config.queueSize)
    (q2 : m.queue.countP TxEntry.isPresence ≤ 1) (q3 : m.queue.countP TxEntry.isRelayed ≤ Config.relayLimit)
    (q4 : ∀ x ∈ m.queue, x.collisions < Config.maxCollisions) (q5 : m.queue = [] ↔ m.tx = .off ∨ m.tx = .idle)
    (q6 : m.mode = .mute → m.tx = .off) (q7 : ∀ r, m.remaining = some r → r < 64) : m.Sound :=
  ⟨q1, q2, q3, q4, q5, q6, by rw [hs.window]; exact h.window, by rw [hs.generator]; exact h.generator, q7,
    by rw [hs.recent]; exact h.recent, by rw [hs.recent]; exact h.recentAges⟩

/-- In MUTE a sound port has an empty queue. -/
theorem LinePort.Sound.mute_queue (h : l.Sound) (hm : l.mode = .mute) : l.queue = [] := h.resting.mpr (.inl (h.mute hm))

theorem append_sound (h : l.Sound) (hm : l.mode = .normal) (f : Frame) (s : Sender) (hq : l.queue.length < Config.queueSize)
    (hp : bodyIsPresence f.body = true → l.queue.countP TxEntry.isPresence = 0)
    (hr : s = .relay → l.queue.countP TxEntry.isRelayed < Config.relayLimit) : (l.append f s).Sound := by
  have hset := append_setting (l := l) f s
  have hqq : (l.append f s).queue = l.queue ++ [{ frame := f, sender := s, collisions := 0 }] := by
    unfold LinePort.append
    dsimp only
    split <;> rfl
  have hmode : (l.append f s).mode = .normal := hset.mode_eq.trans hm
  refine sound_of_queue h hset ?_ ?_ ?_ ?_ ?_ ?_ ?_
  · rw [hqq]
    simpa using hq
  · rw [hqq, List.countP_append]
    have := h.presences
    by_cases hb : bodyIsPresence f.body = true
    · simp [hp hb, TxEntry.isPresence, hb]
    · simp [TxEntry.isPresence, hb, this]
  · rw [hqq, List.countP_append]
    have := h.relayed
    by_cases hs : s = .relay
    · have := hr hs
      simp [TxEntry.isRelayed, hs]
      omega
    · simp [TxEntry.isRelayed, hs, this]
  · rw [hqq]
    intro x hx
    rcases List.mem_append.mp hx with hx | hx
    · exact h.collisions x hx
    · rw [List.mem_singleton.mp hx]
      show 0 < 6
      decide
  · have hne : (l.append f s).queue ≠ [] := by rw [hqq]; simp
    refine ⟨fun h0 => absurd h0 hne, fun ht => ?_⟩
    exfalso
    unfold LinePort.append at ht
    dsimp only at ht
    split at ht
    · rcases ht with ht | ht <;> exact nomatch ht
    · rename_i hn
      exact hn (by rw [h.resting.mpr ht]; rfl)
  · rw [hmode]
    exact fun h0 => nomatch h0
  · intro r hrem
    unfold LinePort.append at hrem
    dsimp only at hrem
    split at hrem
    · exact nomatch hrem
    · exact h.remaining r hrem

theorem joinTail_sound (h : l.Sound) (hm : l.mode = .normal) (s : Sender) (b : Body) (hq : l.queue.length < Config.queueSize)
    (hp : bodyIsPresence b = true → l.queue.countP TxEntry.isPresence = 0) (hs : s ≠ .relay) : (l.joinTail s b).1.Sound := by
  have k := append_sound h hm (l.ownFrame b l.seqCounter) s hq hp (fun h0 => absurd h0 hs)
  exact ⟨k.1, k.2, k.3, k.4, k.5, k.6, k.7, k.8, k.9, k.10, k.11⟩

theorem length_eraseIdx_lt {α : Type} (q : List α) {k : Nat} (hk : k < q.length) : (q.eraseIdx k).length + 1 = q.length := by
  rw [List.length_eraseIdx_of_lt hk]
  omega

/-- A port that gives up a queued frame of a full queue stays sound. -/
theorem removeAt_sound (h : l.Sound) (hm : l.mode = .normal) (k : Nat) (hk : k < l.queue.length) (h2 : 2 ≤ l.queue.length) :
    (l.removeAt k).Sound ∧ (l.removeAt k).queue.length + 1 = l.queue.length := by
  have hqq : (l.removeAt k).queue = l.queue.eraseIdx k := by
    unfold LinePort.removeAt
    dsimp only
    split <;> rfl
  have hlen := length_eraseIdx_lt l.queue hk
  have hsub := List.eraseIdx_sublist l.queue k
  refine ⟨sound_of_queue h (removeAt_setting k) ?_ ?_ ?_ ?_ ?_ ?_ ?_, by rw [hqq]; exact hlen⟩
  · have := h.queued
    rw [hqq]
    omega
  · rw [hqq]
    exact Nat.le_trans (hsub.countP_le) h.presences
  · rw [hqq]
    exact Nat.le_trans (hsub.countP_le) h.relayed
  · rw [hqq]
    exact fun x hx => h.collisions x (hsub.subset hx)
  · have hne : l.queue.eraseIdx k ≠ [] := fun h0 => by rw [h0] at hlen; simp at hlen; omega
    rw [hqq]
    refine ⟨fun h0 => absurd h0 hne, fun ht => ?_⟩
    exfalso
    unfold LinePort.removeAt at ht
    dsimp only at ht
    split at ht
    · rcases ht with ht | ht <;> exact nomatch ht
    · have := h.resting.mpr ht
      rw [this] at h2
      simp at h2
  · rw [(removeAt_setting k).mode_eq, hm]
    exact fun h0 => nomatch h0
  · intro r hrem
    unfold LinePort.removeAt at hrem
    dsimp only at hrem
    split at hrem
    · exact nomatch hrem
    · exact h.remaining r hrem

theorem lastIdx_lt {α : Type} (p : α → Bool) (q : List α) {k : Nat} (h : lastIdx p q = some k) : k < q.length := by
  induction q generalizing k with
  | nil => exact nomatch h
  | cons x q ih =>
    unfold lastIdx at h
    split at h
    · rename_i j hj
      have := ih hj
      simp only [Option.some.injEq] at h
      simp
      omega
    · split at h
      · simp only [Option.some.injEq] at h
        simp
        omega
      · exact nomatch h

theorem newestRelayed_lt {k : Nat} (h : l.newestRelayed = some k) : k < l.queue.length := by
  unfold LinePort.newestRelayed at h
  dsimp only at h
  split at h
  · rcases hl : lastIdx (fun e : TxEntry => e.sender == .relay) l.queue.tail with _ | j
    · rw [hl] at h
      exact nomatch h
    · rw [hl] at h
      have := lastIdx_lt _ _ hl
      simp only [List.length_tail, Option.map_some, Option.some.injEq] at this h
      omega
  · exact lastIdx_lt _ _ h

theorem countP_eraseIdx_zero {α : Type} (p : α → Bool) (q : List α) (k : Nat) (h : q.countP p = 0) : (q.eraseIdx k).countP p = 0 :=
  Nat.le_zero.mp (h ▸ (List.eraseIdx_sublist q k).countP_le)

theorem offerPlain_sound (h : l.Sound) (hm : l.mode = .normal) (s : Sender) (b : Body) (hs : s ≠ .relay)
    (hp : bodyIsPresence b = true → l.queue.countP TxEntry.isPresence = 0) : (l.offerPlain s b).1.Sound := by
  unfold LinePort.offerPlain
  split
  · rename_i hq
    exact joinTail_sound h hm s b hq hp hs
  · rename_i hq
    have hq8 : 8 ≤ l.queue.length := Nat.le_of_not_lt hq
    split
    · rename_i k hk
      have hk1 := newestRelayed_lt hk
      obtain ⟨hr, hl⟩ := removeAt_sound h hm k hk1 (by omega)
      refine joinTail_sound hr ((removeAt_setting k).mode_eq.trans hm) s b ?_ (fun hb => ?_) hs
      · have h8 : l.queue.length ≤ 8 := h.queued
        show _ < 8
        omega
      · have : (l.removeAt k).queue = l.queue.eraseIdx k := by
          unfold LinePort.removeAt
          dsimp only
          split <;> rfl
        rw [this]
        exact countP_eraseIdx_zero _ _ _ (hp hb)
    · exact h

theorem presenceAt_none (h : l.presenceAt = none) : l.queue.countP TxEntry.isPresence = 0 := by
  unfold LinePort.presenceAt at h
  rw [List.findIdx?_eq_none_iff] at h
  rw [List.countP_eq_zero]
  intro x hx
  simpa [TxEntry.isPresence] using h x hx

theorem countP_modify_eq {α : Type} (p : α → Bool) (f : α → α) (q : List α) (k : Nat) (hk : ∀ x, q[k]? = some x → p (f x) = p x) :
    (q.modify k f).countP p = q.countP p := by
  induction q generalizing k with
  | nil => simp
  | cons x q ih =>
    cases k with
    | zero => simp [List.countP_cons, hk x rfl]
    | succ k => simp [List.countP_cons, ih k (fun y hy => hk y (by simpa using hy))]

theorem countP_modify_le {α : Type} (p : α → Bool) (f : α → α) (q : List α) (k : Nat) (hk : ∀ x, p (f x) = true → p x = true) :
    (q.modify k f).countP p ≤ q.countP p := by
  induction q generalizing k with
  | nil => simp
  | cons x q ih =>
    cases k with
    | zero =>
      simp only [List.modify_zero_cons, List.countP_cons]
      have := hk x
      split <;> split <;> simp_all
    | succ k =>
      have := ih k
      simp only [List.modify_succ_cons, List.countP_cons]
      omega

theorem offerPresence_sound (h : l.Sound) (hm : l.mode = .normal) (b : Body) (hb : bodyIsPresence b = true) :
    (l.offerPresence b).1.Sound := by
  unfold LinePort.offerPresence
  split
  · rename_i hn
    exact offerPlain_sound h hm _ b (by decide) (fun _ => presenceAt_none hn)
  · rename_i k hk
    split
    · exact h
    · refine sound_of_queue h ⟨rfl, rfl, rfl, rfl, rfl, rfl, rfl, rfl, rfl⟩ ?_ ?_ ?_ ?_ ?_ ?_ ?_
      · simpa using h.queued
      · have hx : ∀ x, l.queue[k]? = some x → TxEntry.isPresence x = true := by
          intro x hx
          have h2 := List.findIdx?_eq_some_iff_getElem.mp hk
          obtain ⟨hlt, hp, _⟩ := h2
          rw [List.getElem?_eq_getElem hlt] at hx
          cases hx
          exact hp
        dsimp only
        rw [countP_modify_eq]
        · exact h.presences
        · intro x hxk
          rw [hx x hxk]
          exact hb
      · exact Nat.le_trans (countP_modify_le _ _ _ _ (fun x hx => nomatch hx)) h.relayed
      · intro x hx
        dsimp only at hx
        obtain ⟨j, hj, rfl⟩ := List.mem_iff_getElem.mp hx
        rw [List.getElem_modify]
        have hj' : j < l.queue.length := by simpa using hj
        have hc : l.queue[j].collisions < Config.maxCollisions := h.collisions _ (List.getElem_mem hj')
        split <;> exact hc
      · dsimp only
        rw [← h.resting]
        constructor
        · intro h0
          have hl := congrArg List.length h0
          simpa using hl
        · intro h0
          rw [h0]
          simp
      · exact fun hm' => h.mute hm'
      · exact h.remaining

/-- R5: an offer of an own frame keeps a sound port. -/
theorem offer_sound (h : l.Sound) (s : Sender) (b : Body) (hs : s ≠ .relay) : (l.offer s b).1.Sound := by
  unfold LinePort.offer
  split
  · exact h
  · rename_i hm
    have hn : l.mode = .normal := by
      cases hmode : l.mode with
      | normal => rfl
      | mute => exact absurd hmode hm
    split
    · rename_i hb
      exact offerPresence_sound h hn b hb
    · rename_i hb
      exact offerPlain_sound h hn s b hs (fun h0 => absurd h0 hb)

end Sys2Proof.Machine
end

