-- ==== Sys2Proof/Laws/State.lean ====
section
/-! SUPPORT. The fields of the state after each block update, one lemma for each field and update, true by unfolding. -/

namespace Sys2Proof.Machine

variable (d : Device)

@[simp] theorem withLine_line (l : LinePort) : (d.withLine l).line = l := rfl
@[simp] theorem withLine_peers (l : LinePort) : (d.withLine l).peers = d.peers := rfl
@[simp] theorem withLine_claims (l : LinePort) : (d.withLine l).claims = d.claims := rfl
@[simp] theorem withLine_accounts (l : LinePort) : (d.withLine l).accounts = d.accounts := rfl
@[simp] theorem withLine_engine (l : LinePort) : (d.withLine l).engine = d.engine := rfl
@[simp] theorem withLine_link (l : LinePort) : (d.withLine l).link = d.link := rfl
@[simp] theorem withLine_power (l : LinePort) : (d.withLine l).power = d.power := rfl
@[simp] theorem withLine_freeCount (l : LinePort) : (d.withLine l).freeCount = d.freeCount := rfl

@[simp] theorem withPeers_line (p : PeerRoster) : (d.withPeers p).line = d.line := rfl
@[simp] theorem withPeers_peers (p : PeerRoster) : (d.withPeers p).peers = p := rfl
@[simp] theorem withPeers_claims (p : PeerRoster) : (d.withPeers p).claims = d.claims := rfl
@[simp] theorem withPeers_accounts (p : PeerRoster) : (d.withPeers p).accounts = d.accounts := rfl
@[simp] theorem withPeers_engine (p : PeerRoster) : (d.withPeers p).engine = d.engine := rfl
@[simp] theorem withPeers_link (p : PeerRoster) : (d.withPeers p).link = d.link := rfl
@[simp] theorem withPeers_power (p : PeerRoster) : (d.withPeers p).power = d.power := rfl
@[simp] theorem withPeers_freeCount (p : PeerRoster) : (d.withPeers p).freeCount = d.freeCount := rfl

@[simp] theorem withClaims_line (c : ClaimMap) : (d.withClaims c).line = d.line := rfl
@[simp] theorem withClaims_peers (c : ClaimMap) : (d.withClaims c).peers = d.peers := rfl
@[simp] theorem withClaims_claims (c : ClaimMap) : (d.withClaims c).claims = c := rfl
@[simp] theorem withClaims_accounts (c : ClaimMap) : (d.withClaims c).accounts = d.accounts := rfl
@[simp] theorem withClaims_engine (c : ClaimMap) : (d.withClaims c).engine = d.engine := rfl
@[simp] theorem withClaims_link (c : ClaimMap) : (d.withClaims c).link = d.link := rfl
@[simp] theorem withClaims_power (c : ClaimMap) : (d.withClaims c).power = d.power := rfl
@[simp] theorem withClaims_freeCount (c : ClaimMap) : (d.withClaims c).freeCount = d.freeCount := rfl

@[simp] theorem withAccounts_line (a : Accounts) : (d.withAccounts a).line = d.line := rfl
@[simp] theorem withAccounts_peers (a : Accounts) : (d.withAccounts a).peers = d.peers := rfl
@[simp] theorem withAccounts_claims (a : Accounts) : (d.withAccounts a).claims = d.claims := rfl
@[simp] theorem withAccounts_accounts (a : Accounts) : (d.withAccounts a).accounts = a := rfl
@[simp] theorem withAccounts_engine (a : Accounts) : (d.withAccounts a).engine = d.engine := rfl
@[simp] theorem withAccounts_link (a : Accounts) : (d.withAccounts a).link = d.link := rfl
@[simp] theorem withAccounts_power (a : Accounts) : (d.withAccounts a).power = d.power := rfl
@[simp] theorem withAccounts_freeCount (a : Accounts) : (d.withAccounts a).freeCount = d.freeCount := rfl

@[simp] theorem withEngine_line (e : Engine) : (d.withEngine e).line = d.line := rfl
@[simp] theorem withEngine_peers (e : Engine) : (d.withEngine e).peers = d.peers := rfl
@[simp] theorem withEngine_claims (e : Engine) : (d.withEngine e).claims = d.claims := rfl
@[simp] theorem withEngine_accounts (e : Engine) : (d.withEngine e).accounts = d.accounts := rfl
@[simp] theorem withEngine_engine (e : Engine) : (d.withEngine e).engine = e := rfl
@[simp] theorem withEngine_link (e : Engine) : (d.withEngine e).link = d.link := rfl
@[simp] theorem withEngine_power (e : Engine) : (d.withEngine e).power = d.power := rfl
@[simp] theorem withEngine_freeCount (e : Engine) : (d.withEngine e).freeCount = d.freeCount := rfl

@[simp] theorem withLink_line (l : DriveLink) : (d.withLink l).line = d.line := rfl
@[simp] theorem withLink_peers (l : DriveLink) : (d.withLink l).peers = d.peers := rfl
@[simp] theorem withLink_claims (l : DriveLink) : (d.withLink l).claims = d.claims := rfl
@[simp] theorem withLink_accounts (l : DriveLink) : (d.withLink l).accounts = d.accounts := rfl
@[simp] theorem withLink_engine (l : DriveLink) : (d.withLink l).engine = d.engine := rfl
@[simp] theorem withLink_link (l : DriveLink) : (d.withLink l).link = l := rfl
@[simp] theorem withLink_power (l : DriveLink) : (d.withLink l).power = d.power := rfl
@[simp] theorem withLink_freeCount (l : DriveLink) : (d.withLink l).freeCount = d.freeCount := rfl

@[simp] theorem withPower_line (p : Power) : (d.withPower p).line = d.line := rfl
@[simp] theorem withPower_peers (p : Power) : (d.withPower p).peers = d.peers := rfl
@[simp] theorem withPower_claims (p : Power) : (d.withPower p).claims = d.claims := rfl
@[simp] theorem withPower_accounts (p : Power) : (d.withPower p).accounts = d.accounts := rfl
@[simp] theorem withPower_engine (p : Power) : (d.withPower p).engine = d.engine := rfl
@[simp] theorem withPower_link (p : Power) : (d.withPower p).link = d.link := rfl
@[simp] theorem withPower_power (p : Power) : (d.withPower p).power = p := rfl
@[simp] theorem withPower_freeCount (p : Power) : (d.withPower p).freeCount = d.freeCount := rfl

/-! ## Parts of the Handover Engine -/

@[simp] theorem withTable_engine (t : List (Option Record)) : (d.withTable t).engine = { d.engine with table := t } := rfl
@[simp] theorem withRun_engine (r : RunList) : (d.withRun r).engine = { d.engine with run := r } := rfl
@[simp] theorem withAdoption_engine (a : Adoption) : (d.withAdoption a).engine = { d.engine with adoption := a } := rfl
@[simp] theorem withCeding_engine (c : Ceding) : (d.withCeding c).engine = { d.engine with ceding := c } := rfl
@[simp] theorem withTable_line (t : List (Option Record)) : (d.withTable t).line = d.line := rfl
@[simp] theorem withRun_line (r : RunList) : (d.withRun r).line = d.line := rfl
@[simp] theorem withAdoption_line (a : Adoption) : (d.withAdoption a).line = d.line := rfl
@[simp] theorem withCeding_line (c : Ceding) : (d.withCeding c).line = d.line := rfl
@[simp] theorem withTable_peers (t : List (Option Record)) : (d.withTable t).peers = d.peers := rfl
@[simp] theorem withRun_peers (r : RunList) : (d.withRun r).peers = d.peers := rfl
@[simp] theorem withAdoption_peers (a : Adoption) : (d.withAdoption a).peers = d.peers := rfl
@[simp] theorem withCeding_peers (c : Ceding) : (d.withCeding c).peers = d.peers := rfl
@[simp] theorem withTable_claims (t : List (Option Record)) : (d.withTable t).claims = d.claims := rfl
@[simp] theorem withRun_claims (r : RunList) : (d.withRun r).claims = d.claims := rfl
@[simp] theorem withAdoption_claims (a : Adoption) : (d.withAdoption a).claims = d.claims := rfl
@[simp] theorem withCeding_claims (c : Ceding) : (d.withCeding c).claims = d.claims := rfl
@[simp] theorem withTable_accounts (t : List (Option Record)) : (d.withTable t).accounts = d.accounts := rfl
@[simp] theorem withRun_accounts (r : RunList) : (d.withRun r).accounts = d.accounts := rfl
@[simp] theorem withAdoption_accounts (a : Adoption) : (d.withAdoption a).accounts = d.accounts := rfl
@[simp] theorem withCeding_accounts (c : Ceding) : (d.withCeding c).accounts = d.accounts := rfl
@[simp] theorem withTable_link (t : List (Option Record)) : (d.withTable t).link = d.link := rfl
@[simp] theorem withRun_link (r : RunList) : (d.withRun r).link = d.link := rfl
@[simp] theorem withAdoption_link (a : Adoption) : (d.withAdoption a).link = d.link := rfl
@[simp] theorem withCeding_link (c : Ceding) : (d.withCeding c).link = d.link := rfl
@[simp] theorem withTable_power (t : List (Option Record)) : (d.withTable t).power = d.power := rfl
@[simp] theorem withRun_power (r : RunList) : (d.withRun r).power = d.power := rfl
@[simp] theorem withAdoption_power (a : Adoption) : (d.withAdoption a).power = d.power := rfl
@[simp] theorem withCeding_power (c : Ceding) : (d.withCeding c).power = d.power := rfl

/-! ## Slots and accounts -/

@[simp] theorem setSlot_line (i : Nat) (r : Option Record) : (d.setSlot i r).line = d.line := rfl
@[simp] theorem setSlot_peers (i : Nat) (r : Option Record) : (d.setSlot i r).peers = d.peers := rfl
@[simp] theorem setSlot_claims (i : Nat) (r : Option Record) : (d.setSlot i r).claims = d.claims := rfl
@[simp] theorem setSlot_accounts (i : Nat) (r : Option Record) : (d.setSlot i r).accounts = d.accounts := rfl
@[simp] theorem setSlot_engine (i : Nat) (r : Option Record) :
    (d.setSlot i r).engine = { d.engine with table := d.engine.table.set i r } := rfl
@[simp] theorem setSlot_link (i : Nat) (r : Option Record) : (d.setSlot i r).link = d.link := rfl
@[simp] theorem setSlot_power (i : Nat) (r : Option Record) : (d.setSlot i r).power = d.power := rfl
@[simp] theorem setSlot_freeCount (i : Nat) (r : Option Record) : (d.setSlot i r).freeCount = d.freeCount := rfl

@[simp] theorem setAccount_line (p : AccountPos) (a : Option Account) : (d.setAccount p a).line = d.line := by
  cases p <;> rfl
@[simp] theorem setAccount_peers (p : AccountPos) (a : Option Account) : (d.setAccount p a).peers = d.peers := by
  cases p <;> rfl
@[simp] theorem setAccount_claims (p : AccountPos) (a : Option Account) : (d.setAccount p a).claims = d.claims := by
  cases p <;> rfl
@[simp] theorem setAccount_engine (p : AccountPos) (a : Option Account) : (d.setAccount p a).engine = d.engine := by
  cases p <;> rfl
@[simp] theorem setAccount_link (p : AccountPos) (a : Option Account) : (d.setAccount p a).link = d.link := by
  cases p <;> rfl
@[simp] theorem setAccount_power (p : AccountPos) (a : Option Account) : (d.setAccount p a).power = d.power := by
  cases p <;> rfl

/-! ## Reading a slot after writing one -/

theorem recordAt_eq (i : Nat) (r : Record) : d.recordAt i = some r ↔ d.engine.table[i]? = some (some r) := by
  unfold Device.recordAt
  split <;> simp_all

theorem recordAt_lt {i : Nat} {r : Record} (h : d.recordAt i = some r) : i < d.engine.table.length := by
  rw [recordAt_eq] at h
  exact (List.getElem?_eq_some_iff.mp h).1

theorem recordAt_setSlot_self {i : Nat} (r : Option Record) (h : i < d.engine.table.length) :
    (d.setSlot i r).recordAt i = r := by
  simp [Device.recordAt, h]

theorem recordAt_setSlot_of_ne {i j : Nat} (r : Option Record) (h : i ≠ j) : (d.setSlot i r).recordAt j = d.recordAt j := by
  simp [Device.recordAt, h]

end Sys2Proof.Machine
end

