-- ==== Sys2Proof/Laws/Moves.lean ====
section
/-! SUPPORT. What the blocks' operations can do to the part, said once: `Moves`. Every operation of the Claim Map, the Exposure
Accountant, the Handover Engine and the Peer Roster is a row of the elementary moves below. What no elementary move touches, no such
operation touches; what every elementary move keeps, every such operation keeps. -/

namespace Sys2Proof.Machine

/-- A row of elementary moves; the roster changes only when `R` holds, the station state and its timers only when `S` holds. -/
inductive Moves (R S : Prop) : Device → Device → Prop
  | refl (d : Device) : Moves R S d d
  | entries {d e : Device} (es : List Claim) : Moves R S d e → Moves R S d (e.withEntries es)
  | slot {d e : Device} (i : Nat) (r : Option Record) : Moves R S d e → Moves R S d (e.setSlot i r)
  | account {d e : Device} (p : AccountPos) (a : Option Account) : Moves R S d e → Moves R S d (e.setAccount p a)
  | run {d e : Device} (r : RunList) : Moves R S d e → Moves R S d (e.withRun r)
  | adoption {d e : Device} (a : Adoption) : Moves R S d e → Moves R S d (e.withAdoption a)
  | ceding {d e : Device} (c : Ceding) : Moves R S d e → Moves R S d (e.withCeding c)
  | counter {d e : Device} (n : Byte) : Moves R S d e → Moves R S d (e.withEngine { e.engine with tagCounter := n })
  | station {d e : Device} (st : StationState) (j s : Option Nat) (h : Bool) (hs : S) :
      Moves R S d e →
      Moves R S d (e.withPeers { e.peers with state := st, joinTimer := j, silenceTimer := s, hostReturned := h })
  | roster {d e : Device} (h : R) (es : List RosterEntry)
      (hl : d.peers.roster.length ≤ Config.rosterSize → es.length ≤ Config.rosterSize) :
      Moves R S d e → Moves R S d (e.withRoster es)
  | flags {d e : Device} (f : SummaryFlags) : Moves R S d e → Moves R S d (e.withLink { e.link with flags := f })
  | notice {d e : Device} (n : Notice) (h : e.link.notices.length < Config.noticeQueueSize) :
      Moves R S d e → Moves R S d (e.queueNotice n)
  | send {d e : Device} (s : Sender) (b : Body) (hs : s ≠ .relay := by decide) : Moves R S d e → Moves R S d (e.offer s b).1
  | free {d e : Device} (n : Nat) : Moves R S d e → Moves R S d { e with freeCount := n }

variable {P S : Prop} {d e : Device}

/-- Without leave to change the roster, it stays. -/
theorem Moves.roster_eq (h : Moves P S d e) (hp : ¬P) : e.peers.roster = d.peers.roster := by
  induction h with
  | refl => rfl
  | roster hp' => exact absurd hp' hp
  | account p a _ ih => cases p <;> exact ih
  | entries _ _ ih => exact ih
  | slot _ _ _ ih => exact ih
  | run _ _ ih => exact ih
  | adoption _ _ ih => exact ih
  | ceding _ _ ih => exact ih
  | counter _ _ ih => exact ih
  | station _ _ _ _ _ _ ih => exact ih
  | flags _ _ ih => exact ih
  | notice _ _ _ ih => exact ih
  | send _ _ _ _ ih => exact ih
  | free _ _ ih => exact ih

/-- R42: the roster keeps within its 24 entries. -/
theorem Moves.roster_le (h : Moves P S d e) (hd : d.peers.roster.length ≤ Config.rosterSize) :
    e.peers.roster.length ≤ Config.rosterSize := by
  induction h with
  | refl => exact hd
  | roster _ _ hl => exact hl hd
  | account p a _ ih => cases p <;> exact ih
  | entries _ _ ih => exact ih
  | slot _ _ _ ih => exact ih
  | run _ _ ih => exact ih
  | adoption _ _ ih => exact ih
  | ceding _ _ ih => exact ih
  | counter _ _ ih => exact ih
  | station _ _ _ _ _ _ ih => exact ih
  | flags _ _ ih => exact ih
  | notice _ _ _ ih => exact ih
  | send _ _ _ _ ih => exact ih
  | free _ _ ih => exact ih

theorem Moves.trans {a b c : Device} (h : Moves P S a b) (k : Moves P S b c) : Moves P S a c := by
  induction k with
  | refl => exact h
  | entries es _ ih => exact .entries es ih
  | slot i r _ ih => exact .slot i r ih
  | account p x _ ih => exact .account p x ih
  | run r _ ih => exact .run r ih
  | adoption x _ ih => exact .adoption x ih
  | ceding x _ ih => exact .ceding x ih
  | counter n _ ih => exact .counter n ih
  | station st j s r hs _ ih => exact .station st j s r hs ih
  | roster hp es hl _ ih => exact .roster hp es (fun ha => hl (h.roster_le ha)) ih
  | flags f _ ih => exact .flags f ih
  | notice n hn _ ih => exact .notice n hn ih
  | send s x hs _ ih => exact .send s x hs ih
  | free n _ ih => exact .free n ih

/-- A fold of operations each of which is a row of moves. -/
theorem Moves.foldl {α : Type} {f : Device → α → Device} (hf : ∀ a e, Moves P S d e → Moves P S d (f e a)) (l : List α)
    (h : Moves P S d e) : Moves P S d (l.foldl f e) := by
  induction l generalizing e with
  | nil => exact h
  | cons a l ih => exact ih (hf a e h)

theorem Moves.forSlots {f : Nat → Device → Device} (hf : ∀ i e, Moves P S d e → Moves P S d (f i e)) (h : Moves P S d e) :
    Moves P S d (forSlots f e) :=
  Moves.foldl (f := fun d i => f i d) (fun i e => hf i e) slotList h

/-! ## Ops -/

@[simp] theorem Moves.modRecord (i : Nat) (f : Record → Record) (h : Moves P S d e) : Moves P S d (e.modRecord i f) := by
  unfold Device.modRecord
  split
  · exact .slot _ _ h
  · exact h

@[simp] theorem Moves.pushNotice (n : Notice) (h : Moves P S d e) : Moves P S d (e.pushNotice n) := by
  unfold Device.pushNotice
  split
  · exact .notice n ‹_› h
  · exact .flags _ h

theorem Moves.moveOne (hn : e.link.notices.length < Config.noticeQueueSize) (h : Moves P S d e) : Moves P S d e.moveOne := by
  unfold Device.moveOne
  split
  · split
    · split
      · split
        · exact .slot _ _ (.notice _ hn h)
        · exact .slot _ _ (.notice _ hn h)
      · exact h
    · exact h
  · split
    · exact .run _ (.notice _ hn h)
    · exact h

theorem Moves.moveOwedN (n : Nat) (h : Moves P S d e) : Moves P S d (moveOwedN n e) := by
  induction n generalizing e with
  | zero => exact h
  | succ n ih =>
    unfold Machine.moveOwedN
    split
    · rename_i hc
      simp only [Bool.and_eq_true, decide_eq_true_eq] at hc
      exact ih (h.moveOne hc.1)
    · exact h

@[simp] theorem Moves.moveOwed (h : Moves P S d e) : Moves P S d e.moveOwed := by
  unfold Device.moveOwed
  split
  · exact h.moveOwedN _
  · exact h

@[simp] theorem Moves.raise (i : Nat) (k : NoticeKind) (o : OutcomePair) (v : List Byte) (h : Moves P S d e) :
    Moves P S d (e.raise i k o v) := (h.modRecord _ _).moveOwed

@[simp] theorem Moves.raisePartnerLost (i : Nat) (x : Detail) (v : Byte) (h : Moves P S d e) :
    Moves P S d (e.raisePartnerLost i x v) := h.raise ..

@[simp] theorem Moves.raiseCustody (i : Nat) (h : Moves P S d e) : Moves P S d (e.raiseCustody i) := h.raise ..

@[simp] theorem Moves.raiseEnded (i : Nat) (h : Moves P S d e) : Moves P S d (e.raiseEnded i) := by
  unfold Device.raiseEnded
  split
  · exact h.raise ..
  · exact h

@[simp] theorem Moves.sendAbsorbed (s : Sender) (b : Body) (h : Moves P S d e) (hs : s ≠ .relay := by decide) :
    Moves P S d (e.sendAbsorbed s b) := .send s b hs h

/-! ## Exposure Accountant -/

@[simp] theorem Moves.spentCheck (p : AccountPos) (h : Moves P S d e) : Moves P S d (e.spentCheck p) := by
  unfold Device.spentCheck
  split
  · split
    · split
      · exact (Moves.flags _ (.account _ _ h)).pushNotice _
      · exact (Moves.flags _ (.account _ _ h)).raise ..
    · exact h
  · exact h

@[simp] theorem Moves.createAccount (p : AccountPos) (b : BinId) (c : BinClass) (n : Nat) (l : Location) (h : Moves P S d e) :
    Moves P S d (e.createAccount p b c n l) := (Moves.account _ _ h).spentCheck _

@[simp] theorem Moves.moveAccount (p q : AccountPos) (l : Location) (h : Moves P S d e) : Moves P S d (e.moveAccount p q l) := by
  unfold Device.moveAccount
  split
  · exact .account _ _ (.account _ _ h)
  · exact h

@[simp] theorem Moves.removeAccount (p : AccountPos) (h : Moves P S d e) : Moves P S d (e.removeAccount p) := .account _ _ h

@[simp] theorem Moves.clearWait (h : Moves P S d e) : Moves P S d e.clearWait := by
  unfold Device.clearWait
  split
  · exact .account _ _ h
  · exact h

@[simp] theorem Moves.accountingSecond (o : List AccountPos) (h : Moves P S d e) : Moves P S d (e.accountingSecond o) := by
  unfold Device.accountingSecond
  have key : Moves P S d ((orderBy o allPositions).foldl (fun d p => d.countPosition p) e) := by
    refine Moves.foldl (fun p e h => ?_) _ h
    unfold Device.countPosition
    split
    · exact (Moves.account _ _ h).spentCheck _
    · exact h
  generalize (orderBy o allPositions).foldl (fun d p => d.countPosition p) e = x at key ⊢
  unfold Device.countWait
  split
  · split
    · exact .account _ _ key
    · exact key
  · exact key

@[simp] theorem Moves.chargeDowntime (n : Nat) (h : Moves P S d e) : Moves P S d (e.chargeDowntime n) := by
  unfold Device.chargeDowntime
  refine Moves.foldl (fun p e h => ?_) _ h
  unfold Device.chargePosition
  split
  · exact (Moves.account _ _ h).spentCheck _
  · exact h

/-! ## Claim Map -/

@[simp] theorem Moves.modOwn (c : Cell) (f : Claim → Claim) (h : Moves P S d e) : Moves P S d (e.modOwn c f) := .entries _ h

@[simp] theorem Moves.removeOwn (c : Cell) (h : Moves P S d e) : Moves P S d (e.removeOwn c) := .entries _ h

@[simp] theorem Moves.clearRival (c : Cell) (st : Station) (h : Moves P S d e) : Moves P S d (e.clearRival c st) := h.modOwn ..

@[simp] theorem Moves.removeHeard (c : Cell) (st : Station) (h : Moves P S d e) : Moves P S d (e.removeHeard c st) :=
  (Moves.entries _ h).clearRival ..

@[simp] theorem Moves.writeHeard (c : Cell) (st : Station) (t : Tag) (k : Nat) (p : Phase) (h : Moves P S d e) :
    Moves P S d (e.writeHeard c st t k p) := by
  unfold Device.writeHeard
  split
  · exact .entries _ h
  · exact (Moves.entries _ h).clearRival ..

@[simp] theorem Moves.evict (s : Option Station) (h : Moves P S d e) : Moves P S d (e.evict s).1 := by
  unfold Device.evict
  split
  · exact h
  · exact h.removeHeard ..
  · exact .free _ (h.removeHeard ..)

@[simp] theorem Moves.makeRoom (s : Option Station) (h : Moves P S d e) : Moves P S d (e.makeRoom s).1 := by
  unfold Device.makeRoom
  split
  · exact h
  · exact h.evict _

@[simp] theorem Moves.recordHeard (s : Option Station) (c : Cell) (st : Station) (t : Tag) (k : Nat) (p : Phase)
    (h : Moves P S d e) : Moves P S d (e.recordHeard s c st t k p).1 := by
  unfold Device.recordHeard
  split
  · exact h.writeHeard ..
  · exact (h.makeRoom _).writeHeard ..

@[simp] theorem Moves.queueOffer (i : Nat) (h : Moves P S d e) : Moves P S d (e.queueOffer i) := by
  unfold Device.queueOffer
  split
  · exact (Moves.slot _ _ h).sendAbsorbed ..
  · exact h

@[simp] theorem Moves.enterOffering (i : Nat) (h : Moves P S d e) : Moves P S d (e.enterOffering i) := by
  unfold Device.enterOffering
  dsimp only
  split
  · exact (h.modRecord ..).queueOffer _
  · exact h.modRecord ..

@[simp] theorem Moves.passStake (c : Cell) (i : Nat) (t : Tag) (h : Moves P S d e) : Moves P S d (e.passStake c i t) :=
  (h.modOwn ..).enterOffering _

@[simp] theorem Moves.setRequest (i : Nat) (s : RequestStatus) (h : Moves P S d e) : Moves P S d (e.setRequest i s) := h.modRecord ..

@[simp] theorem Moves.stakeDropped (c : Cell) (i : Nat) (h : Moves P S d e) : Moves P S d (e.stakeDropped c i) :=
  (h.removeOwn _).modRecord ..

@[simp] theorem Moves.stakeSent (c : Cell) (h : Moves P S d e) : Moves P S d (e.stakeSent c) := h.modOwn ..

@[simp] theorem Moves.stakeCell (i : Nat) (r : Record) (k : Nat) (h : Moves P S d e) : Moves P S d (e.stakeCell i r k).1 := by
  unfold Device.stakeCell
  dsimp only
  split
  · exact .entries _ (.send _ _ (by decide) ((h.makeRoom _).modRecord ..))
  · exact (Moves.send _ _ (by decide) ((h.makeRoom _).modRecord ..)).stakeDropped ..

theorem Moves.attempt (n i : Nat) (h : Moves P S d e) : Moves P S d (attempt n i e) := by
  induction n generalizing i e with
  | zero => exact h
  | succ n ih =>
    unfold Machine.attempt
    split
    · exact h
    · split
      · split
        · split
          · exact h.passStake ..
          · exact h.setRequest ..
        · split
          · exact h.setRequest ..
          · dsimp only
            split
            · exact h.setRequest ..
            · split
              · exact h.setRequest ..
              · refine Moves.foldl (fun c e h => ?_) _ (h.stakeCell ..)
                refine Moves.foldl (fun j e h => ?_) _ h
                split
                · exact ih j h
                · exact h
      · exact h

@[simp] theorem Moves.stakingAttempt (i : Nat) (h : Moves P S d e) : Moves P S d (e.stakingAttempt i) := h.attempt ..

@[simp] theorem Moves.retry (cs : List Cell) (p : RequestStatus → Bool) (h : Moves P S d e) : Moves P S d (e.retry cs p) := by
  refine Moves.forSlots (fun i e h => ?_) h
  split
  · exact h.stakingAttempt _
  · exact h

@[simp] theorem Moves.retryRemoved (cs : List Cell) (h : Moves P S d e) : Moves P S d (e.retryRemoved cs) := h.retry ..

@[simp] theorem Moves.retryWaiting (l : List Nat) (h : Moves P S d e) : Moves P S d (e.retryWaiting l) := by
  refine Moves.foldl (fun i e h => ?_) _ h
  split
  · exact h.stakingAttempt _
  · exact h

@[simp] theorem Moves.retryReleased (c : Cell) (h : Moves P S d e) : Moves P S d (e.retryReleased c) := h.retry ..

@[simp] theorem Moves.retryAll (h : Moves P S d e) : Moves P S d e.retryAll := by
  refine Moves.forSlots (fun i e h => ?_) h
  split
  · exact h.stakingAttempt _
  · exact h

@[simp] theorem Moves.enterStaking (i : Nat) (h : Moves P S d e) : Moves P S d (e.enterStaking i) :=
  (h.modRecord ..).stakingAttempt _

@[simp] theorem Moves.dropStake (x : Claim) (h : Moves P S d e) : Moves P S d (e.dropStake x) := (h.removeOwn _).sendAbsorbed ..

@[simp] theorem Moves.releaseStake (x : Claim) (h : Moves P S d e) : Moves P S d (e.releaseStake x) :=
  (h.dropStake _).retryReleased _

@[simp] theorem Moves.lingerStake (c : Cell) (h : Moves P S d e) : Moves P S d (e.lingerStake c) := h.modOwn ..

@[simp] theorem Moves.holdForRun (c : Cell) (h : Moves P S d e) : Moves P S d (e.holdForRun c) := h.modOwn ..

@[simp] theorem Moves.recordStakeEnds (i : Nat) (g : Bool) (h : Moves P S d e) : Moves P S d (e.recordStakeEnds i g) := by
  unfold Device.recordStakeEnds
  split
  · exact h
  · split
    · exact h.releaseStake _
    · split
      · exact h.holdForRun _
      · split
        · split
          · exact h.passStake ..
          · exact h
        · exact h.lingerStake _

@[simp] theorem Moves.runHoldEnds (h : Moves P S d e) : Moves P S d e.runHoldEnds := by
  unfold Device.runHoldEnds
  split
  · exact (h.lingerStake _).retryReleased _
  · exact h

@[simp] theorem Moves.contestedYields (x : Claim) (s : RequestStatus) (h : Moves P S d e) : Moves P S d (e.contestedYields x s) := by
  unfold Device.contestedYields
  dsimp only
  split
  · exact (h.modRecord ..).releaseStake _
  · exact h.releaseStake _

@[simp] theorem Moves.placeStake (i : Nat) (h : Moves P S d e) : Moves P S d (e.placeStake i) := by
  unfold Device.placeStake
  split
  · exact h.modOwn ..
  · exact h

@[simp] theorem Moves.cedeStake (i : Nat) (h : Moves P S d e) : Moves P S d (e.cedeStake i) := by
  unfold Device.cedeStake
  split
  · exact h.removeOwn _
  · exact h

@[simp] theorem Moves.settleExpires (x : Claim) (h : Moves P S d e) : Moves P S d (e.settleExpires x) := by
  unfold Device.settleExpires
  dsimp only
  split
  · exact (h.modOwn ..).enterOffering _
  · exact h.modOwn ..

@[simp] theorem Moves.settleTick (c : Cell) (h : Moves P S d e) : Moves P S d (e.settleTick c) := by
  unfold Device.settleTick
  split
  · split
    · split
      · exact h.settleExpires _
      · exact h.modOwn ..
    · exact h
  · exact h

@[simp] theorem Moves.lingerTick (c : Cell) (h : Moves P S d e) : Moves P S d (e.lingerTick c) := by
  unfold Device.lingerTick
  split
  · split
    · split
      · exact h.releaseStake _
      · exact h.modOwn ..
    · exact h
  · exact h

@[simp] theorem Moves.removeHeardAll (p : Claim → Bool) (h : Moves P S d e) : Moves P S d (e.removeHeardAll p).1 :=
  Moves.foldl (fun _ _ h => h.removeHeard ..) _ h

@[simp] theorem Moves.claimsAge (h : Moves P S d e) : Moves P S d e.claimsAge :=
  ((Moves.entries _ h).removeHeardAll _).retryRemoved _

@[simp] theorem Moves.claimantLost (st : Station) (h : Moves P S d e) : Moves P S d (e.claimantLost st) :=
  (h.removeHeardAll _).retryRemoved _

@[simp] theorem Moves.claimMapBeacon (cs : List Cell) (h : Moves P S d e) : Moves P S d (e.claimMapBeacon cs) := by
  unfold Device.claimMapBeacon
  exact (Moves.foldl (fun _ _ h => h.lingerTick _) _ (Moves.foldl (fun _ _ h => h.settleTick _) _ h.claimsAge)).retryAll

@[simp] theorem Moves.watchHit (k : Nat) (c : Cell) (st : Station) (h : Moves P S d e) : Moves P S d (e.watchHit k c st) :=
  .flags _ (h.pushNotice _)

@[simp] theorem Moves.watchHits (c : Cell) (st : Station) (h : Moves P S d e) : Moves P S d (e.watchHits c st) := by
  refine Moves.foldl (fun k e h => ?_) _ h
  split
  · split
    · exact h.watchHit ..
    · exact h
  · exact h

@[simp] theorem Moves.hearStake (st : Station) (b : StakeBody) (h : Moves P S d e) : Moves P S d (e.hearStake st b) := by
  unfold Device.hearStake
  dsimp only
  split
  · split
    · exact (((h.recordHeard ..).watchHits ..).contestedYields ..).retryWaiting _
    · exact ((h.recordHeard ..).watchHits ..).retryWaiting _
  · exact ((h.recordHeard ..).watchHits ..).retryWaiting _

@[simp] theorem Moves.hearUnstake (st : Station) (b : UnstakeBody) (h : Moves P S d e) : Moves P S d (e.hearUnstake st b) := by
  unfold Device.hearUnstake
  dsimp only
  split
  · exact ((h.removeHeard ..).watchHits ..).retryRemoved _
  · exact (h.removeHeard ..).watchHits ..

@[simp] theorem Moves.transferClaim (c : Cell) (a b : Station) (h : Moves P S d e) : Moves P S d (e.transferClaim c a b) := by
  unfold Device.transferClaim
  split
  · exact ((h.removeHeard ..).writeHeard ..).retryRemoved _
  · exact h

@[simp] theorem Moves.takeAdoptedStake (c : Cell) (i : Nat) (t : Tag) (st : Station) (h : Moves P S d e) :
    Moves P S d (e.takeAdoptedStake c i t st).1 := by
  unfold Device.takeAdoptedStake
  dsimp only
  split
  · exact h.modOwn ..
  · exact .entries _ ((h.removeHeard ..).makeRoom _)

/-! ## Runs and the end of a record -/

@[simp] theorem Moves.endRun (o : OutcomePair) (h : Moves P S d e) : Moves P S d (e.endRun o) :=
  (Moves.runHoldEnds (.run _ h)).moveOwed

@[simp] theorem Moves.advanceRun (b : Bool) (h : Moves P S d e) : Moves P S d (e.advanceRun b).1 := by
  unfold Device.advanceRun
  dsimp only
  split
  · exact (Moves.run _ h).endRun _
  · exact .run _ h

@[simp] theorem Moves.runRecordEnded (n : Nat) (o : OutcomePair) (h : Moves P S d e) : Moves P S d (e.runRecordEnded n o).1 := by
  unfold Device.runRecordEnded
  dsimp only
  split
  · split
    · split
      · exact (Moves.run _ h).endRun _
      · exact (Moves.run _ h).advanceRun _
    · exact (Moves.run _ h).endRun _
  · exact h

@[simp] theorem Moves.runRecordCeded (n : Nat) (h : Moves P S d e) : Moves P S d (e.runRecordCeded n) := by
  unfold Device.runRecordCeded
  dsimp only
  split
  · exact (Moves.run _ h).endRun _
  · exact h

@[simp] theorem Moves.serviceTick (h : Moves P S d e) : Moves P S d e.serviceTick := by
  unfold Device.serviceTick
  split
  · split
    · split
      · exact .run _ h
      · exact h.endRun _
    · exact h
  · exact h

@[simp] theorem Moves.leaveTurn (t : Tag) (h : Moves P S d e) : Moves P S d (e.leaveTurn t) := by
  unfold Device.leaveTurn
  split
  · exact .ceding _ h
  · exact h

@[simp] theorem Moves.endGiver (i : Nat) (o : OutcomePair) (v : Nat) (h : Moves P S d e) : Moves P S d (e.endGiver i o v) := by
  unfold Device.endGiver
  split
  · dsimp only
    split
    · exact ((Moves.leaveTurn _ (.slot _ _ h)).recordStakeEnds ..).raiseEnded _
    · exact (((Moves.leaveTurn _ (.slot _ _ h)).runRecordEnded ..).recordStakeEnds ..).raiseEnded _
  · exact h

@[simp] theorem Moves.endTaker (i : Nat) (o : OutcomePair) (h : Moves P S d e) : Moves P S d (e.endTaker i o) := by
  unfold Device.endTaker
  split
  · dsimp only
    split
    · exact (Moves.leaveTurn _ (.slot _ _ (h.removeAccount _))).raiseEnded _
    · exact (Moves.leaveTurn _ (.slot _ _ h)).raiseEnded _
  · exact h

/-! ## The giver -/

@[simp] theorem Moves.createGiver (i : Nat) (a : Account) (c : Cell) (t : Station) (n : Nat) (h : Moves P S d e) :
    Moves P S d (e.createGiver i a c t n) := by
  unfold Device.createGiver
  dsimp only
  split
  · exact (Moves.clearWait (.slot _ _ (.counter _ h))).enterStaking _
  · exact Moves.clearWait (.slot _ _ (.counter _ h))

@[simp] theorem Moves.sendCancel (t : Tag) (b : Byte) (h : Moves P S d e) : Moves P S d (e.sendCancel t b) := h.sendAbsorbed ..

@[simp] theorem Moves.setdownDropped (i : Nat) (h : Moves P S d e) : Moves P S d (e.setdownDropped i) := h.modRecord ..

@[simp] theorem Moves.sendSetdown (i : Nat) (h : Moves P S d e) : Moves P S d (e.sendSetdown i) := by
  unfold Device.sendSetdown
  split
  · dsimp only
    split
    · exact (Moves.send _ _ (by decide) h).modRecord ..
    · exact (Moves.send _ _ (by decide) h).setdownDropped _
  · exact h

@[simp] theorem Moves.bindDropped (i : Nat) (h : Moves P S d e) : Moves P S d (e.bindDropped i) := by
  unfold Device.bindDropped
  split
  · split
    · exact ((Moves.slot _ _ h).raisePartnerLost ..).sendCancel ..
    · exact h
  · exact h

@[simp] theorem Moves.sendBind (i : Nat) (h : Moves P S d e) : Moves P S d (e.sendBind i) := by
  unfold Device.sendBind
  split
  · dsimp only
    split
    · exact (Moves.send _ _ (by decide) h).modRecord ..
    · exact (Moves.send _ _ (by decide) h).bindDropped _
  · exact h

@[simp] theorem Moves.offerWindowExpires (i : Nat) (h : Moves P S d e) : Moves P S d (e.offerWindowExpires i) := by
  unfold Device.offerWindowExpires
  split
  · split
    · exact (Moves.slot _ _ h).raisePartnerLost ..
    · exact h.endGiver ..
  · exact h

@[simp] theorem Moves.offerTick (i : Nat) (h : Moves P S d e) : Moves P S d (e.offerTick i) := by
  unfold Device.offerTick
  split
  · split
    · dsimp only
      split
      · exact (Moves.slot _ _ h).queueOffer _
      · split
        · exact (Moves.slot _ _ h).queueOffer _
        · split
          · exact (Moves.slot _ _ h).offerWindowExpires _
          · exact .slot _ _ h
    · exact h
  · exact h

@[simp] theorem Moves.setdownTick (i : Nat) (h : Moves P S d e) : Moves P S d (e.setdownTick i) := by
  unfold Device.setdownTick
  split
  · exact (h.modRecord ..).sendSetdown _
  · exact h

@[simp] theorem Moves.giverAgree (i : Nat) (r : Record) (st : Station) (h : Moves P S d e) : Moves P S d (e.giverAgree i r st) := by
  unfold Device.giverAgree
  dsimp only
  split
  · exact (((Moves.slot _ _ h).raise ..).sendBind _).sendSetdown _
  · exact ((Moves.slot _ _ h).raise ..).sendBind _

@[simp] theorem Moves.giverDecline (i : Nat) (r : Record) (b : Byte) (h : Moves P S d e) : Moves P S d (e.giverDecline i r b) := by
  unfold Device.giverDecline
  split
  · exact (Moves.slot _ _ h).raisePartnerLost ..
  · exact h

@[simp] theorem Moves.giverLifted (i : Nat) (h : Moves P S d e) : Moves P S d (e.giverLifted i) := (h.removeAccount _).endGiver ..

@[simp] theorem Moves.giverHearLifted (i : Nat) (r : Record) (b : BinId) (h : Moves P S d e) :
    Moves P S d (e.giverHearLifted i r b) := by
  unfold Device.giverHearLifted
  split
  · split
    · exact h.giverLifted _
    · exact h.raiseCustody _
  · split
    · exact h.raiseCustody _
    · exact h

@[simp] theorem Moves.giverHearCancel (i : Nat) (r : Record) (b : Byte) (h : Moves P S d e) :
    Moves P S d (e.giverHearCancel i r b) := by
  unfold Device.giverHearCancel
  split
  · exact (Moves.slot _ _ h).raisePartnerLost ..
  · exact h

@[simp] theorem Moves.giverPartnerLost (i : Nat) (r : Record) (h : Moves P S d e) : Moves P S d (e.giverPartnerLost i r) := by
  unfold Device.giverPartnerLost
  split
  · exact h.raisePartnerLost ..
  · split
    · exact (Moves.slot _ _ h).raisePartnerLost ..
    · exact h

@[simp] theorem Moves.giverSetdown (i : Nat) (r : Record) (h : Moves P S d e) : Moves P S d (e.giverSetdown i r) := by
  unfold Device.giverSetdown
  dsimp only
  split
  · exact (Moves.placeStake _ (.slot _ _ (h.moveAccount ..))).sendSetdown _
  · exact Moves.placeStake _ (.slot _ _ (h.moveAccount ..))

@[simp] theorem Moves.giverRecover (i : Nat) (r : Record) (h : Moves P S d e) : Moves P S d (e.giverRecover i r) := by
  unfold Device.giverRecover
  dsimp only
  split
  · exact ((h.moveAccount ..).sendCancel ..).endGiver ..
  · exact (h.moveAccount ..).endGiver ..

@[simp] theorem Moves.giverCancel (i : Nat) (r : Record) (h : Moves P S d e) : Moves P S d (e.giverCancel i r) := by
  unfold Device.giverCancel
  dsimp only
  split
  · exact (h.sendCancel ..).endGiver ..
  · exact h.endGiver ..

@[simp] theorem Moves.giverReoffer (i : Nat) (r : Record) (t : Station) (h : Moves P S d e) :
    Moves P S d (e.giverReoffer i r t) :=
  (Moves.leaveTurn _ (.slot _ _ h)).enterOffering _

@[simp] theorem Moves.engineActive (h : Moves P S d e) : Moves P S d e.engineActive := by
  refine Moves.forSlots (fun i e h => ?_) h
  split
  · exact h.enterStaking _
  · split
    · exact h.queueOffer _
    · exact h

/-! ## The taker -/

@[simp] theorem Moves.sendDecline (t : Tag) (b : Byte) (h : Moves P S d e) : Moves P S d (e.sendDecline t b) := h.sendAbsorbed ..

@[simp] theorem Moves.invite (i : Nat) (st : Station) (b : OfferBody) (h : Moves P S d e) : Moves P S d (e.invite i st b) :=
  (Moves.slot _ _ h).raise ..

@[simp] theorem Moves.newOffer (st : Station) (b : OfferBody) (h : Moves P S d e) : Moves P S d (e.newOffer st b) := by
  unfold Device.newOffer
  split
  · exact h
  · split
    · exact h.sendDecline ..
    · split
      · exact h.invite ..
      · split
        · exact h.sendDecline ..
        · exact h

@[simp] theorem Moves.hearOffer (st : Station) (b : OfferBody) (h : Moves P S d e) : Moves P S d (e.hearOffer st b) := by
  unfold Device.hearOffer
  split
  · split
    · exact h.newOffer ..
    · exact h
  · split
    · exact h.modRecord ..
    · exact h

@[simp] theorem Moves.agreeDropped (i : Nat) (r : DropReason) (h : Moves P S d e) : Moves P S d (e.agreeDropped i r) := by
  unfold Device.agreeDropped
  split
  · exact h.endTaker ..
  · exact h

@[simp] theorem Moves.takerAgree (i : Nat) (r : Record) (h : Moves P S d e) : Moves P S d (e.takerAgree i r) := by
  unfold Device.takerAgree
  dsimp only
  split
  · exact (Moves.send _ _ (by decide) (.slot _ _ h)).modRecord ..
  · exact (Moves.send _ _ (by decide) (.slot _ _ h)).agreeDropped ..

@[simp] theorem Moves.takerDecline (i : Nat) (r : Record) (h : Moves P S d e) : Moves P S d (e.takerDecline i r) :=
  (h.sendDecline ..).endTaker ..

@[simp] theorem Moves.answerTick (i : Nat) (h : Moves P S d e) : Moves P S d (e.answerTick i) := by
  unfold Device.answerTick
  split
  · split
    · dsimp only
      split
      · exact .slot _ _ h
      · exact (Moves.sendDecline _ _ (.slot _ _ h)).endTaker ..
    · exact h
  · exact h

@[simp] theorem Moves.agreedTick (i : Nat) (h : Moves P S d e) : Moves P S d (e.agreedTick i) := by
  unfold Device.agreedTick
  split
  · split
    · dsimp only
      split
      · exact .slot _ _ h
      · exact (Moves.slot _ _ h).endTaker ..
    · exact h
  · exact h

@[simp] theorem Moves.takerHearBind (i : Nat) (r : Record) (t : Station) (h : Moves P S d e) : Moves P S d (e.takerHearBind i r t) := by
  unfold Device.takerHearBind
  split
  · split
    · exact (Moves.slot _ _ h).raise ..
    · exact h
  · split
    · exact h
    · exact h.endTaker ..

@[simp] theorem Moves.takerHearSetdown (i : Nat) (r : Record) (b : SetdownBody) (h : Moves P S d e) :
    Moves P S d (e.takerHearSetdown i r b) := by
  unfold Device.takerHearSetdown
  split
  · split
    · exact h.raiseCustody _
    · split
      · exact h.raiseCustody _
      · exact (Moves.raise _ _ _ _ (.slot _ _ (.account _ _ h))).spentCheck _
  · exact h

@[simp] theorem Moves.liftedDropped (i : Nat) (h : Moves P S d e) : Moves P S d (e.liftedDropped i) := h.modRecord ..

@[simp] theorem Moves.sendLifted (i : Nat) (h : Moves P S d e) : Moves P S d (e.sendLifted i) := by
  unfold Device.sendLifted
  split
  · dsimp only
    split
    · exact (Moves.send _ _ (by decide) (.slot _ _ h)).modRecord ..
    · exact (Moves.send _ _ (by decide) (.slot _ _ h)).liftedDropped _
  · exact h

@[simp] theorem Moves.liftedSent (i : Nat) (h : Moves P S d e) : Moves P S d (e.liftedSent i) := (h.modRecord ..).raiseEnded _

@[simp] theorem Moves.takerLift (i : Nat) (r : Record) (h : Moves P S d e) : Moves P S d (e.takerLift i r) :=
  (Moves.leaveTurn _ (.slot _ _ (h.moveAccount ..))).sendLifted _

@[simp] theorem Moves.liftedTick (i : Nat) (h : Moves P S d e) : Moves P S d (e.liftedTick i) := by
  unfold Device.liftedTick
  split
  · exact h.sendLifted _
  · exact h

@[simp] theorem Moves.takerCancel (i : Nat) (r : Record) (h : Moves P S d e) : Moves P S d (e.takerCancel i r) :=
  (h.sendCancel ..).endTaker ..

@[simp] theorem Moves.takerHearCancel (i : Nat) (r : Record) (b : Byte) (h : Moves P S d e) :
    Moves P S d (e.takerHearCancel i r b) := by
  unfold Device.takerHearCancel
  dsimp only
  split
  · split
    · exact h.endTaker ..
    · exact h.raisePartnerLost ..
  · generalize (b == 2#8 && (match r.outcome with | some o => o.cls == .done | none => false)) = c
    split
    · exact h.raiseCustody _
    · exact h
  · exact h.endTaker ..
  · exact h

@[simp] theorem Moves.takerPartnerLost (i : Nat) (r : Record) (h : Moves P S d e) : Moves P S d (e.takerPartnerLost i r) := by
  unfold Device.takerPartnerLost
  split
  · exact h.raisePartnerLost ..
  · exact h
  · exact h.endTaker ..
  · exact h

@[simp] theorem Moves.partnerLost (st : Station) (h : Moves P S d e) : Moves P S d (e.partnerLost st) := by
  refine Moves.forSlots (fun i e h => ?_) h
  split
  · split
    · split
      · exact h.giverPartnerLost ..
      · exact h.takerPartnerLost ..
    · exact h
  · exact h

@[simp] theorem Moves.partnerLapsed (st : Station) (h : Moves P S d e) : Moves P S d (e.partnerLapsed st) := by
  refine Moves.forSlots (fun i e h => ?_) h
  split
  · exact h.raise ..
  · exact h

@[simp] theorem Moves.partnerChanged (t : Tag) (a b : Station) (h : Moves P S d e) : Moves P S d (e.partnerChanged t a b) := by
  unfold Device.partnerChanged
  split
  · split
    · dsimp only
      split
      · exact (h.modRecord ..).raise ..
      · exact h.modRecord ..
    · exact h
  · exact h

@[simp] theorem Moves.hearAgree (st : Station) (b : AgreeBody) (h : Moves P S d e) : Moves P S d (e.hearAgree st b) := by
  unfold Device.hearAgree
  split
  · split
    · split
      · exact h.giverAgree ..
      · exact h
    · exact h
  · exact h

@[simp] theorem Moves.hearDecline (st : Station) (b : DeclineBody) (h : Moves P S d e) : Moves P S d (e.hearDecline st b) := by
  unfold Device.hearDecline
  split
  · split
    · exact h.giverDecline ..
    · exact h
  · exact h

@[simp] theorem Moves.hearBind (st : Station) (b : BindBody) (h : Moves P S d e) : Moves P S d (e.hearBind st b) := by
  unfold Device.hearBind
  split
  · split
    · exact h
    · exact h.takerHearBind ..
  · exact h

@[simp] theorem Moves.hearSetdown (st : Station) (b : SetdownBody) (h : Moves P S d e) : Moves P S d (e.hearSetdown st b) := by
  unfold Device.hearSetdown
  split
  · split
    · exact h
    · exact h.takerHearSetdown ..
  · exact h

@[simp] theorem Moves.hearLifted (st : Station) (b : LiftedBody) (h : Moves P S d e) : Moves P S d (e.hearLifted st b) := by
  unfold Device.hearLifted
  split
  · split
    · exact h.giverHearLifted ..
    · exact h
  · exact h

@[simp] theorem Moves.hearCancel (st : Station) (b : CancelBody) (h : Moves P S d e) : Moves P S d (e.hearCancel st b) := by
  unfold Device.hearCancel
  split
  · split
    · exact h.giverHearCancel ..
    · exact h.takerHearCancel ..
  · exact h

@[simp] theorem Moves.inferLift (b : BinId) (h : Moves P S d e) : Moves P S d (e.inferLift b) := by
  unfold Device.inferLift
  split
  · refine Moves.forSlots (fun i e h => ?_) h
    split
    · exact h.giverLifted _
    · exact h
  · exact h

/-! ## The station state -/

@[simp] theorem Moves.setStation (hs : S) (s : StationState) (h : Moves P S d e) : Moves P S d (e.setStation s) := .station s _ _ _ hs h

@[simp] theorem Moves.lapseEnded (h : Moves P S d e) : Moves P S d e.lapseEnded := h.pushNotice _

@[simp] theorem Moves.becomeActive (hs : S) (h : Moves P S d e) : Moves P S d e.becomeActive := (h.setStation hs _).engineActive

@[simp] theorem Moves.lapse (hs : S) (h : Moves P S d e) : Moves P S d e.lapse := .ceding _ (h.setStation hs _)

@[simp] theorem Moves.silenceExpires (hs : S) (h : Moves P S d e) : Moves P S d e.silenceExpires := by
  unfold Device.silenceExpires
  dsimp only
  split
  · exact Moves.lapse hs (.station _ _ none _ hs h)
  · exact .station _ _ _ false hs (.station _ _ none _ hs h)
  · exact .station _ _ none _ hs h

@[simp] theorem Moves.joinExpires (hs : S) (o : List Station) (h : Moves P S d e) : Moves P S d (e.joinExpires o) :=
  Moves.foldl (fun _ _ h => h.partnerLost _) _ (Moves.becomeActive hs (.station _ none _ _ hs h))

@[simp] theorem Moves.joinTick (hs : S) (o : List Station) (h : Moves P S d e) : Moves P S d (e.joinTick o) := by
  unfold Device.joinTick
  split
  · split
    · split
      · exact h.joinExpires hs _
      · exact .station _ (some _) _ _ hs h
    · exact h
  · exact h

@[simp] theorem Moves.silenceTick (hs : S) (h : Moves P S d e) : Moves P S d e.silenceTick := by
  unfold Device.silenceTick
  split
  · split
    · exact h.silenceExpires hs
    · exact .station _ _ (some _) _ hs h
  · exact h

@[simp] theorem Moves.requestCompleted (hs : S) (h : Moves P S d e) : Moves P S d e.requestCompleted := by
  have key : Moves P S d (e.withPeers { e.peers with silenceTimer := some Config.hostSilence }) :=
    Moves.station e.peers.state e.peers.joinTimer (some Config.hostSilence) e.peers.hostReturned hs h
  unfold Device.requestCompleted
  dsimp only
  split
  · exact h
  · exact (key.becomeActive hs).lapseEnded
  · exact .station _ _ _ true hs key
  · exact key

/-! ## Adoption -/

@[simp] theorem Moves.endAdoption (o : OutcomePair) (h : Moves P S d e) : Moves P S d (e.endAdoption o) :=
  (Moves.adoption _ h).pushNotice _

@[simp] theorem Moves.adoptDropped (r : DropReason) (h : Moves P S d e) : Moves P S d (e.adoptDropped r) := by
  unfold Device.adoptDropped
  split
  · exact h.endAdoption _
  · exact h

@[simp] theorem Moves.adoptSent (h : Moves P S d e) : Moves P S d e.adoptSent := by
  unfold Device.adoptSent
  split
  · exact .adoption _ h
  · exact h

@[simp] theorem Moves.startAdoption (t : Station) (h : Moves P S d e) : Moves P S d (e.startAdoption t) := by
  unfold Device.startAdoption
  dsimp only
  split
  · exact .adoption _ (.send _ _ (by decide) (.adoption _ h))
  · exact (Moves.send _ _ (by decide) (.adoption _ h)).adoptDropped _

@[simp] theorem Moves.adoptionTick (h : Moves P S d e) : Moves P S d e.adoptionTick := by
  unfold Device.adoptionTick
  split
  · split
    · exact h.endAdoption _
    · exact .adoption _ h
  · exact h

@[simp] theorem Moves.sendReceipt (t : Tag) (c : Station) (o r : Byte) (x : Option Cell) (h : Moves P S d e) :
    Moves P S d (e.sendReceipt t c o r x) := h.sendAbsorbed ..

@[simp] theorem Moves.adoptRecord (i : Nat) (p : CedePart) (h : Moves P S d e) : Moves P S d (e.adoptRecord i p) := by
  unfold Device.adoptRecord
  dsimp only
  split
  · exact Moves.createAccount _ _ _ _ _ (.adoption _ (.slot _ _ h))
  · exact .adoption _ (.slot _ _ h)

@[simp] theorem Moves.adoptAnnounce (i : Nat) (p : CedePart) (c : Station) (h : Moves P S d e) :
    Moves P S d (e.adoptAnnounce i p c) := by
  unfold Device.adoptAnnounce
  dsimp only
  split
  · exact ((h.raise ..).sendReceipt ..).sendSetdown _
  · exact (h.raise ..).sendReceipt ..

@[simp] theorem Moves.acceptCede (i : Nat) (p : CedePart) (c : Station) (h : Moves P S d e) : Moves P S d (e.acceptCede i p c) := by
  unfold Device.acceptCede
  refine Moves.retryRemoved _ (Moves.adoptAnnounce _ _ _ (Moves.adoptRecord _ _ ?_))
  split
  · exact h.takeAdoptedStake ..
  · exact h

@[simp] theorem Moves.judgeCede (p : CedePart) (c : Station) (h : Moves P S d e) : Moves P S d (e.judgeCede p c) := by
  unfold Device.judgeCede
  split
  · exact h.sendReceipt ..
  · split
    · exact h.sendReceipt ..
    · split
      · exact h.sendReceipt ..
      · split
        · exact h.sendReceipt ..
        · split
          · exact h.sendReceipt ..
          · exact h.acceptCede ..

@[simp] theorem Moves.hearCede (st : Station) (b : CedeBody) (h : Moves P S d e) : Moves P S d (e.hearCede st b) := by
  unfold Device.hearCede
  dsimp only
  generalize (if cedeLast b = true then Config.adoptionLastWait else Config.adoptionWait) = w
  split
  · split
    · exact .adoption _ h
    · split
      · exact (Moves.adoption _ h).judgeCede ..
      · exact .adoption _ h
  · exact h

@[simp] theorem Moves.countStranded (t : Tag) (h : Moves P S d e) : Moves P S d (e.countStranded t) := by
  unfold Device.countStranded
  split
  · split
    · exact .ceding _ h
    · exact h
  · exact h

@[simp] theorem Moves.queueCede (t : Tag) (h : Moves P S d e) : Moves P S d (e.queueCede t) := by
  unfold Device.queueCede
  split
  · split
    · exact (Moves.ceding _ h).sendAbsorbed ..
    · exact h
  · exact h

@[simp] theorem Moves.endCeding (hs : S) (h : Moves P S d e) : Moves P S d e.endCeding := by
  unfold Device.endCeding
  dsimp only
  split
  · exact (Moves.becomeActive hs (.station _ _ _ false hs (.ceding _ h))).lapseEnded
  · exact (Moves.ceding _ h).setStation hs _

@[simp] theorem Moves.openEmpty (hs : S) (h : Moves P S d e) : Moves P S d e.openEmpty := by
  unfold Device.openEmpty
  dsimp only
  split
  · exact .ceding _ (.send _ _ (by decide) (.ceding _ h))
  · exact (Moves.send _ _ (by decide) (.ceding _ h)).endCeding hs

@[simp] theorem Moves.openTurn (t : Tag) (h : Moves P S d e) : Moves P S d (e.openTurn t) := (Moves.ceding _ h).queueCede _

theorem Moves.openNext (hs : S) (l : List Tag) (b : Bool) (h : Moves P S d e) : Moves P S d (Device.openNext l b e) := by
  induction l generalizing b e with
  | nil =>
    unfold Device.openNext
    split
    · exact h.openEmpty hs
    · exact h.endCeding hs
  | cons t l ih =>
    unfold Device.openNext
    split
    · exact h.openTurn _
    · exact ih _ (h.countStranded _)

@[simp] theorem Moves.closeTurn (hs : S) (t : Tag) (h : Moves P S d e) : Moves P S d (e.closeTurn t) := by
  unfold Device.closeTurn
  split
  · exact h.endCeding hs
  · exact h.openNext hs ..

@[simp] theorem Moves.beginCeding (hs : S) (a : Station) (h : Moves P S d e) : Moves P S d (e.beginCeding a) := by
  unfold Device.beginCeding
  dsimp only
  split
  · exact Moves.openEmpty hs (.ceding _ (.station _ _ _ false hs h))
  · exact Moves.openTurn _ (.ceding _ (.station _ _ _ false hs h))

@[simp] theorem Moves.hearAdopt (hs : S) (st : Station) (b : AdoptBody) (h : Moves P S d e) : Moves P S d (e.hearAdopt st b) := by
  unfold Device.hearAdopt
  split
  · exact h.beginCeding hs _
  · exact h

@[simp] theorem Moves.turnTick (hs : S) (h : Moves P S d e) : Moves P S d e.turnTick := by
  unfold Device.turnTick
  split
  · split
    · exact h.queueCede _
    · exact (h.countStranded _).closeTurn hs _
  · exact h

@[simp] theorem Moves.emptyCedeEnded (hs : S) (h : Moves P S d e) : Moves P S d e.emptyCedeEnded := by
  unfold Device.emptyCedeEnded
  split
  · exact h.endCeding hs
  · exact h

@[simp] theorem Moves.cedeRecord (i : Nat) (r : Record) (h : Moves P S d e) : Moves P S d (e.cedeRecord i r) := by
  unfold Device.cedeRecord
  dsimp only
  split
  · exact .ceding _ ((Moves.slot _ _ ((h.cedeStake _).removeAccount _)).runRecordCeded _)
  · exact .ceding _ (.slot _ _ ((h.cedeStake _).removeAccount _))

@[simp] theorem Moves.answerTurn (hs : S) (t : Tag) (b : Bool) (h : Moves P S d e) : Moves P S d (e.answerTurn t b) := by
  unfold Device.answerTurn
  dsimp only
  refine Moves.closeTurn hs _ ?_
  split
  · split
    · split
      · split
        · exact h.cedeRecord ..
        · exact (h.raiseCustody _).countStranded _
      · exact h
    · exact h
  · exact h.countStranded _

@[simp] theorem Moves.hearReceipt (hs : S) (st : Station) (b : ReceiptBody) (h : Moves P S d e) : Moves P S d (e.hearReceipt st b) := by
  unfold Device.hearReceipt
  dsimp only
  split
  · split
    · exact h.answerTurn hs ..
    · exact h
  · split
    · split
      · exact (h.partnerChanged ..).transferClaim ..
      · exact h.partnerChanged ..
    · exact h

/-! ## Rivals in a PRESENCE -/

@[simp] theorem Moves.recordYields (i : Nat) (h : Moves P S d e) : Moves P S d (e.recordYields i) := by
  unfold Device.recordYields
  split
  · split
    · exact .slot _ _ h
    · split
      · exact .slot _ _ h
      · split
        · exact (h.sendCancel ..).endGiver ..
        · exact h
  · exact h

@[simp] theorem Moves.heldYields (x : Claim) (h : Moves P S d e) : Moves P S d (e.heldYields x) := by
  unfold Device.heldYields
  dsimp only
  split
  · exact ((h.dropStake _).recordYields _).retryReleased _
  · exact (h.dropStake _).retryReleased _

@[simp] theorem Moves.cellConflict (x : Claim) (st : Station) (h : Moves P S d e) : Moves P S d (e.cellConflict x st) := by
  unfold Device.cellConflict
  split
  · split
    · exact h
    · dsimp only
      split
      · exact ((h.modOwn ..).modRecord ..).moveOwed
      · exact h.modOwn ..
  · exact h

@[simp] theorem Moves.judgeStake (st : Station) (i : StakeItem) (h : Moves P S d e) : Moves P S d (e.judgeStake st i) := by
  unfold Device.judgeStake
  split
  · exact h
  · split
    · split
      · exact h.contestedYields ..
      · exact h
    · exact h.contestedYields ..
    · exact h
    · exact h.heldYields _
    · exact h
    · split
      · exact h.heldYields _
      · exact h
    · exact h.cellConflict ..

@[simp] theorem Moves.hearStakes (st : Station) (l : List StakeItem) (h : Moves P S d e) : Moves P S d (e.hearStakes st l) := by
  unfold Device.hearStakes
  refine Moves.retryWaiting _ (Moves.foldl (fun _ _ h => h.judgeStake ..) _ ?_)
  have key : ∀ (l : List StakeItem) (m : Device × List Cell), Moves P S d m.1 → Moves P S d (l.foldl (writeListed st) m).1 := by
    intro l
    induction l with
    | nil => exact fun _ h => h
    | cons i l ih =>
      intro m hm
      refine ih _ ?_
      unfold writeListed
      dsimp only
      split
      · exact (hm.recordHeard ..).watchHits ..
      · exact hm.recordHeard ..
  exact key l _ (h.removeHeardAll _)

/-! ## The roster -/

@[simp] theorem Moves.modEntry (hp : P) (st : Station) (f : RosterEntry → RosterEntry) (h : Moves P S d e) :
    Moves P S d (e.modEntry st f) := .roster hp _ (fun hd => by simpa using h.roster_le hd) h

@[simp] theorem Moves.peerChange (h : Moves P S d e) : Moves P S d e.peerChange := .flags _ h

@[simp] theorem Moves.peerState (v : Byte) (st : Station) (h : Moves P S d e) : Moves P S d (e.peerState v st) := h.pushNotice _

@[simp] theorem Moves.stationLost (st : Station) (h : Moves P S d e) : Moves P S d (e.stationLost st) := by
  unfold Device.stationLost
  dsimp only
  split
  · exact (h.peerChange.claimantLost _).partnerLost _
  · exact ((h.peerChange.claimantLost _).partnerLost _).peerState ..

@[simp] theorem Moves.dropEntry (hp : P) (h : Moves P S d e) : Moves P S d e.dropEntry := by
  unfold Device.dropEntry
  split
  · dsimp only
    have key : ∀ (y : RosterEntry) (e' : Device), Moves P S d e' →
        Moves P S d (e'.withRoster (e'.peers.roster.filter fun x => x.station != y.station)) :=
      fun _ e' h' => .roster hp _ (fun hd => Nat.le_trans (List.length_filter_le ..) (h'.roster_le hd)) h'
    refine key _ _ ?_
    split
    · exact h
    · exact h.stationLost _
  · exact h

/-- An insertion adds one entry. -/
theorem insertEntry_length (x : RosterEntry) (l : List RosterEntry) : (insertEntry x l).length = l.length + 1 := by
  induction l with
  | nil => rfl
  | cons y l ih =>
    unfold insertEntry
    split
    · rfl
    · simp [ih]

theorem le_foldl_max (l : List Nat) (n : Nat) : n ≤ l.foldl max n ∧ ∀ x ∈ l, x ≤ l.foldl max n := by
  induction l generalizing n with
  | nil => exact ⟨Nat.le_refl n, fun _ hx => nomatch hx⟩
  | cons y l ih =>
    obtain ⟨h1, h2⟩ := ih (max n y)
    refine ⟨Nat.le_trans (Nat.le_max_left n y) h1, fun x hx => ?_⟩
    cases hx with
    | head => exact Nat.le_trans (Nat.le_max_right n y) h1
    | tail _ hx => exact h2 x hx

theorem foldl_max_mem (l : List Nat) (n : Nat) : l.foldl max n = n ∨ l.foldl max n ∈ l := by
  induction l generalizing n with
  | nil => exact .inl rfl
  | cons y l ih =>
    simp only [List.foldl_cons, List.mem_cons]
    rcases ih (max n y) with h | h
    · rw [h]
      omega
    · exact .inr (.inr h)

/-- The greatest of a list is one of it. -/
theorem maxNat_mem {α : Type} (f : α → Nat) {l : List α} (hl : l ≠ []) : ∃ x ∈ l, f x = maxNat (l.map f) := by
  unfold maxNat
  rcases foldl_max_mem (l.map f) 0 with h | h
  · obtain ⟨x, hx⟩ := List.exists_mem_of_ne_nil l hl
    have := (le_foldl_max (l.map f) 0).2 (f x) (List.mem_map_of_mem hx)
    exact ⟨x, hx, by omega⟩
  · obtain ⟨x, hx, he⟩ := List.mem_map.mp h
    exact ⟨x, hx, he⟩

/-- R46: a roster with an entry has one to give up, and it is one of the roster's. -/
theorem replaceable_mem {l : List RosterEntry} (hl : l ≠ []) : ∃ x ∈ l, replaceable l = some x := by
  obtain ⟨x, hx, hm⟩ := maxNat_mem (fun e : RosterEntry => e.age) hl
  have ho : (l.filter fun e => e.age == maxNat (l.map (·.age))) ≠ [] :=
    List.ne_nil_of_mem (List.mem_filter.mpr ⟨hx, by simpa using hm⟩)
  obtain ⟨y, hy, hn⟩ := maxNat_mem (fun e : RosterEntry => e.station.toNat) ho
  unfold replaceable
  dsimp only
  have hf : ((l.filter fun e => e.age == maxNat (l.map (·.age))).find? fun e =>
      e.station.toNat == maxNat ((l.filter fun e => e.age == maxNat (l.map (·.age))).map fun x => x.station.toNat)).isSome := by
    rw [List.find?_isSome]
    exact ⟨y, hy, by simpa using hn⟩
  obtain ⟨z, hz⟩ := Option.isSome_iff_exists.mp hf
  exact ⟨z, List.mem_of_mem_filter (List.mem_of_find?_eq_some hz), hz⟩

/-- R46: giving up an entry makes room for one. -/
theorem dropEntry_length (h : e.peers.roster ≠ []) : e.dropEntry.peers.roster.length < e.peers.roster.length := by
  obtain ⟨x, hx, hr⟩ := replaceable_mem h
  unfold Device.dropEntry
  rw [hr]
  dsimp only
  have key : (if x.link = .lost then e else e.stationLost x.station).peers.roster = e.peers.roster := by
    split
    · rfl
    · exact (Moves.stationLost (P := False) (S := False) x.station (.refl e)).roster_eq id
  change ((if x.link = .lost then e else e.stationLost x.station).peers.roster.filter _).length < _
  rw [key]
  exact List.length_filter_lt_length_iff_exists.mpr ⟨x, hx, by simp⟩

@[simp] theorem Moves.hear (hp : P) (st : Station) (h : Moves P S d e) : Moves P S d (e.hear st) := by
  unfold Device.hear
  split
  · exact h.modEntry hp ..
  · dsimp only
    have key : ∀ e', Moves P S d e' → (d.peers.roster.length ≤ Config.rosterSize → e'.peers.roster.length < Config.rosterSize) →
        Moves P S d ((e'.withRoster (insertEntry (newEntry st) e'.peers.roster)).peerChange) :=
      fun e' h' hl => (Moves.roster hp _ (fun hd => by rw [insertEntry_length]; exact hl hd) h').peerChange
    split
    · rename_i hl
      exact key _ h fun _ => hl
    · rename_i hl
      refine key _ (h.dropEntry hp) fun hd => Nat.lt_of_lt_of_le (dropEntry_length fun hn => ?_) (h.roster_le hd)
      rw [hn] at hl
      exact hl (by decide)

@[simp] theorem Moves.announcedChange (st : Station) (o : Option StationState) (n : StationState) (h : Moves P S d e) :
    Moves P S d (e.announcedChange st o n) := by
  unfold Device.announcedChange
  split
  · exact h
  · split
    · dsimp only
      split
      · exact h.peerChange.partnerLapsed _
      · exact h.peerChange.peerState ..
    · split
      · exact h.peerChange
      · exact h

@[simp] theorem Moves.hearAnnounced (hp : P) (st : Station) (b : PresenceBody) (h : Moves P S d e) :
    Moves P S d (e.hearAnnounced st b) := by
  unfold Device.hearAnnounced
  split
  · exact (h.modEntry hp ..).announcedChange ..
  · exact h

@[simp] theorem Moves.hearPresence (hp : P) (st : Station) (b : PresenceBody) (f : Bool) (h : Moves P S d e) :
    Moves P S d (e.hearPresence st b f) := by
  unfold Device.hearPresence
  dsimp only
  split
  · exact (((h.hear hp _).hearAnnounced hp ..).inferLift _).hearStakes ..
  · exact (((h.hear hp _).hearAnnounced hp ..).hearStakes ..).inferLift _

@[simp] theorem Moves.ageEntry (hp : P) (st : Station) (h : Moves P S d e) : Moves P S d (e.ageEntry st) := by
  unfold Device.ageEntry
  split
  · dsimp only
    split
    · exact (h.modEntry hp ..).peerChange
    · split
      · exact (h.modEntry hp ..).stationLost _
      · exact h.modEntry hp ..
  · exact h

@[simp] theorem Moves.offerPresence (h : Moves P S d e) : Moves P S d e.offerPresence := by
  unfold Device.offerPresence
  split
  · exact h.sendAbsorbed ..
  · exact h

@[simp] theorem Moves.peerRosterBeacon (hs : S) (hp : P) (o : List Station) (h : Moves P S d e) : Moves P S d (e.peerRosterBeacon o) :=
  (Moves.foldl (fun _ _ h => h.ageEntry hp _) _ ((h.joinTick hs o).silenceTick hs)).offerPresence

/-! ## Reports and dispatch -/

@[simp] theorem Moves.stakeEnded (s : Byte) (x : Ending) (h : Moves P S d e) : Moves P S d (e.stakeEnded s x) := by
  unfold Device.stakeEnded
  split
  · split
    · exact h.stakeSent _
    · exact h.stakeDropped ..
    · exact h
  · exact h

@[simp] theorem Moves.agreeEnded (t : Tag) (s : Byte) (x : Ending) (h : Moves P S d e) : Moves P S d (e.agreeEnded t s x) := by
  unfold Device.agreeEnded
  split
  · split
    · exact h.modRecord ..
    · exact h.agreeDropped ..
  · exact h

@[simp] theorem Moves.bindEnded (t : Tag) (s : Byte) (x : Ending) (h : Moves P S d e) : Moves P S d (e.bindEnded t s x) := by
  unfold Device.bindEnded
  split
  · split
    · exact h.modRecord ..
    · exact h.bindDropped _
  · exact h

@[simp] theorem Moves.setdownEnded (t : Tag) (s : Byte) (x : Ending) (h : Moves P S d e) : Moves P S d (e.setdownEnded t s x) := by
  unfold Device.setdownEnded
  split
  · split
    · exact h.modRecord ..
    · exact h.setdownDropped _
  · exact h

@[simp] theorem Moves.liftedEnded (t : Tag) (s : Byte) (x : Ending) (h : Moves P S d e) : Moves P S d (e.liftedEnded t s x) := by
  unfold Device.liftedEnded
  split
  · split
    · exact h.liftedSent _
    · exact h.liftedDropped _
  · exact h

@[simp] theorem Moves.adoptEnded (s : Byte) (x : Ending) (h : Moves P S d e) : Moves P S d (e.adoptEnded s x) := by
  unfold Device.adoptEnded
  split
  · split
    · exact h.adoptSent
    · exact h.adoptDropped _
  · exact h

@[simp] theorem Moves.cedeEnded (hs : S) (s : Byte) (h : Moves P S d e) : Moves P S d (e.cedeEnded s) := by
  unfold Device.cedeEnded
  split
  · exact h.emptyCedeEnded hs
  · exact h

@[simp] theorem Moves.report (hs : S) (x : Ending) (q : TxEntry) (h : Moves P S d e) : Moves P S d (Device.report x e q) := by
  unfold Device.report
  split
  · exact h
  · dsimp only
    split
    · exact h
    · exact h.stakeEnded ..
    · exact h
    · exact h
    · exact h.agreeEnded ..
    · exact h
    · exact h.bindEnded ..
    · exact h.setdownEnded ..
    · exact h.liftedEnded ..
    · exact h
    · exact h.adoptEnded ..
    · exact h.cedeEnded hs _
    · exact h

@[simp] theorem Moves.dispatch (hs : S) (hp : P) (st : Station) (b : Body) (f : Bool) (h : Moves P S d e) :
    Moves P S d (e.dispatch st b f) := by
  unfold Device.dispatch
  split
  · exact h.hearPresence hp ..
  · exact h.hearStake ..
  · exact h.hearUnstake ..
  · exact h.hearOffer ..
  · exact h.hearAgree ..
  · exact h.hearDecline ..
  · exact h.hearBind ..
  · exact h.hearSetdown ..
  · exact h.hearLifted ..
  · exact h.hearCancel ..
  · exact h.hearAdopt hs ..
  · exact h.hearCede ..
  · exact h.hearReceipt hs ..

end Sys2Proof.Machine
end

