-- ==== Sys2Proof/Laws/Effects.lean ====
section
/-! SUPPORT. What a row of moves leaves alone, and what it keeps. With the lemmas of Moves.lean these hold of every operation of the four
blocks. -/

namespace Sys2Proof.Machine

variable {P S : Prop} {d e : Device}

/-- A property that every elementary move keeps holds after a row of moves. -/
theorem Moves.keeps {Q : Device → Prop} (h : Moves P S d e) (h0 : Q d)
    (k1 : ∀ e es, Q e → Q (e.withEntries es)) (k2 : ∀ e i r, Q e → Q (e.setSlot i r))
    (k3 : ∀ e p a, Q e → Q (e.setAccount p a)) (k4 : ∀ e x, Q e → Q (e.withEngine x))
    (k5 : ∀ (e : Device) st j s r, S → Q e →
      Q (e.withPeers { e.peers with state := st, joinTimer := j, silenceTimer := s, hostReturned := r }))
    (k6 : ∀ e es, P → Q e → Q (e.withRoster es))
    (k7 : ∀ (e : Device) f, Q e → Q (e.withLink { e.link with flags := f }))
    (k8 : ∀ e n, e.link.notices.length < Config.noticeQueueSize → Q e → Q (e.queueNotice n))
    (k9 : ∀ e s b, s ≠ .relay → Q e → Q (e.offer s b).1) (k10 : ∀ (e : Device) n, Q e → Q { e with freeCount := n }) : Q e := by
  induction h with
  | refl => exact h0
  | entries es _ ih => exact k1 _ es ih
  | slot i r _ ih => exact k2 _ i r ih
  | account p x _ ih => exact k3 _ p x ih
  | run r _ ih => exact k4 _ _ ih
  | adoption x _ ih => exact k4 _ _ ih
  | ceding x _ ih => exact k4 _ _ ih
  | counter n _ ih => exact k4 _ _ ih
  | station st j s r hs _ ih => exact k5 _ st j s r hs ih
  | roster hp es _ _ ih => exact k6 _ es hp ih
  | flags f _ ih => exact k7 _ f ih
  | notice n hn _ ih => exact k8 _ n hn ih
  | send s x hs _ ih => exact k9 _ s x hs ih
  | free n _ ih => exact k10 _ n ih

/-- R161: no operation of a block changes the power state. -/
theorem Moves.power_eq (h : Moves P S d e) : e.power = d.power := by
  refine h.keeps (Q := fun x => x.power = d.power) rfl ?_ ?_ ?_ ?_ ?_ ?_ ?_ ?_ ?_ ?_ <;> intros <;> try assumption
  rename_i p a hq
  cases p <;> exact hq

/-- Without leave to change the station's own state, it and its timers stay. -/
theorem Moves.station_eq (h : Moves P S d e) (hs : ¬S) : e.peers = { d.peers with roster := e.peers.roster } := by
  refine h.keeps (Q := fun x => x.peers = { d.peers with roster := x.peers.roster }) rfl ?_ ?_ ?_ ?_ ?_ ?_ ?_ ?_ ?_ ?_ <;>
    intros <;> try assumption
  · rename_i p a hq
    cases p <;> exact hq
  · rename_i hs' _
    exact absurd hs' hs
  · rename_i e es _ hq
    show { e.peers with roster := es } = _
    rw [hq]
    rfl

/-- R72: the watches stay. -/
theorem Moves.watches_eq (h : Moves P S d e) : e.claims.watches = d.claims.watches := by
  refine h.keeps (Q := fun x => x.claims.watches = d.claims.watches) rfl ?_ ?_ ?_ ?_ ?_ ?_ ?_ ?_ ?_ ?_ <;> intros <;> try assumption
  rename_i p a hq
  cases p <;> exact hq

/-- Of the drive link only the notice queue and the summary flags can change. -/
theorem Moves.link_eq (h : Moves P S d e) : e.link = { d.link with notices := e.link.notices, flags := e.link.flags } := by
  refine h.keeps (Q := fun x => x.link = { d.link with notices := x.link.notices, flags := x.link.flags }) rfl
    ?_ ?_ ?_ ?_ ?_ ?_ ?_ ?_ ?_ ?_ <;> intros <;> try assumption
  · rename_i p a hq
    cases p <;> exact hq
  · rename_i e f hq
    show { e.link with flags := f } = _
    rw [hq]
    rfl
  · rename_i e n _ hq
    show { e.link with notices := e.link.notices ++ [n] } = _
    rw [hq]
    rfl

/-- Of the Line Port only the queue, the medium access of its head and the sequence counter can change. -/
theorem Moves.line_setting (h : Moves P S d e) : d.line.SameSetting e.line := by
  refine h.keeps (Q := fun x => d.line.SameSetting x.line) (.refl _) ?_ ?_ ?_ ?_ ?_ ?_ ?_ ?_ ?_ ?_ <;> intros <;> try assumption
  · rename_i p a hq
    cases p <;> exact hq
  · rename_i e s b _ hq
    exact hq.trans (offer_setting s b)

/-- R4: in MUTE the Line Port stays. -/
theorem Moves.line_muted (h : Moves P S d e) (hm : d.line.mode = .mute) : e.line = d.line := by
  refine h.keeps (Q := fun x => x.line = d.line) rfl ?_ ?_ ?_ ?_ ?_ ?_ ?_ ?_ ?_ ?_ <;> intros <;> try assumption
  · rename_i p a hq
    cases p <;> exact hq
  · rename_i e s b _ hq
    show (e.line.offer s b).1 = d.line
    rw [hq, offer_muted hm]

/-- A sound line and the capacities of the blocks: what no row of moves can break. -/
structure Device.Sized (d : Device) : Prop where
  line : d.line.Sound
  roster : d.peers.roster.length ≤ Config.rosterSize
  watches : d.claims.watches.length = Config.watchCount
  slots : d.engine.table.length = Config.slotCount
  accounts : d.accounts.slots.length = Config.slotCount
  notices : d.link.notices.length ≤ Config.noticeQueueSize

theorem Device.Sound.sized (h : d.Sound) : d.Sized :=
  ⟨h.line, h.peers.size, h.claims.watches, h.engine.slots, h.accounts.positions, h.notices⟩

/-- A row of moves keeps a sound line and the capacities. -/
theorem Moves.sized (h : Moves P S d e) (hd : d.Sized) : e.Sized := by
  refine ⟨?_, h.roster_le hd.roster, by rw [h.watches_eq]; exact hd.watches, ?_, ?_, ?_⟩
  · refine h.keeps (Q := fun x => x.line.Sound) hd.line ?_ ?_ ?_ ?_ ?_ ?_ ?_ ?_ ?_ ?_ <;> intros <;> try assumption
    · rename_i p a hq
      cases p <;> exact hq
    · rename_i e s b hs hq
      exact offer_sound hq s b hs
  · induction h with
    | refl => exact hd.slots
    | slot i r _ ih =>
      show (List.set _ _ _).length = _
      rw [List.length_set]
      exact ih
    | account p a _ ih => cases p <;> exact ih
    | entries _ _ ih => exact ih
    | run _ _ ih => exact ih
    | adoption _ _ ih => exact ih
    | ceding _ _ ih => exact ih
    | counter _ _ ih => exact ih
    | station _ _ _ _ _ _ ih => exact ih
    | roster _ _ _ _ ih => exact ih
    | flags _ _ ih => exact ih
    | notice _ _ _ ih => exact ih
    | send _ _ _ _ ih => exact ih
    | free _ _ ih => exact ih
  · refine h.keeps (Q := fun x => x.accounts.slots.length = Config.slotCount) hd.accounts ?_ ?_ ?_ ?_ ?_ ?_ ?_ ?_ ?_ ?_ <;>
      intros <;> try assumption
    rename_i p a hq
    cases p with
    | hoist => exact hq
    | slot n =>
      show (List.set _ _ _).length = _
      rw [List.length_set]
      exact hq
  · refine h.keeps (Q := fun x => x.link.notices.length ≤ Config.noticeQueueSize) hd.notices ?_ ?_ ?_ ?_ ?_ ?_ ?_ ?_ ?_ ?_ <;>
      intros <;> try assumption
    · rename_i p a hq
      cases p <;> exact hq
    · rename_i e n hn _
      show (e.link.notices ++ [n]).length ≤ _
      simpa using hn

end Sys2Proof.Machine
end

