-- ==== Sys2Proof/Laws/Link.lean ====
section
/-! SUPPORT. A whole request on the drive link: the bytes of a complete request, sent to a part that takes one, end in `complete` on a part
that differs in its link alone. -/

namespace Sys2Proof.Machine

/-! ## Byte order -/

theorem word16_bytes (x : BitVec 16) : word16 (x.extractLsb' 8 8) (x.extractLsb' 0 8) = x := by
  unfold word16
  ext i hi
  simp only [BitVec.getElem_append, BitVec.getElem_extractLsb']
  split
  · simp [← BitVec.getLsbD_eq_getElem]
  · rename_i h
    rw [← BitVec.getLsbD_eq_getElem]
    congr 1
    omega

theorem word32_bytes (x : BitVec 32) :
    word32 (x.extractLsb' 24 8) (x.extractLsb' 16 8) (x.extractLsb' 8 8) (x.extractLsb' 0 8) = x := by
  unfold word32
  ext i hi
  simp only [BitVec.getElem_append, BitVec.getElem_extractLsb']
  split
  · simp [← BitVec.getLsbD_eq_getElem]
  · split
    · rw [← BitVec.getLsbD_eq_getElem]
      congr 1
      omega
    · split
      · rw [← BitVec.getLsbD_eq_getElem]
        congr 1
        omega
      · rw [← BitVec.getLsbD_eq_getElem]
        congr 1
        omega

/-- The two halves of a byte. -/
theorem nibbles (k n : BitVec 4) : ((k ++ n : BitVec 8).extractLsb' 0 4 = n) ∧ (k ++ n : BitVec 8).extractLsb' 4 4 = k := by
  have h : (k ++ n : BitVec 8).toNat = k.toNat * 16 + n.toNat := by
    rw [show (k ++ n : BitVec 8).toNat = k.toNat <<< 4 ||| n.toNat from BitVec.toNat_append k n,
      ← Nat.shiftLeft_add_eq_or_of_lt n.isLt, Nat.shiftLeft_eq]
  have hn := n.isLt
  have hk := k.isLt
  constructor <;> apply BitVec.eq_of_toNat_eq <;> rw [BitVec.extractLsb'_toNat, h]
  · simp only [Nat.shiftRight_zero]
    omega
  · rw [Nat.shiftRight_eq_div_pow]
    omega

/-! ## Gathering -/

/-- The link while a request is gathered, after at least one status byte has gone out. -/
def DriveLink.asking (l : DriveLink) (gathered : List Byte) (status : Byte) : DriveLink :=
  { l with
    phase := .gather, gathered := gathered, outOfPhase := false, incomplete := false, selected := true, dataOut := some status }

/-- The status byte while a request is gathered (R152). -/
def gatherStatus (notices : List Notice) : Byte := if notices.isEmpty then 1#8 else 5#8

theorem gatherStatus_asking (l : DriveLink) (g : List Byte) (st : Byte) : (l.asking g st).statusByte = gatherStatus l.notices := by
  obtain ⟨_, _, _, _, _, notices, _, _, _, _, _⟩ := l
  cases notices <;> rfl

variable (d : Device)

/-- The first byte of a request, in IDLE (R149). -/
theorem linkByte_code (hr : d.running = true) (hi : d.link.phase = .idle) (code : Byte) (hc : code ≠ 0#8) :
    d.linkByte code = d.withLink (d.link.asking [code] d.link.statusByte) := by
  unfold Device.linkByte
  rw [if_pos hr, hi]
  dsimp only
  rw [if_neg hc]
  rfl

/-- A byte of a request that does not complete it (R150). -/
theorem linkByte_gather (hr : d.running = true) (g : List Byte) (st b : Byte)
    (hn : ∀ code length ps, g ++ [b] = code :: length :: ps → gatherComplete length ps = false) :
    (d.withLink (d.link.asking g st)).linkByte b = d.withLink (d.link.asking (g ++ [b]) (gatherStatus d.link.notices)) := by
  unfold Device.linkByte
  rw [if_pos (show (d.withLink (d.link.asking g st)).running = true from hr)]
  have hs := gatherStatus_asking d.link g st
  show ((d.withLink (d.link.asking g st)).withLink ((d.link.asking g st).giveStatus)).gatherByte (g ++ [b]) = _
  have hl : (d.link.asking g st).giveStatus = d.link.asking g (gatherStatus d.link.notices) := by
    unfold DriveLink.giveStatus
    rw [hs]
    rfl
  rw [hl]
  unfold Device.gatherByte
  split
  · rename_i code length ps he
    rw [he] at hn
    rw [if_neg (by rw [hn code length ps rfl]; decide)]
    rfl
  · rfl

/-- The byte that completes a request (R150). -/
theorem linkByte_last (hr : d.running = true) (g : List Byte) (st b code length : Byte) (ps : List Byte)
    (he : g ++ [b] = code :: length :: ps) (hg : gatherComplete length ps = true) :
    (d.withLink (d.link.asking g st)).linkByte b =
      (d.withLink (d.link.asking g (gatherStatus d.link.notices))).complete code length ps := by
  unfold Device.linkByte
  rw [if_pos (show (d.withLink (d.link.asking g st)).running = true from hr)]
  have hs := gatherStatus_asking d.link g st
  show ((d.withLink (d.link.asking g st)).withLink ((d.link.asking g st).giveStatus)).gatherByte (g ++ [b]) = _
  have hl : (d.link.asking g st).giveStatus = d.link.asking g (gatherStatus d.link.notices) := by
    unfold DriveLink.giveStatus
    rw [hs]
    rfl
  rw [hl, he]
  unfold Device.gatherByte
  dsimp only
  rw [if_pos hg]
  rfl

/-- Parameters that do not complete a request are gathered. -/
theorem linkBytes_gather (hr : d.running = true) (code length : Byte) (done more : List Byte)
    (hl : done.length + more.length < length.toNat) (h250 : length.toNat ≤ Config.maxParams) (st : Byte) :
    ∃ st', (d.withLink (d.link.asking (code :: length :: done) st)).linkBytes more =
      d.withLink (d.link.asking (code :: length :: (done ++ more)) st') := by
  induction more generalizing done st with
  | nil => exact ⟨st, by simp [Device.linkBytes]⟩
  | cons b more ih =>
    simp only [List.length_cons] at hl
    have h1 := linkByte_gather d hr (code :: length :: done) st b (by
      intro c l ps he
      simp only [List.cons_append, List.cons.injEq] at he
      obtain ⟨_, rfl, rfl⟩ := he
      have h1 : (done ++ [b]).length = done.length + 1 := by simp
      simp only [gatherComplete, h1, Bool.or_eq_false_iff, decide_eq_false_iff_not]
      omega)
    obtain ⟨st', h2⟩ := ih (done ++ [b]) (by simp; omega) (gatherStatus d.link.notices)
    refine ⟨st', ?_⟩
    show Device.linkBytes (Device.linkByte _ b) more = _
    rw [h1]
    rw [List.append_assoc] at h2
    exact h2

/-- A whole request of at most 250 parameter bytes, sent in IDLE to a running part. -/
theorem linkBytes_request (hr : d.running = true) (hi : d.link.phase = .idle) (code length : Byte) (hc : code ≠ 0#8) (ps : List Byte)
    (hl : length.toNat = ps.length) (h250 : ps.length ≤ Config.maxParams) :
    ∃ g, d.linkBytes (code :: length :: ps) =
      (d.withLink (d.link.asking g (gatherStatus d.link.notices))).complete code length ps := by
  show ∃ g, Device.linkBytes ((d.linkByte code).linkByte length) ps = _
  rw [linkByte_code d hr hi code hc]
  rcases List.eq_nil_or_concat ps with rfl | ⟨init, b, rfl⟩
  · refine ⟨[code], linkByte_last d hr [code] _ length code length [] rfl ?_⟩
    simp only [gatherComplete, hl]
    decide
  · rw [List.concat_eq_append] at *
    rw [linkByte_gather d hr [code] _ length (by
      intro c l ps he
      simp only [List.cons_append, List.nil_append, List.cons.injEq] at he
      obtain ⟨_, rfl, rfl⟩ := he
      simp only [gatherComplete, Bool.or_eq_false_iff, decide_eq_false_iff_not]
      simp only [List.length_append, List.length_cons, List.length_nil] at *
      omega)]
    simp only [List.length_append, List.length_cons, List.length_nil] at hl h250
    obtain ⟨st', h2⟩ := linkBytes_gather d hr code length [] init (by simp; omega) (by omega) (gatherStatus d.link.notices)
    refine ⟨code :: length :: init, ?_⟩
    show List.foldl Device.linkByte _ (init ++ [b]) = _
    rw [List.foldl_append]
    show Device.linkByte (Device.linkBytes _ init) b = _
    rw [show ([code] ++ [length] : List Byte) = code :: length :: [] from rfl, h2, List.nil_append]
    refine linkByte_last d hr (code :: length :: init) st' b code length (init ++ [b]) (by simp) ?_
    simp only [gatherComplete, List.length_append, List.length_cons, List.length_nil, Bool.or_eq_true, decide_eq_true_eq]
    omega

/-- A request of the catalogue, once its bytes are known to spell it, is carried out on a part that differs in its link alone, and its
result is placed (R150). -/
theorem hostRequest_ready (hd : d.ready) (q : Request) (hp : parseRequest (requestCode q) (requestParams q) = some q)
    (hl : (requestParams q).length ≤ Config.maxParams) :
    ∃ g, d.hostRequest q =
      (((d.withLink (d.link.asking g (gatherStatus d.link.notices))).perform q).1.withResult
        ((d.withLink (d.link.asking g (gatherStatus d.link.notices))).perform q).2).requestCompleted := by
  have hl' : (requestParams q).length ≤ 250 := hl
  have hbyte : (byteOf (requestParams q).length).toNat = (requestParams q).length := by
    unfold byteOf
    rw [BitVec.toNat_ofNat]
    omega
  have hcode : requestCode q ≠ 0#8 := by cases q <;> simp [requestCode]
  have h24 : ¬ 24 ≤ (requestCode q).toNat := by cases q <;> simp [requestCode]
  obtain ⟨g, hg⟩ := linkBytes_request d (by simp [Device.running, hd.1]) hd.2 (requestCode q) (byteOf (requestParams q).length) hcode
    (requestParams q) hbyte hl
  refine ⟨g, ?_⟩
  show d.linkBytes (requestCode q :: byteOf (requestParams q).length :: requestParams q) = _
  rw [hg]
  unfold Device.complete Device.judgeRequest
  rw [if_neg h24, if_neg (by rw [hbyte]; exact Nat.not_lt.mpr hl), hp]

/-! ## The bytes of a request -/

theorem parseRunItems_bytes (es : List RunItem) : parseRunItems (es.flatMap runItemBytes) = some es := by
  induction es with
  | nil => rfl
  | cons e es ih =>
    simp only [List.flatMap_cons, runItemBytes, bytes32, List.cons_append, List.nil_append, parseRunItems, ih, word32_bytes]

theorem runItems_length (es : List RunItem) : (es.flatMap runItemBytes).length = 6 * es.length := by
  induction es with
  | nil => rfl
  | cons e es ih =>
    simp [runItemBytes, bytes32, ih]
    omega

/-- A request of the catalogue that this part's host can spell: a START RUN carries the number of its entries. -/
def Request.Spelled (q : Request) : Prop :=
  ∀ c k n es, q = .startRun c k n es → n.toNat = es.length

/-- The parameters of a request spell it. -/
theorem parseRequest_bytes (q : Request) (h : Request.Spelled q) : parseRequest (requestCode q) (requestParams q) = some q := by
  cases q <;> try rfl
  case loadBin b c e =>
    change some (Request.loadBin (word32 (b.extractLsb' 24 8) (b.extractLsb' 16 8) (b.extractLsb' 8 8) (b.extractLsb' 0 8)) c
      (word16 (e.extractLsb' 8 8) (e.extractLsb' 0 8))) = _
    rw [word32_bytes, word16_bytes]
  case startRun c k n es =>
    have h1 := h c k n es rfl
    change parseStartRun (c.row :: c.col :: (k ++ n) :: es.flatMap runItemBytes) = _
    obtain ⟨e1, e2⟩ := nibbles k n
    unfold parseStartRun
    dsimp only
    rw [e1, e2, if_pos (by rw [runItems_length, h1]), parseRunItems_bytes]
    rfl

theorem requestParams_length (q : Request) (h : Request.Spelled q) : (requestParams q).length ≤ Config.maxParams := by
  cases q
  case startRun c k n es =>
    have h1 := h c k n es rfl
    have h2 : n.toNat < 16 := n.isLt
    simp only [requestParams, cellBytes, List.length_append, List.length_cons, List.length_nil, runItems_length]
    show _ ≤ 250
    omega
  all_goals simp [requestParams, Config.maxParams, tagBytes, cellBytes, bytes32, bytes16]

/-- A request on a part that takes it: its own effects and its result on a part that differs in its link alone give the part `answered`. -/
theorem hostRequest_answered (hd : d.ready) (q : Request) (hq : Request.Spelled q) (e : Device) (r : Reply)
    (h : ∀ g, ((d.withLink (d.link.asking g (gatherStatus d.link.notices))).perform q).1.withResult
        ((d.withLink (d.link.asking g (gatherStatus d.link.notices))).perform q).2 =
      { e with link := { e.link with
        phase := .result, gathered := [], result := r.bytes, outOfPhase := false, incomplete := false, selected := true,
        dataOut := some (gatherStatus d.link.notices) } }) :
    d.hostRequest q = d.answered e r := by
  obtain ⟨g, hg⟩ := hostRequest_ready d hd q (parseRequest_bytes q hq) (requestParams_length q hq)
  rw [hg, h g]
  rfl

end Sys2Proof.Machine
end

