-- ==== Sys2Proof/Laws/Order.lean ====
section
/-! SUPPORT. The ordered lists: the claim map stands in ascending order of row, column and claimant (R49), and the roster in ascending order
of station (R42). What an insertion makes of each. -/

namespace Sys2Proof.Machine

/-! ## The claim map (R49) -/

/-- The order of the map tells cells and claimants apart. -/
theorem claimRank_inj {c c' : Cell} {s s' : Station} (h : claimRank c s = claimRank c' s') : c = c' ∧ s = s' := by
  obtain ⟨row, col⟩ := c
  obtain ⟨row', col'⟩ := c'
  have h1 := row.isLt
  have h2 := col.isLt
  have h3 := s.isLt
  have h4 := row'.isLt
  have h5 := col'.isLt
  have h6 := s'.isLt
  simp only [claimRank] at h
  refine ⟨?_, BitVec.eq_of_toNat_eq (by omega)⟩
  rw [Cell.mk.injEq]
  exact ⟨BitVec.eq_of_toNat_eq (by omega), BitVec.eq_of_toNat_eq (by omega)⟩

/-- Nothing but the entry itself joins the map. -/
theorem mem_insertClaim {c x : Claim} {l : List Claim} (h : x ∈ insertClaim c l) : x = c ∨ x ∈ l := by
  induction l with
  | nil => exact .inl (List.mem_singleton.mp h)
  | cons y l ih =>
    unfold insertClaim at h
    split at h
    · exact List.mem_cons.mp h
    · split at h
      · exact (List.mem_cons.mp h).imp_right (List.mem_cons_of_mem _)
      · rcases List.mem_cons.mp h with rfl | h
        · exact .inr List.mem_cons_self
        · exact (ih h).imp_right (List.mem_cons_of_mem _)

/-- The entry itself stands in the map. -/
theorem self_mem_insertClaim (c : Claim) (l : List Claim) : c ∈ insertClaim c l := by
  induction l with
  | nil => exact List.mem_singleton.mpr rfl
  | cons y l ih =>
    unfold insertClaim
    split
    · exact List.mem_cons_self
    · split
      · exact List.mem_cons_self
      · exact List.mem_cons_of_mem _ ih

theorem length_insertClaim (c : Claim) (l : List Claim) : (insertClaim c l).length ≤ l.length + 1 := by
  induction l with
  | nil => simp [insertClaim]
  | cons y l ih =>
    unfold insertClaim
    split
    · simp
    · split
      · simp
      · simpa using ih

/-- An insertion keeps the order of the map, when an entry of the same cell and claimant is of the same kind, own or heard. -/
theorem insertClaim_ordered {c : Claim} {l : List Claim}
    (h : l.Pairwise fun x y => claimRank x.cell x.claimant < claimRank y.cell y.claimant)
    (hk : ∀ x ∈ l, x.cell = c.cell → x.claimant = c.claimant → x.own.isSome = c.own.isSome) :
    (insertClaim c l).Pairwise fun x y => claimRank x.cell x.claimant < claimRank y.cell y.claimant := by
  induction l with
  | nil => exact List.pairwise_singleton ..
  | cons y l ih =>
    obtain ⟨hy, hl⟩ := List.pairwise_cons.mp h
    unfold insertClaim
    split
    · rename_i hlt
      refine List.pairwise_cons.mpr ⟨fun x hx => ?_, h⟩
      rcases List.mem_cons.mp hx with rfl | hx
      · exact hlt
      · exact hlt.trans (hy x hx)
    · rename_i hge
      split
      · rename_i he
        refine List.pairwise_cons.mpr ⟨fun x hx => ?_, hl⟩
        rw [he.1, he.2.1]
        exact hy x hx
      · rename_i hne
        have hlt : claimRank y.cell y.claimant < claimRank c.cell c.claimant := by
          rcases Nat.lt_or_ge (claimRank y.cell y.claimant) (claimRank c.cell c.claimant) with h' | h'
          · exact h'
          · obtain ⟨e1, e2⟩ := claimRank_inj (Nat.le_antisymm h' (Nat.le_of_not_lt hge))
            exact absurd ⟨e1, e2, (hk y List.mem_cons_self e1.symm e2.symm).symm⟩ hne
        refine List.pairwise_cons.mpr ⟨fun x hx => ?_, ih hl fun x hx => hk x (List.mem_cons_of_mem _ hx)⟩
        rcases mem_insertClaim hx with rfl | hx
        · exact hlt
        · exact hy x hx

/-! ## The roster (R42) -/

theorem mem_insertEntry {e x : RosterEntry} {l : List RosterEntry} : x ∈ insertEntry e l ↔ x = e ∨ x ∈ l := by
  induction l with
  | nil => exact List.mem_singleton.trans (by simp)
  | cons y l ih =>
    unfold insertEntry
    split
    · exact List.mem_cons
    · rw [List.mem_cons, ih, List.mem_cons]
      tauto

/-- An entry of a new station keeps the order of the roster. -/
theorem insertEntry_ordered {e : RosterEntry} {l : List RosterEntry}
    (h : l.Pairwise fun x y => x.station.toNat < y.station.toNat) (hn : ∀ x ∈ l, x.station ≠ e.station) :
    (insertEntry e l).Pairwise fun x y => x.station.toNat < y.station.toNat := by
  induction l with
  | nil => exact List.pairwise_singleton ..
  | cons y l ih =>
    obtain ⟨hy, hl⟩ := List.pairwise_cons.mp h
    unfold insertEntry
    split
    · rename_i hlt
      refine List.pairwise_cons.mpr ⟨fun x hx => ?_, h⟩
      rcases List.mem_cons.mp hx with rfl | hx
      · exact hlt
      · exact hlt.trans (hy x hx)
    · rename_i hge
      refine List.pairwise_cons.mpr ⟨fun x hx => ?_, ih hl fun x hx => hn x (List.mem_cons_of_mem _ hx)⟩
      rcases mem_insertEntry.mp hx with rfl | hx
      · have hne : y.station.toNat ≠ x.station.toNat := fun h => hn y List.mem_cons_self (BitVec.eq_of_toNat_eq h)
        omega
      · exact hy x hx

end Sys2Proof.Machine
end

