-- ==== Sys2Proof/Laws/Room.lean ====
section
/-! SUPPORT. The shared operations in a part that has room: an own frame joins the queue's tail, a notice that is raised is queued at once,
with no request waiting a retry does nothing, and a record that leaves its turn changes nothing but the turn's mark. -/

namespace Sys2Proof.Machine

variable {d : Device}

/-! ## Frames -/

/-- R6: an own frame other than PRESENCE joins the tail of a queue with room. -/
theorem offer_of_room (h : d.canSend) (s : Sender) {b : Body} (hb : bodyIsPresence b = false) :
    d.offer s b = (d.withLine (d.sent s b), .joined d.line.seqCounter) := by
  simp [Device.offer, LinePort.offer, LinePort.offerPlain, Device.sent, LinePort.joinTail, h.1, h.2, hb]

theorem sendAbsorbed_of_room (h : d.canSend) (s : Sender) {b : Body} (hb : bodyIsPresence b = false) :
    d.sendAbsorbed s b = d.withLine (d.sent s b) := by
  rw [Device.sendAbsorbed, offer_of_room h s hb]

/-- R4: in MUTE every own frame ends DROPPED(LINE_MUTED) and the part is as it was. -/
theorem offer_of_mute (h : d.line.mode = .mute) (s : Sender) (b : Body) : d.offer s b = (d, .dropped .lineMuted) := by
  simp [Device.offer, LinePort.offer, h, Device.withLine]

/-! ## Notices -/

/-- R159: with nothing owed no notice moves. -/
theorem moveOwed_of_quiet (h : d.owes = false) : d.moveOwed = d := by
  simp [Device.moveOwed, moveOwedN, h, Config.noticeQueueSize]

/-- R158: a non-record notice joins a queue with room. -/
theorem pushNotice_of_room (h : d.link.notices.length < Config.noticeQueueSize) (n : Notice) :
    d.pushNotice n = d.withLink (d.notified n) := by
  simp [Device.pushNotice, h, Device.notified]

theorem owes_eq_false : d.owes = false ↔ (∀ i r, d.recordAt i = some r → r.notices = []) ∧ d.engine.run.mark ≠ .owed := by
  simp only [Device.owes, Device.owingSlot, Bool.or_eq_false_iff, Option.isSome_eq_false_iff, Option.isNone_iff_eq_none,
    List.findIdx?_eq_none_iff, beq_eq_false_iff_ne, recordAt_eq, List.mem_iff_getElem?]
  refine and_congr_left fun _ => ⟨fun h i r hr => by simpa using h _ ⟨i, hr⟩, ?_⟩
  rintro h x ⟨i, hx⟩
  cases x with
  | none => rfl
  | some r => simpa using h i r hx

theorem owingSlot_set {i : Nat} {r : Record} (h : d.owes = false) (hi : i < d.engine.table.length) (hr : r.notices ≠ []) :
    (d.setSlot i (some r)).owingSlot = some i := by
  have quiet := (owes_eq_false.mp h).1
  simp only [Device.owingSlot, setSlot_engine, List.findIdx?_eq_some_iff_getElem, List.length_set]
  refine ⟨hi, by simpa [List.isEmpty_eq_false_iff] using hr, fun j hj => ?_⟩
  rw [List.getElem_set_of_ne (by omega)]
  cases hx : d.engine.table[j] with
  | none => simp
  | some q => simpa using quiet j q ((recordAt_eq d j q).mpr (List.getElem?_eq_some_iff.mpr ⟨by omega, hx⟩))

/-- R92, R159: with nothing owed and a place free, a record's notice is queued at once and its set stays empty. The record's end notice has
not been collected. -/
theorem raise_of_room (h : d.canNotify) {i : Nat} {r : Record} (hr : d.recordAt i = some r) (hc : (r.isEnded && r.endCollected) = false)
    (k : NoticeKind) (o : OutcomePair) (values : List Byte) :
    d.raise i k o values = d.withLink (d.notified (r.notice i k o values)) := by
  obtain ⟨hrun, howes, hroom⟩ := h
  have hi := recordAt_lt d hr
  have hempty : r.notices = [] := (owes_eq_false.mp howes).1 i r hr
  have hget := (recordAt_eq d i r).mp hr
  let p : PendingNotice := { kind := k, outcome := o, station := r.partner, values := values }
  let e := d.setSlot i (some { r with notices := [p] })
  have hone : e.moveOne = d.withLink (d.notified (r.notice i k o values)) := by
    unfold Device.moveOne
    rw [show e.owingSlot = some i from owingSlot_set howes hi (by simp)]
    dsimp only
    rw [show e.recordAt i = some { r with notices := [p] } from recordAt_setSlot_self d _ hi]
    have back : d.engine.table.set i (some { r with notices := [] }) = d.engine.table := by
      rw [show ({ r with notices := [] } : Record) = r by rw [← hempty]]
      exact List.ext_getElem? fun j => by
        rw [List.getElem?_set]
        split
        · next hj => subst hj; exact hget.symm
        · rfl
    have kept : (([] : List PendingNotice).isEmpty && Record.isEnded { r with notices := [p] } && r.endCollected) = false := hc
    simp only [kept, Bool.false_eq_true, if_false]
    simp only [Device.queueNotice, recordNotice, Device.setSlot, Device.withTable, Device.withEngine, Device.withLink,
      Device.notified, Record.notice, List.set_set, p, e]
    rw [back]
  have howe : e.owes = true := by simp [Device.owes, e, owingSlot_set howes hi]
  have hraise : d.raise i k o values = e.moveOwed := by
    simp [Device.raise, Device.modRecord, hr, hempty, addPending, e, p]
  have hquiet : (d.withLink (d.notified (r.notice i k o values))).owes = false := howes
  rw [hraise, Device.moveOwed, show e.running = true by simp [Device.running, e, hrun]]
  simp only [if_true, Config.noticeQueueSize]
  rw [moveOwedN, if_pos (by rw [howe, Bool.and_true]; exact decide_eq_true hroom), hone, moveOwedN, if_neg (by simp [hquiet])]

/-! ## Retries -/

theorem waitsOn_of_noneStaking (h : d.noneStaking) (c : Cell) (p : RequestStatus → Bool) (i : Nat) : d.waitsOn c p i = false := by
  unfold Device.waitsOn Device.recordIs
  cases hr : d.recordAt i with
  | none => rfl
  | some r => simp [h i r hr]

/-- R57: with no record in STAKING a retry does nothing. -/
theorem retry_of_noneStaking (h : d.noneStaking) (cells : List Cell) (p : RequestStatus → Bool) : d.retry cells p = d := by
  simp only [Device.retry, forSlots]
  suffices ∀ l : List Nat,
      l.foldl (fun e i => if cells.any fun c => e.waitsOn c p i then e.stakingAttempt i else e) d = d from this _
  intro l
  induction l with
  | nil => rfl
  | cons i l ih => simpa [waitsOn_of_noneStaking h] using ih

theorem retryRemoved_of_noneStaking (h : d.noneStaking) (cells : List Cell) : d.retryRemoved cells = d :=
  retry_of_noneStaking h cells _

theorem retryReleased_of_noneStaking (h : d.noneStaking) (c : Cell) : d.retryReleased c = d :=
  retry_of_noneStaking h [c] _

theorem waitingSlots_of_noneStaking (h : d.noneStaking) (cells : List Cell) : d.waitingSlots cells = [] := by
  simp [Device.waitingSlots, waitsOn_of_noneStaking h]

theorem retryWaiting_nil : d.retryWaiting [] = d := rfl

/-! ## The turn of a ceding (R145) -/

/-- A record is written and leaves its turn: the Handover Engine of the statements, and nothing else. -/
theorem setSlot_leaveTurn (i : Nat) (r : Record) :
    (d.setSlot i (some r)).leaveTurn r.tag = { d with engine := d.leftWith i r } := by
  unfold Device.leaveTurn
  split <;> rename_i h <;> simp only [setSlot_engine] at h <;> simp [Device.leftWith, h] <;> rfl

theorem leaveTurn_engine (t : Tag) :
    (d.leaveTurn t).engine = { d.engine with
      ceding := if d.engine.ceding.turn = .tag t then { d.engine.ceding with broken := true } else d.engine.ceding } := by
  unfold Device.leaveTurn
  split <;> simp_all

@[simp] theorem leaveTurn_line (t : Tag) : (d.leaveTurn t).line = d.line := by unfold Device.leaveTurn; split <;> rfl
@[simp] theorem leaveTurn_peers (t : Tag) : (d.leaveTurn t).peers = d.peers := by unfold Device.leaveTurn; split <;> rfl
@[simp] theorem leaveTurn_claims (t : Tag) : (d.leaveTurn t).claims = d.claims := by unfold Device.leaveTurn; split <;> rfl
@[simp] theorem leaveTurn_accounts (t : Tag) : (d.leaveTurn t).accounts = d.accounts := by unfold Device.leaveTurn; split <;> rfl
@[simp] theorem leaveTurn_link (t : Tag) : (d.leaveTurn t).link = d.link := by unfold Device.leaveTurn; split <;> rfl
@[simp] theorem leaveTurn_power (t : Tag) : (d.leaveTurn t).power = d.power := by unfold Device.leaveTurn; split <;> rfl

end Sys2Proof.Machine
end

