-- ==== Sys2Proof/Tests/Slice0.lean ====
section
/-! SUPPORT. Tests: the checks of well-formedness, a few steps against the spec's own numbers, and for each statement that has hypotheses a
theorem that a concrete state and operands meet them. -/

open Sys2Proof Sys2Proof.Machine

namespace Sys2Proof.Tests

set_option Elab.async false

/-! ## Well-formedness: each check refuses an ill-formed command -/

def presence (n : Nat) : PresenceBody :=
  { state := 2, position := ⟨1, 2⟩, hoistBin := 0, stakes := (List.range n).map fun k => ⟨⟨5, BitVec.ofNat 8 k⟩, ⟨9, 1⟩, 400, 2⟩ }

theorem test_wf_run_of_sixteen : (Instr.startRun 1 1 0 (List.replicate 16 ⟨1, 0, 2⟩)).wf = false := by decide
theorem test_wf_unknown_code : (Instr.invalidRequest 23 0 []).wf = false ∧ (Instr.invalidRequest 24 1 []).wf = false := by decide
theorem test_wf_orders :
    (Instr.beaconPeriodExpiry ⟨[.record 16], [], []⟩).wf = false ∧ (Instr.accountingSecond [.slot 16]).wf = false := by decide
theorem test_wf_stations : (Instr.claimAgeOut 1 1 0).wf = false ∧ (Instr.rosterEntryQuiet 32).wf = false ∧
    (Instr.rosterEntryLost 0).wf = false ∧ (Instr.recentPairExpiry 0 1).wf = false := by decide
theorem test_wf_slots : (Instr.offerRepeat 16).wf = false ∧ (Instr.offerWindowExpiry 16).wf = false ∧
    (Instr.answerWindowExpiry 16).wf = false ∧ (Instr.agreedTimerExpiry 16).wf = false := by decide
theorem test_wf_presence : (Instr.presenceHeard 9 (presence 5) true).wf = false ∧ (Instr.presenceHeard 9 (presence 4) true).wf = true ∧
    (Instr.presenceHeard 9 { presence 1 with state := 5 } true).wf = false := by decide
theorem test_wf_claims : (Instr.stakeHeard 9 ⟨⟨64, 1⟩, ⟨9, 1⟩, 1⟩).wf = false ∧ (Instr.stakeHeard 9 ⟨⟨6, 1⟩, ⟨9, 1⟩, 4096⟩).wf = false ∧
    (Instr.unstakeHeard 32 ⟨⟨6, 1⟩, ⟨9, 1⟩⟩).wf = false := by decide
theorem test_wf_offers : (Instr.offerHeard 9 ⟨⟨9, 1⟩, 5, 3, 1, ⟨1, 1⟩, 0, 0, 0⟩).wf = false ∧
    (Instr.offerHeard 9 ⟨⟨9, 1⟩, 5, 2, 1, ⟨1, 1⟩, 0, 0, 13⟩).wf = false ∧ (Instr.agreeHeard 9 ⟨⟨6, 1⟩, 8⟩).wf = false ∧
    (Instr.declineHeard 9 ⟨⟨6, 1⟩, 9, 5⟩).wf = false ∧ (Instr.bindHeard 9 ⟨⟨6, 1⟩, 0⟩).wf = false := by decide
theorem test_wf_bins : (Instr.setdownHeard 9 ⟨⟨9, 1⟩, ⟨1, 1⟩, 0, 5⟩).wf = false ∧ (Instr.liftedHeard 9 ⟨⟨6, 1⟩, 8, 5⟩).wf = false ∧
    (Instr.cancelHeard 9 ⟨⟨6, 1⟩, 4⟩).wf = false := by decide
theorem test_wf_adoption : (Instr.adoptHeard 9 ⟨0⟩).wf = false ∧ (Instr.cedeHeard 9 ⟨6, 2, none⟩).wf = false ∧
    (Instr.receiptHeard 9 ⟨⟨6, 1⟩, 6, 0, 1, none⟩).wf = false ∧ (Instr.receiptHeard 9 ⟨⟨6, 1⟩, 6, 1, 1, some ⟨1, 1⟩⟩).wf = false := by
  decide

/-! ## Single values and steps -/

/-- The published check value of this polynomial and initial remainder over the digits 1 to 9 (R1 names both). -/
theorem test_check_of_digits : crc16 [0x31, 0x32, 0x33, 0x34, 0x35, 0x36, 0x37, 0x38, 0x39] = 0x29B1 := by decide +kernel
/-- R31: byte 1 holds the hop in bits 7..4 and the section in bits 3..0. -/
theorem test_layout : (frameBytes ⟨3, true, 9, 44, .adopt ⟨7⟩⟩) = [0x0B, 0x13, 9, 44, 1, 7] := by decide
/-- R10 for the first draw of station 1: 39022, and with W 8 the deferral 4. -/
theorem test_first_draw : ({ Device.cold.line with generator := 1 } : LinePort).nextGenerator = 39022 ∧
    ({ Device.cold.line with generator := 1 } : LinePort).drawn = 4 := by decide
/-- R77: a chilled bin from 0 on a cell has 600 s left, a frozen one 250 s. -/
theorem test_slack : ({ (default : Account) with cls := .chilled } : Account).slack = 600 ∧
    ({ (default : Account) with cls := .frozen } : Account).slack = 250 := by decide
/-- R81: the credit reaches 511 at W 1022. -/
theorem test_credit : ({ (default : Account) with wait := 1021 } : Account).credit = 510 ∧
    ({ (default : Account) with wait := 1022 } : Account).credit = 511 := by decide
/-- R152: incomplete in bit 4, out-of-phase in bit 3, notice pending in bit 2. -/
theorem test_status_byte : ({ Device.cold.link with incomplete := true, outOfPhase := true } : DriveLink).statusByte = 0x1C := by decide
/-- R150: a START RUN whose length is not 3 + 6n has a bad length. -/
theorem test_start_run_length : parseRequest 14 [1, 2, 0x12, 0, 0, 0, 1, 1, 5] = none := by decide

/-! ## Helpers for the witnesses -/

/-- Station 6 of section 3, ACTIVE and NORMAL, over cell (5, 6), with nothing to say. -/
def base : Device :=
  { Device.cold with
    line := { Device.cold.line.configured 6 3 false .normal with seqCounter := 9 }
    peers := { Device.cold.peers with state := .active, silenceTimer := some 7 }
    link := { Device.cold.link with position := ⟨5, 6⟩, notices := [] } }

def on (f : Device → Device) : State := { f base with pending := [] }
def powered (p : Power) (d : Device) : Device := { d with power := p }
def retained (latch main held : Bool) : Device → Device := powered ⟨.retain, latch, 5, main, held⟩
def peer (x : StationState) (d : Device) : Device := { d with peers := { d.peers with state := x } }
def muted (d : Device) : Device := { d with line := { d.line with requested := .mute, tx := .off } }
def bin (e : Nat) : Account := { bin := 77, cls := .chilled, e := e, location := .hoist, spent := false, wait := 30 }
def hoisted (d : Device) : Device := { d with accounts := { d.accounts with hoist := some (bin 400) } }
def onCell (i : Nat) (d : Device) : Device := d.setAccount (.slot i) (some { bin 400 with location := .cell })
def rec (s : RecState) : Record := { Record.new ⟨6, 200⟩ s 14 77 .chilled ⟨5, 6⟩ 0 with addressed := true, offers := 2, timer := 3 }
def placed (s : RecState) : Record := { rec s with placed := true }
def with1 (r : Record) (d : Device) : Device := d.setSlot 1 (some r)
def own (ph : Phase) (u : StakeUse) : Claim :=
  { cell := ⟨5, 6⟩, claimant := 6, tag := ⟨6, 255⟩, key := 500, phase := ph, age := 0,
    own := some { use := u, outcome := none, settle := none, linger := none, rival := none } }
def heard (o : Station) (ph : Phase) : Claim :=
  { cell := ⟨5, 6⟩, claimant := o, tag := ⟨o, 1⟩, key := 500, phase := ph, age := 7, own := none }
def claimed (l : List Claim) (d : Device) : Device := d.withEntries l
def runList (s : RunState) : RunList :=
  { state := s, cell := ⟨5, 6⟩, skip := true,
    entries := [⟨70, .ambient, 3, .done⟩, ⟨77, .chilled, 14, .waiting⟩, ⟨78, .frozen, 0, .waiting⟩],
    next := 2, timer := some 11, outcome := none, mark := .none }
def entry (o : Station) (age : Nat) : RosterEntry :=
  { station := o, announced := some .lapsed, position := some ⟨1, 2⟩, hoistBin := some 9, age := age, link := .heard }
def roster (l : List RosterEntry) (d : Device) : Device := { d with peers := { d.peers with roster := l } }
def noted (l : List Notice) (d : Device) : Device := { d with link := { d.link with notices := l } }
def note (k : NoticeKind) : Notice :=
  { kind := k, outcome := ⟨.done, .ok⟩, slot := some 1, tag := some ⟨6, 200⟩, values := [], station := 14 }
def sending (x : TxEntry) (d : Device) : Device := { d with line := { d.line with tx := .send, queue := [x] } }
def frame (b : Body) (n : Nat) : TxEntry := ⟨⟨3, false, 6, 44, b⟩, .engine, n⟩

/-- A command answers a next state with this property. -/
def next (c : Instr) (s : State) (p : State → Bool) : Bool :=
  match exec c s with
  | .next t => p t
  | _ => false

/-- What holds of every record that stands in the table holds of the record of every slot. -/
theorem each_record (d : Device) (p : Record → Bool)
    (h : (d.engine.table.all fun x => match x with | some r => p r | none => true) = true) :
    ∀ i r, d.recordAt i = some r → p r = true := by
  intro i r hr
  unfold Device.recordAt at hr
  split at hr
  · rename_i x hx
    exact (List.all_eq_true.mp h) x (List.mem_of_getElem? hx) |> fun k => by rw [hr] at k; exact k
  · exact absurd hr (by simp)

theorem none_staking (d : Device)
    (h : (d.engine.table.all fun x => match x with | some r => r.state != .giver .staking | none => true) = true) : d.noneStaking := by
  intro i r hr
  simpa using each_record d _ h i r hr

/-! ## Witnesses: the hypotheses of each statement are met -/

theorem meets_StepTakesTheFrontCommand :
    ({ on id with pending := [.readStatus, .endRun] } : State).pending = .readStatus :: [.endRun] ∧ (on id).pending = [] := by decide

theorem meets_RetainIsEnteredAndCounts :
    (on id).power.state = .run ∧ (on (retained false true false)).power.state = .retain := by decide

theorem meets_NothingButPowerActsOutOfRun :
    (on (retained false true false)).power.state ≠ .run ∧ Instr.collect.isPower = false := by decide

theorem meets_ColdStartGivesTheInitialState :
    ((on (retained true true false)).power.state ≠ .run ∧ (on (retained true true false)).power.holdLatch = true ∧
      (on (retained true true false)).power.resetHeld = false) ∧
    ((on (retained true false true)).power.state = .retain ∧ (on (retained true false true)).power.resetHeld = true) ∧
    (on (powered ⟨.unpowered, false, 0, false, false⟩)).power.state ≠ .run := by decide

/-- Also for what R164, R87 and R167 keep: one table of 16 slots and 16 account positions. -/
theorem meets_ResumeKeepsWhatIsRetained :
    (on (retained false false false)).power.state = .retain ∧ (on (retained false false false)).power.holdLatch = false ∧
      (on (retained false false false)).power.resetHeld = false ∧ (on (retained false false false)).peers.state ≠ .unconfigured := by
  decide

/-- A run that has ended, one that has not, and an account that the downtime spends; of the claims the PLACED one of a placed record is kept. -/
def resuming : State := on fun d =>
  claimed [{ own .held (.slot 1) with cell := ⟨5, 5⟩ }, heard 9 .placed] (onCell 1 (with1 (placed (.giver .unbound)) (hoisted
    (retained false false false (d.withRun { runList .ended with outcome := some ⟨.done, .endOfList⟩, mark := .queued })))))
theorem meets_ResumeKeepsWhatIsRetained_run :
    resuming.power.state = .retain ∧ resuming.power.holdLatch = false ∧ resuming.engine.run.state = .ended ∧
      resuming.engine.run.outcome = some ⟨.done, .endOfList⟩ ∧ resuming.accounts.slots.length = 16 ∧
      (on (retained false false false)).engine.run.state ≠ .ended ∧ (on (retained false false false)).engine.run.mark ≠ .owed ∧
      resuming.keptClaims = [{ own .placed (.slot 1) with cell := ⟨5, 5⟩ }] := by decide +kernel

theorem meets_ResumeChargesTheDowntime :
    (on fun d => onCell 3 (hoisted (retained false false false d))).power.state = .retain ∧
      (on fun d => onCell 3 (hoisted (retained false false false d))).power.holdLatch = false ∧
      (on fun d => onCell 3 (hoisted (retained false false false d))).accounts.slots.length = 16 ∧
      (on fun d => onCell 3 (hoisted (retained false false false d))).accountAt (.slot 3) ≠ none := by decide +kernel

theorem meets_ResumeRevalidatesEveryRecord :
    (on fun d => with1 (placed (.giver .offering)) (retained false false false d)).power.state = .retain ∧
      (on fun d => with1 (placed (.giver .offering)) (retained false false false d)).power.holdLatch = false ∧
      (on fun d => with1 (placed (.giver .offering)) (retained false false false d)).engine.table.length = 16 ∧
      (on fun d => with1 (placed (.giver .offering)) (retained false false false d)).recordAt 1 = some (placed (.giver .offering)) := by
  decide +kernel
/-- One giver that queues its CANCEL, and an ENDED taker that tells its ENDED; a line requested NORMAL, and one in MUTE. -/
theorem meets_ResumeRevalidatesEveryRecord_frames :
    ((rec (.giver .bound)).addressed = true ∧ (rec (.taker .ended)).lifted = .none) ∧
      (on fun d => with1 (rec (.giver .bound)) (retained false false false d)).line.requested = .normal ∧
      (on fun d => muted (with1 (rec (.taker .ended)) (retained false false false d))).line.requested = .mute ∧
      (on fun d => muted (with1 (rec (.taker .ended)) (retained false false false d))).engine.table.length = 16 := by decide +kernel

def gathering : State := on fun d => { d with link := { d.link with phase := .gather, gathered := [4, 2, 9] } }
def waiting : State := on fun d => { d with link := { d.link with phase := .result, result := [2, 0, 0] } }

theorem meets_LinkExchangesOneByte :
    ((on id).power.state = .run ∧ (on id).link.phase = .idle) ∧ (gathering.power.state = .run ∧ gathering.link.phase = .gather) ∧
      waiting.power.state = .run ∧ waiting.link.phase = .result ∧ waiting.link.result = 2 :: [0, 0] := by decide

theorem meets_SelectReleaseDiscardsAPartialRequest :
    gathering.power.state = .run ∧ gathering.link.phase = .gather ∧ waiting.link.phase ≠ .gather ∧
      (on id).link.phase = .idle ∧ (4 : Byte) ≠ 0 ∧ (250 : Byte).toNat ≤ 250 ∧ ([1] : List Byte).length < (2 : Byte).toNat := by decide

theorem meets_EveryRequestShowsTheHostIsThere :
    Instr.collect.isRequest = true ∧ Instr.collect.wf = true ∧ (on (peer .lapsed)).ready ∧
      (on (peer .lapsed)).peers.state ≠ .unconfigured := by decide

theorem meets_UnknownAndUnconfiguredRequestsAreRefused :
    ((on id).ready ∧ (Instr.invalidRequest 24 251 []).wf = true ∧ (Instr.invalidRequest 255 1 [9]).wf = true) ∧
      Instr.endRun.needsConfiguration = true ∧ Instr.endRun.wf = true ∧ (on (peer .unconfigured)).ready ∧
      (on (peer .unconfigured)).peers.state = .unconfigured := by decide

theorem meets_ConfigureTurnsThePortOn : (on (peer .unconfigured)).ready := by decide

def runs (s : RunState) : State := on fun d => hoisted (d.withRun (runList s))

theorem meets_SetLineModeTakesTheMode :
    (on id).ready ∧ (on id).peers.state ≠ .unconfigured ∧ 1 < (2 : Byte).toNat ∧ (runs .ended).engine.run.state ≠ .none ∧
      (on id).engine.run.state = .none ∧ (∀ x ∈ (on id).claims.entries, x.own = none) ∧ (on id).line.mode = .normal ∧
      (on muted).ready ∧ (on muted).line.mode = .mute := by decide
theorem meets_SetLineModeTakesTheMode_records : ∀ i r, (on id).recordAt i = some r → r.isEnded = true :=
  each_record _ _ (by decide)

theorem meets_PositionAndWatchesAreSet : (on id).ready ∧ (on (peer .unconfigured)).ready := by decide

theorem meets_ReadStatusReturnsAndClears : (on id).ready := by decide

theorem meets_LoadBinOpensTheHoistAccount :
    (on id).ready ∧ (on id).peers.state ≠ .unconfigured ∧ (77 : BinId) ≠ 0 ∧ (on id).accounts.hoist = none := by decide
theorem meets_LoadBinOpensTheHoistAccount_bins : ∀ p a, (on id).accountAt p = some a → a.bin ≠ 77 := by
  intro p a h
  cases p with
  | hoist => exact nomatch (show (none : Option Account) = some a from h)
  | slot n =>
    have : (on id).accounts.slots = List.replicate 16 none := rfl
    simp only [Device.accountAt, this] at h
    split at h <;> rename_i x hx
    · exact absurd (List.eq_of_mem_replicate (List.mem_of_getElem? hx)) (by rw [h]; simp)
    · exact absurd h (by simp)

/-- No record offers the bin on the hoist. -/
theorem no_offer (d : Device) (b : BinId)
    (h : (d.engine.table.all fun x => match x with | some r => r.bin != b | none => true) = true) : ¬d.offersBin b := by
  rintro ⟨r, hr, -, hb⟩
  have := List.all_eq_true.mp h _ hr
  simp [hb] at this

theorem meets_UnloadBinReturnsTheAccount :
    (on id).ready ∧ (on id).peers.state ≠ .unconfigured ∧ (on id).accounts.hoist = none ∧
      (on hoisted).ready ∧ (on hoisted).accounts.hoist = some (bin 400) := by decide
theorem meets_UnloadBinReturnsTheAccount_free :
    ¬∃ r, some r ∈ (on hoisted).engine.table ∧ (∃ g, r.state = .giver g ∧ g ≠ .ended) ∧ r.placed = false ∧ r.bin = (bin 400).bin := by
  rintro ⟨r, hr, -⟩
  exact absurd (List.eq_of_mem_replicate (n := 16) hr) (by simp)
theorem meets_UnloadBinReturnsTheAccount_offered :
    ∃ r, some r ∈ (on fun d => with1 (rec (.giver .unbound)) (hoisted d)).engine.table ∧ (∃ g, r.state = .giver g ∧ g ≠ .ended) ∧
      r.placed = false ∧ r.bin = (bin 400).bin :=
  ⟨rec (.giver .unbound), by decide +kernel, ⟨.unbound, rfl, by decide⟩, rfl, rfl⟩

theorem meets_PostHandoverOutsideActiveIsPending :
    (on fun d => hoisted (peer .joining d)).ready ∧ (on fun d => hoisted (peer .joining d)).peers.state ≠ .unconfigured ∧
      (on fun d => hoisted (peer .joining d)).peers.state ≠ .active ∧
      (on fun d => hoisted (peer .joining d)).accounts.hoist = some (bin 400) ∧
      (on fun d => hoisted (peer .joining d)).freeSlot = some 0 ∧
      (on fun d => hoisted (peer .joining d)).engine.table.length ≤ 16 ∧ (63 : Byte).toNat < 64 ∧ (0 : Byte).toNat < 64 ∧
      (31 : Byte).toNat ≤ 31 ∧ (31 : Byte) ≠ (on fun d => hoisted (peer .joining d)).line.station := by decide +kernel
theorem meets_PostHandoverOutsideActiveIsPending_bin : ¬(on fun d => hoisted (peer .joining d)).offersBin (bin 400).bin :=
  no_offer _ _ (by decide +kernel)

theorem meets_PostHandoverInActiveStakes :
    (on hoisted).ready ∧ (on hoisted).peers.state = .active ∧ (on hoisted).accounts.hoist = some (bin 400) ∧
      (on hoisted).freeSlot = some 0 ∧ (∀ x ∈ (on hoisted).claims.entries, x.cell ≠ ⟨5, 6⟩) ∧
      ((on hoisted).claims.entries.filter fun x => x.own.isSome).length < 4 ∧ (on hoisted).claims.entries.length < 48 ∧
      (on hoisted).canSend ∧ (14 : Byte).toNat ≤ 31 ∧ (14 : Byte) ≠ (on hoisted).line.station := by decide +kernel
theorem meets_PostHandoverInActiveStakes_records : ¬(on hoisted).offersBin (bin 400).bin ∧
    ∀ j r, (on hoisted).recordAt j = some r → (r.tag != ⟨(on hoisted).line.station, (on hoisted).engine.tagCounter⟩) = true :=
  ⟨no_offer _ _ (by decide +kernel), each_record _ (fun r => r.tag != _) (by decide +kernel)⟩
theorem meets_PostHandoverInActiveStakes_blocked :
    ∃ x ∈ (on fun d => claimed [heard 14 .held] (hoisted d)).claims.entries, x.cell = ⟨5, 6⟩ ∧ x.phase ≠ .contested := by decide

/-- The checks that a request naming record 1 of this state passes first. -/
def names (s : State) (r : Record) : Prop :=
  s.ready ∧ s.peers.state ≠ .unconfigured ∧ s.slotOf ⟨6, 200⟩ = some 1 ∧ s.recordAt 1 = some r

theorem meets_ReofferOffersAgain :
    names (on fun d => with1 (rec (.giver .unbound)) (hoisted d)) (rec (.giver .unbound)) ∧
      (rec (.giver .unbound)).state = .giver .unbound ∧ 31 < (32 : Byte).toNat ∧ (on hoisted).canSend ∧
      (on hoisted).accounts.hoist = some (bin 400) ∧ (bin 400).bin = (rec (.giver .unbound)).bin ∧
      (on fun d => with1 (rec (.giver .unbound)) (peer .lapsed d)).peers.state ≠ .active := by unfold names; decide +kernel

def overCell : State := on fun d => claimed [own .held (.slot 1)] (with1 (rec (.giver .bound)) (hoisted d))
theorem meets_ReportSetdownPutsTheBinOnTheCell :
    names overCell (rec (.giver .bound)) ∧ overCell.link.position = (rec (.giver .bound)).cell ∧
      overCell.accounts.hoist = some (bin 400) ∧ (bin 400).bin = (rec (.giver .bound)).bin ∧ 1 < overCell.accounts.slots.length ∧
      overCell.claimOfUse (.slot 1) = some (own .held (.slot 1)) ∧ (own .held (.slot 1)).cell = (rec (.giver .bound)).cell ∧
      overCell.canSend ∧
      names (on fun d => claimed [own .held (.slot 1)] (with1 (rec (.giver .unbound)) (hoisted d))) (rec (.giver .unbound)) ∧
      (rec (.giver .unbound)).placed = false := by unfold names; decide +kernel

def standing (s : RecState) : State := on fun d => onCell 1 (with1 (placed s) d)
theorem meets_RecoverTakesTheBinBack :
    names (standing (.giver .placed)) (placed (.giver .placed)) ∧ (placed (.giver .placed)).placed = true ∧
      (standing (.giver .placed)).accounts.hoist = none ∧
      (standing (.giver .placed)).link.position = (placed (.giver .placed)).cell ∧
      (standing (.giver .placed)).accountAt (.slot 1) = some { bin 400 with location := .cell } ∧
      (placed (.giver .placed)).addressed = true ∧ (standing (.giver .placed)).canSend ∧
      names (on (with1 { rec (.giver .ended) with outcome := some ⟨.done, .ok⟩ }))
        { rec (.giver .ended) with outcome := some ⟨.done, .ok⟩ } := by unfold names; decide +kernel

theorem meets_CancelEndsTheRecord :
    names overCell (rec (.giver .bound)) ∧ (rec (.giver .bound)).isEnded = false ∧ (rec (.giver .bound)).placed = false ∧
      overCell.canSend ∧ names (standing (.taker .ready)) (placed (.taker .ready)) ∧
      names (standing (.giver .placed)) (placed (.giver .placed)) ∧ (placed (.giver .placed)).isGiver = true := by
  unfold names; decide +kernel
/-- A HELD stake, a CONTESTED one, and the record of a run's ACTIVE entry; no record waits for the stake. -/
def contest : State := on fun d => claimed [own .contested (.slot 1)] (with1 (rec (.giver .staking)) (hoisted d))
def digging : State := on fun d =>
  claimed [own .held (.slot 1)] (with1 { rec (.giver .bound) with ordinal := 2 } (hoisted (d.withRun { runList .inEntry with timer := none })))
theorem meets_CancelEndsTheRecord_stake :
    (overCell.peers.state ≠ .lapsed ∧ overCell.claimOfUse (.slot 1) = some (own .held (.slot 1)) ∧ (rec (.giver .bound)).ordinal = 0) ∧
      (names contest (rec (.giver .staking)) ∧ contest.claimOfUse (.slot 1) = some (own .contested (.slot 1)) ∧
        contest.line.mode = .normal ∧ contest.line.queue.length ≤ 6) ∧
      names digging { rec (.giver .bound) with ordinal := 2 } ∧ digging.engine.run.state = .inEntry ∧
      digging.claimOfUse .runHold = none := by unfold names; decide +kernel
theorem meets_CancelEndsTheRecord_records : ∀ j q, contest.recordAt j = some q → (q.request != some .ownUse) = true :=
  each_record _ (fun r => r.request != some .ownUse) (by decide +kernel)

theorem meets_AnswerInviteAgreesOrDeclines :
    names (on (with1 (rec (.taker .invited)))) (rec (.taker .invited)) ∧ (on (with1 (rec (.taker .invited)))).canSend ∧
      names (on fun d => muted (with1 (rec (.taker .invited)) d)) (rec (.taker .invited)) ∧
      (on fun d => muted (with1 (rec (.taker .invited)) d)).line.mode = .mute := by unfold names; decide +kernel

theorem meets_ReportLiftCompletesTheTaker :
    names (standing (.taker .ready)) (placed (.taker .ready)) ∧ (standing (.taker .ready)).accounts.hoist = none ∧
      (standing (.taker .ready)).link.position = (placed (.taker .ready)).cell ∧
      (standing (.taker .ready)).accountAt (.slot 1) = some { bin 400 with location := .cell } ∧
      (standing (.taker .ready)).canSend ∧ names (on (with1 (rec (.taker .ended)))) (rec (.taker .ended)) := by
  unfold names; decide +kernel

theorem meets_StartRunMakesTheRunList :
    (on id).ready ∧ (on id).peers.state = .active ∧ (on id).engine.run.state = .none ∧
      (let es := (List.range 12).map fun k => (⟨BitVec.ofNat 32 (k + 1), 9, 31⟩ : RunItem)
       1 ≤ es.length ∧ es.length ≤ 12 ∧ (∀ e ∈ es, e.bin ≠ 0 ∧ e.taker.toNat ≤ 31 ∧ e.taker ≠ (on id).line.station) ∧
        (es.map fun e => e.bin).Nodup) ∧
      (on (peer .lapsed)).peers.state ≠ .active ∧ (runs .ended).engine.run.state ≠ .none := by decide +kernel

def held : State := on fun d => claimed [own .held .runHold] (hoisted (d.withRun (runList .awaitingNext)))
theorem meets_NextEntryHandsTheEntryOver :
    held.ready ∧ held.peers.state = .active ∧ held.engine.run.state = .awaitingNext ∧ (2 : Byte).toNat = held.engine.run.next ∧
      held.engine.run.entries[(2 : Byte).toNat - 1]? = some ⟨77, .chilled, 14, .waiting⟩ ∧ held.accounts.hoist = some (bin 400) ∧
      held.freeSlot = some 0 ∧ held.canSend ∧ held.ownClaim held.engine.run.cell = some (own .held .runHold) ∧
      ownUse (own .held .runHold) = some .runHold := by decide +kernel
/-- The station of `held` in LAPSED, where the record is PENDING. -/
def heldLapsed : State := on fun d => claimed [own .held .runHold] (hoisted ((peer .lapsed d).withRun (runList .awaitingNext)))
theorem meets_NextEntryHandsTheEntryOver_pending :
    heldLapsed.ready ∧ heldLapsed.peers.state ≠ .unconfigured ∧ heldLapsed.peers.state ≠ .active ∧
      heldLapsed.engine.run.state = .awaitingNext ∧ (2 : Byte).toNat = heldLapsed.engine.run.next ∧ (2 : Byte) ≠ 0 ∧
      heldLapsed.engine.run.entries[(2 : Byte).toNat - 1]? = some ⟨77, .chilled, 14, .waiting⟩ ∧
      heldLapsed.accounts.hoist = some (bin 400) ∧ heldLapsed.freeSlot = some 0 ∧
      (∀ x ∈ heldLapsed.engine.table, x = none) := by decide +kernel
theorem meets_NextEntryHandsTheEntryOver_records : ¬held.offersBin (bin 400).bin ∧
    ∀ j r, held.recordAt j = some r → (r.tag != ⟨held.line.station, held.engine.tagCounter⟩) = true :=
  ⟨no_offer _ _ (by decide +kernel), each_record _ (fun r => r.tag != _) (by decide +kernel)⟩

theorem meets_RunsEndAndEntriesAreWithdrawn :
    (runs .awaitingNext).ready ∧ (runs .awaitingNext).engine.run.state = .awaitingNext ∧ (runs .inEntry).engine.run.state = .inEntry ∧
      (runs .awaitingNext).canNotify ∧ (runs .awaitingNext).engine.run.next = (2 : Byte).toNat ∧
      (runs .awaitingNext).engine.run.entries[(2 : Byte).toNat]? = some ⟨78, .frozen, 0, .waiting⟩ ∧
      (runs .awaitingNext).engine.run.skip = true ∧
      (on fun d => d.withRun { runList .awaitingNext with skip := false }).canNotify := by decide +kernel
theorem meets_RunsEndAndEntriesAreWithdrawn_records : (runs .awaitingNext).noneStaking := none_staking _ (by decide +kernel)

theorem meets_AdoptAsksForALapsedTarget :
    (on (roster [entry 12 3])).ready ∧ (on (roster [entry 12 3])).peers.state = .active ∧
      (on (roster [entry 12 3])).engine.adoption.phase = .none ∧ (on (roster [entry 12 3])).canSend ∧
      (on (roster [entry 12 3])).rosterEntry 12 = some (entry 12 3) ∧ (entry 12 3).link ≠ .lost ∧
      (entry 12 3).announced = some .lapsed ∧ (12 : Byte) ≠ (on id).line.station ∧ (on (roster [entry 12 3])).rosterEntry 31 = none := by
  decide

def told : PendingNotice := ⟨.bound, ⟨.done, .ok⟩, 14, [14]⟩
def full : State := on fun d => noted (List.replicate 8 (note .start)) (with1 { rec (.giver .bound) with notices := [told] } d)
def fullLapsed : State := on fun _ => peer .lapsed full.toDevice
theorem meets_CollectReturnsTheOldestNotice :
    (on id).ready ∧ (on id).link.notices = [] ∧ (on (noted [note .bound])).link.notices = note .bound :: [] ∧
      (on (noted [note .bound])).owes = false ∧
      (on fun d => noted [note .ended] (with1 (rec (.taker .ended)) d)).owes = false ∧
      (on fun d => noted [note .ended] (with1 (rec (.taker .ended)) d)).recordAt 1 = some (rec (.taker .ended)) ∧
      (rec (.taker .ended)).isEnded = true ∧ (rec (.taker .ended)).tag = ⟨6, 200⟩ := by decide +kernel
theorem meets_CollectReturnsTheOldestNotice_owed :
    (fullLapsed.peers.state = .lapsed ∧ fullLapsed.ready ∧ fullLapsed.owes = true) ∧ full.ready ∧ full.link.notices = note .start :: List.replicate 7 (note .start) ∧ full.toDevice.takeNotice.1.owes = true := by
  decide +kernel
/-- 10.7: with 8 queued and one owed, COLLECT leaves 8 queued and nothing owed. -/
theorem test_collect_moves_at_once :
    next .collect full (fun t => t.link.notices.length == 8 && (t.recordAt 1).map (fun r => r.notices) == some []) = true := by
  decide +kernel
/-- R38, R150: in LAPSED the owed notice takes the place, and the LAPSE_ENDED of the completion, which follows, is lost (NOTICE_LOST). -/
theorem test_collect_moves_before_lapse_ended :
    next .collect fullLapsed (fun t => t.peers.state == .active && t.link.notices.length == 8 &&
      t.link.notices.all (fun n => n.kind != .lapseEnded) && (t.recordAt 1).map (fun r => r.notices) == some [] &&
      t.link.flags.noticeLost) = true := by
  decide +kernel
/-- R160 step 3 with R159: an ENDED whose record owes a later notice keeps its slot until that notice moves. -/
theorem test_collect_ended_owing :
    let s := on fun d => noted [note .ended] (with1 { rec (.giver .ended) with notices := [told] } d)
    let taken := s.toDevice.takeNotice.1
    (taken.recordAt 1).map (·.endCollected) = some true ∧ taken.moveOwed.recordAt 1 = none ∧
      taken.moveOwed.link.notices.length = 1 := by decide +kernel

theorem meets_PagedReadsReturnTheState : (on id).ready := by decide

theorem meets_AccountingSecondCountsEveryAccount :
    (on hoisted).power.state = .run ∧ (on hoisted).accounts.slots.length = 16 ∧ (on hoisted).accountAt .hoist = some (bin 400) := by
  decide +kernel

theorem meets_BeaconPeriodReachesEveryBlock :
    (on id).power.state = .run ∧ (on id).peers.state = .active ∧ (on id).canSend ∧ (on id).line.queue = [] ∧
      (on id).peers.silenceTimer = some 7 ∧ (on id).peers.roster = [] ∧ (on id).claims.entries = [] ∧
      (on id).engine.run.timer = none ∧ (on id).engine.adoption.timer = none ∧ (on id).engine.ceding.turn = .none := by decide
theorem meets_BeaconPeriodReachesEveryBlock_records : ∀ i, (on id).recordAt i = none := by
  intro i
  match h : (on id).recordAt i with
  | none => rfl
  | some r => exact absurd (each_record (on id).toDevice (fun _ => false) (by decide) i r h) (by simp)
theorem meets_BeaconPeriodReachesEveryBlock_timers :
    (runs .awaitingNext).engine.run.state = .awaitingNext ∧
      (on (roster [entry 12 3, entry 14 15])).peers.roster.map (fun e => e.station) = [12, 14] ∧ ([12, 14] : List Station).Nodup := by
  decide

/-- Nothing falls due: a heard claim at its last age, an own stake that settles, an OFFERING record between its OFFERs. -/
def quiet : State := on fun d =>
  claimed [{ own .contested (.slot 1) with own := some ⟨.slot 1, some .sent, some 2, none, none⟩ }, heard 14 .held]
    (with1 { rec (.giver .offering) with timer := 2 } (roster [entry 12 3, { entry 14 14 with link := .quiet }] d))
/-- One record of the part may fall due. -/
def dueAt1 (r : Record) : State := on fun d => onCell 1 (hoisted (with1 r d))
theorem only_record (r : Record) (i : Nat) (x : Record) (h : (dueAt1 r).recordAt i = some x) : i = 1 := by
  by_contra hi
  have hn : (dueAt1 r).engine.table[i]? = (List.replicate 16 none)[i]? := by
    show ((List.replicate 16 (none : Option Record)).set 1 (some r))[i]? = _
    exact List.getElem?_set_ne (fun h => hi h.symm)
  unfold Device.recordAt at h
  rw [hn, List.getElem?_replicate] at h
  split at h
  · rename_i y hy
    split at hy
    · rw [← Option.some.inj hy] at h
      exact absurd h (by simp)
    · exact absurd hy (by simp)
  · exact absurd h (by simp)
theorem line_sound : base.line.Sound :=
  ⟨by decide, by decide, by decide, by decide, by decide, by decide, by decide, by decide,
    (fun r h => nomatch (show (none : Option Nat) = some r from h)), by decide, by decide⟩
theorem peers_sound : base.peers.Sound 6 := ⟨by decide, by decide, by decide, by decide, by decide, by decide⟩
theorem claims_sound : base.claims.Sound 6 := ⟨by decide, by decide, by decide, by decide, by decide, by decide, by decide⟩
theorem accounts_sound : (onCell 1 (hoisted base)).accounts.Sound := ⟨by decide +kernel, by decide +kernel, by decide +kernel⟩
theorem quiet_sound : quiet.toDevice.Sound :=
  ⟨line_sound, ⟨by decide, by decide, by decide, by decide, by decide, by decide⟩,
    ⟨by decide, by decide, by decide, by decide, by decide, by decide, by decide⟩,
    ⟨by decide +kernel, by decide +kernel, by decide +kernel⟩,
    ⟨by decide +kernel, by decide +kernel, by decide +kernel, by decide, by decide, by decide, by decide⟩, by decide, by decide,
    (fun h => nomatch h)⟩
theorem meets_BeaconPeriodReachesEveryBlock_quiet : quiet.power.state = .run ∧ quiet.toDevice.Sound ∧ quiet.NothingDueBut none :=
  ⟨rfl, quiet_sound, by decide, by decide, by decide, by decide, by decide, (fun _ h => nomatch h), by decide, fun i r h _ => by
    have k := each_record quiet.toDevice (fun r => r.lifted == .none && r.state == .giver .offering && r.timer == 2)
      (by decide +kernel) i r h
    simp only [Bool.and_eq_true, beq_iff_eq] at k
    simp [Record.nothingDue, k.1.1, k.1.2, k.2]⟩
theorem meets_BeaconPeriodReachesEveryBlock_due (r : Record) (hr : r.Sound) :
    (dueAt1 r).toDevice.Sound ∧ (dueAt1 r).NothingDueBut (some 1) ∧ (dueAt1 r).recordAt 1 = some r := by
  refine ⟨⟨line_sound, peers_sound, claims_sound, accounts_sound, ⟨rfl, ?_, ?_, ?_, ?_, ?_, ?_⟩, ?_, ?_, fun h => nomatch h⟩,
    ⟨?_, ?_, ?_, ?_, ?_, (fun _ h => nomatch h), ?_, fun i x h hi => (hi (congrArg some (only_record r i x h).symm)).elim⟩, rfl⟩
  · intro y hy x hx
    have h : y ∈ (none :: some r :: List.replicate 14 none : List (Option Record)) := hy
    simp only [List.mem_cons, List.mem_replicate] at h
    rcases h with rfl | rfl | ⟨-, rfl⟩
    · exact nomatch hx
    · rw [← Option.some.inj hx]
      exact hr
    · exact nomatch hx
  · show ([r.tag] : List Tag).Nodup
    simp
  · exact (by decide : base.engine.run.entries.length ≤ Config.runSize)
  · exact (by decide : ∀ n ∈ base.engine.run.timer, n < Config.serviceWindow)
  · exact (by decide : ∀ n ∈ base.engine.adoption.timer, 1 ≤ n ∧ n ≤ 8)
  · exact (by decide : base.engine.ceding.attempts ≤ Config.cedeAttempts)
  · exact (by decide : base.link.notices.length ≤ Config.noticeQueueSize)
  · exact (by decide : base.power.backup ≤ 65535)
  · exact (by decide : ∀ n ∈ base.peers.silenceTimer, 2 ≤ n)
  · exact (by decide : ∀ n ∈ base.peers.joinTimer, 2 ≤ n)
  · exact (by decide : ∀ e ∈ base.peers.roster, e.age ≠ 15)
  · exact (by decide : ∀ n ∈ base.engine.run.timer, n ≤ 10)
  · exact (by decide : ∀ n ∈ base.engine.adoption.timer, 2 ≤ n)
  · exact (by decide : ∀ x ∈ base.claims.entries, ∀ o ∈ x.own, (∀ n ∈ o.settle, 2 ≤ n) ∧ ∀ n ∈ o.linger, 2 ≤ n)
/-- The three records with something due. -/
theorem meets_BeaconPeriodReachesEveryBlock_sound :
    ({ placed (.giver .placed) with setdownOwed := true } : Record).Sound ∧ ({ rec (.taker .ended) with lifted := .owed } : Record).Sound ∧
      ({ rec (.giver .staking) with request := some .afterDrop } : Record).Sound :=
  ⟨by decide, by decide, by decide⟩
/-- What each clause asks of its record and of the part beside it. -/
theorem meets_BeaconPeriodReachesEveryBlock_clauses :
    (let r : Record := { placed (.giver .placed) with setdownOwed := true }
     r.state = .giver .placed ∧ r.setdownOwed = true ∧ r.lifted = .none) ∧
    (let r : Record := { rec (.taker .ended) with lifted := .owed }
     r.state = .taker .ended ∧ r.lifted = .owed) ∧
    (let r : Record := { rec (.giver .staking) with request := some .afterDrop }
     r.request = some .afterDrop ∧ r.lifted = .none ∧ (dueAt1 r).peers.state = .active ∧
        (dueAt1 r).accounts.hoist = some (bin 400) ∧ (bin 400).bin = r.bin ∧ (dueAt1 r).claims.entries = [] ∧
        (dueAt1 r).ownCount < 4) ∧
    (dueAt1 (rec (.giver .staking))).line.mode = .normal ∧ (dueAt1 (rec (.giver .staking))).line.queue.length ≤ 6 ∧
    (dueAt1 (rec (.giver .staking))).power.state = .run := by decide +kernel

def joining : State := on fun d => { d with peers := { d.peers with state := .joining, joinTimer := some 1 } }
def silent (x : StationState) : State := on fun d => { d with peers := { d.peers with state := x, silenceTimer := some 1 } }
theorem meets_JoinAndSilenceExpiriesChangeTheState :
    joining.power.state = .run ∧ joining.peers.state = .joining ∧ joining.peers.joinTimer = some 1 ∧ joining.engine.table.length = 16 ∧
      (silent .active).power.state = .run ∧ (silent .active).peers.silenceTimer = some 1 ∧
      (silent .ceding).peers.silenceTimer = some 1 := by decide
theorem meets_JoinAndSilenceExpiriesChangeTheState_records : ∀ i r, joining.recordAt i = some r → r.isEnded = true :=
  each_record _ _ (by decide)

theorem meets_SilentStationsBecomeQuietAndLost :
    (on (roster [entry 12 3])).power.state = .run ∧ (on (roster [entry 12 3])).rosterEntry 12 = some (entry 12 3) ∧
      (entry 12 3).age = 3 ∧
      (on fun d => with1 (rec (.giver .bound)) (roster [entry 14 15] d)).rosterEntry 14 = some (entry 14 15) ∧
      (entry 14 15).age = 15 ∧ (on fun d => with1 (rec (.giver .bound)) (roster [entry 14 15] d)).engine.table.length = 16 ∧
      (rec (.giver .bound)).partner = 14 ∧ (on (roster [entry 14 15])).claims.entries = [] ∧
      (on (roster [entry 14 15])).link.notices.length < 8 := by decide +kernel
/-- A record of every state that the loss acts on, its partner the station lost. -/
theorem meets_SilentStationsBecomeQuietAndLost_partners :
    ([.giver .pending, .giver .staking, .giver .offering, .giver .bound, .giver .placed, .giver .unbound, .taker .invited,
      .taker .agreed, .taker .bound, .taker .ready] : List RecState).all (fun x =>
        let s := on fun d => with1 (rec x) (roster [entry 14 15] d)
        s.recordAt 1 == some (rec x) && (rec x).partner == 14 && (rec x).state == x && s.claims.entries.isEmpty &&
          s.rosterEntry 14 == some (entry 14 15)) = true := by decide +kernel
theorem meets_SilentStationsBecomeQuietAndLost_records :
    ∀ i r, (on (roster [entry 14 15])).recordAt i = some r → r.isEnded = true := each_record _ _ (by decide)

def sent : OwnStake := { use := .slot 1, outcome := some .sent, settle := some 1, linger := none, rival := none }
def lingering : OwnStake := { use := .linger, outcome := none, settle := none, linger := some 1, rival := none }
def settling : State := on fun d =>
  claimed [{ own .contested (.slot 1) with own := some sent }] (with1 (rec (.giver .staking)) (hoisted d))
def letting : State := on (claimed [{ own .held .linger with own := some lingering }, heard 12 .held])
theorem meets_AgesSettleAndLingerRunOut :
    (on id).power.state = .run ∧ letting.heardClaim ⟨5, 6⟩ 12 = some (heard 12 .held) ∧ (heard 12 .held).age = 7 ∧
      settling.ownClaim ⟨5, 6⟩ = some { own .contested (.slot 1) with own := some sent } ∧ sent.settle = some 1 ∧
      settling.recordAt 1 = some (rec (.giver .staking)) ∧ settling.accounts.hoist = some (bin 400) ∧ settling.canSend ∧
      settling.peers.state = .active ∧ letting.ownClaim ⟨5, 6⟩ = some { own .held .linger with own := some lingering } ∧
      lingering.linger = some 1 ∧ letting.canSend := by decide +kernel
theorem meets_AgesSettleAndLingerRunOut_records : letting.noneStaking := none_staking _ (by decide)

def due (s : RecState) (t n : Nat) (p : Bool) : Record := { rec s with timer := t, offers := n, placed := p }
def windows (r : Record) : State := on fun d => onCell 1 (hoisted (with1 r d))
theorem meets_RecordWindowsRunOut :
    (windows (due (.giver .offering) 1 1 false)).recordAt 1 = some (due (.giver .offering) 1 1 false) ∧
      (windows (due (.giver .offering) 3 2 true)).recordAt 1 = some (due (.giver .offering) 3 2 true) ∧
      (windows (due (.giver .offering) 3 2 true)).canSend ∧
      (windows (due (.giver .offering) 3 2 true)).accountAt (.slot 1) = some { bin 400 with location := .cell } ∧
      (windows (due (.giver .offering) 5 3 true)).canNotify ∧ (windows (due (.giver .offering) 5 3 false)).canNotify ∧
      (due (.giver .offering) 5 3 false).ordinal = 0 ∧
      (windows (due (.taker .invited) 3 0 false)).recordAt 1 = some (due (.taker .invited) 3 0 false) ∧
      (windows (due (.taker .invited) 3 0 false)).canNotify ∧
      (windows (due (.taker .agreed) 3 0 false)).recordAt 1 = some (due (.taker .agreed) 3 0 false) ∧
      (due (.taker .agreed) 3 0 false).agreeFrame = none := by decide +kernel

/-- The record of the run's ACTIVE entry, with its stake on the cell. -/
def inRun (st : RunState) (r : Record) (ph : Phase) : State := on fun d =>
  claimed [own ph (.slot 1)] (onCell 1 (hoisted (with1 { r with ordinal := 2 } (d.withRun
    { runList st with entries := [⟨70, .ambient, 3, .done⟩, ⟨77, .chilled, 14, .active⟩, ⟨78, .frozen, 0, .waiting⟩], timer := none }))))
theorem nobody_waits (d : Device) (c : Cell)
    (h : (d.engine.table.all fun x => match x with | some r => r.state != .giver .staking || r.request != some .ownUse | none => true) = true) :
    ∀ i r, d.recordAt i = some r → ¬r.WaitsFor c := by
  rintro i r hr ⟨hs, -, hq⟩
  have k := each_record d (fun r => r.state != .giver .staking || r.request != some .ownUse) h i r hr
  simp [hs, hq] at k
theorem meets_RecordWindowsRunOut_run :
    let s := inRun .inEntry (due (.giver .offering) 5 3 false) .held
    s.power.state = .run ∧ s.recordAt 1 = some { due (.giver .offering) 5 3 false with ordinal := 2 } ∧
      s.engine.run.state = .inEntry ∧ s.claimOfUse .runHold = none ∧ s.claimOfUse (.slot 1) = some (own .held (.slot 1)) ∧
      (own .held (.slot 1)).phase ≠ .contested := by decide +kernel
theorem meets_RecordWindowsRunOut_records :
    ∀ j q, (inRun .inEntry (due (.giver .offering) 5 3 false) .held).recordAt j = some q → ¬q.WaitsFor ⟨5, 6⟩ :=
  nobody_waits _ _ (by decide +kernel)

def ceding (n : Nat) (l : List Tag) : State := on fun d =>
  (onCell 1 (with1 (placed (.giver .placed)) ((peer .ceding d).setSlot 2 (some { rec (.taker .ready) with tag := ⟨9, 9⟩ })))).withCeding
    { adopter := some 9, tags := l, turn := .tag ⟨6, 200⟩, attempts := n, broken := false, ceded := 4, stranded := 2, frame := none }
theorem meets_RunAdoptionAndTurnRunOut :
    ((runs .awaitingNext).engine.run.timer = some 11 ∧ (runs .awaitingNext).canNotify) ∧
      (on fun d => d.withAdoption ⟨.listening, 9, some 1, [], none⟩).engine.adoption.timer = some 1 ∧
      ((ceding 2 [⟨6, 200⟩]).engine.ceding.turn = .tag ⟨6, 200⟩ ∧ (ceding 2 [⟨6, 200⟩]).slotOf ⟨6, 200⟩ = some 1 ∧
        (ceding 2 [⟨6, 200⟩]).recordAt 1 = some (placed (.giver .placed)) ∧ (ceding 2 [⟨6, 200⟩]).engine.ceding.attempts < 3 ∧
        (ceding 2 [⟨6, 200⟩]).canSend ∧
        (ceding 2 [⟨6, 200⟩]).accountAt (.slot 1) = some { bin 400 with location := .cell }) ∧
      (ceding 2 [⟨6, 200⟩]).engine.ceding.broken = false ∧
      (3 ≤ (ceding 3 [⟨6, 200⟩]).engine.ceding.attempts ∧ (placed (.giver .placed)).isEnded = false ∧
        tagsAfter ⟨6, 200⟩ (ceding 3 [⟨6, 200⟩]).engine.ceding.tags = [] ∧ (ceding 3 [⟨6, 200⟩]).peers.hostReturned = false) ∧
      tagsAfter ⟨6, 200⟩ (ceding 3 [⟨6, 200⟩, ⟨9, 9⟩]).engine.ceding.tags = ⟨9, 9⟩ :: [] ∧
      (ceding 3 [⟨6, 200⟩, ⟨9, 9⟩]).slotOf ⟨9, 9⟩ = some 2 ∧
      (ceding 3 [⟨6, 200⟩, ⟨9, 9⟩]).recordAt 2 = some { rec (.taker .ready) with tag := ⟨9, 9⟩ } := by decide +kernel

/-- R145: a turn whose record stopped being cedable in it, and is UNBOUND-placed again. -/
def turnOf (broken : Bool) (r : Record) : State := on fun d =>
  (onCell 1 (with1 r (peer .ceding d))).withCeding
    { adopter := some 9, tags := [⟨6, 200⟩], turn := .tag ⟨6, 200⟩, attempts := 1, broken := broken, ceded := 4, stranded := 2,
      frame := none }
def brokenTurn (r : Record) : State := turnOf true r
theorem meets_RunAdoptionAndTurnRunOut_broken :
    let s := brokenTurn (placed (.giver .unbound))
    s.power.state = .run ∧ s.slotOf ⟨6, 200⟩ = some 1 ∧ s.recordAt 1 = some (placed (.giver .unbound)) ∧
      s.engine.ceding.broken = true ∧ (placed (.giver .unbound)).isEnded = false ∧ tagsAfter ⟨6, 200⟩ s.engine.ceding.tags = [] ∧
      s.peers.hostReturned = false ∧ (placed (.giver .offering)).cedable = false := by decide +kernel
/-- R145: a REOFFER in the record's turn breaks it; after that no CEDE goes out again, and the turn closes at the next expiry. -/
theorem test_reoffer_breaks_the_turn :
    next (.reoffer 6 200 12) (turnOf false (placed (.giver .unbound))) (fun t => t.engine.ceding.broken && t.engine.ceding.turn == .tag ⟨6, 200⟩) = true ∧
    next .cedeRetry (brokenTurn (placed (.giver .unbound))) (fun t => t.line.queue.isEmpty && t.engine.ceding.attempts == 1) = true ∧
    next .turnCloseUnanswered (brokenTurn (placed (.giver .unbound)))
      (fun t => t.peers.state == .lapsed && t.engine.ceding.stranded == 3 && (t.recordAt 1).isSome) = true := by decide +kernel

def owing : State := on fun d => noted (List.replicate 7 (note .start)) (with1 { rec (.giver .bound) with notices := [told] } d)
theorem meets_OwedNoticesMoveIntoTheQueue :
    owing.power.state = .run ∧ owing.link.notices.length = 7 ∧ owing.recordAt 1 = some { rec (.giver .bound) with notices := [told] } ∧
      owing.recordAt 0 = none ∧ (rec (.giver .bound)).endCollected = false ∧ (on (retained false true false)).power.state ≠ .run := by
  decide +kernel
/-- The run alone owes: its notice is the one that moves. -/
def runOwing : State := on fun d => d.withRun { runList .ended with mark := .owed, outcome := some ⟨.failed, .overrun⟩, timer := none }
theorem meets_OwedNoticesMoveIntoTheQueue_run :
    runOwing.power.state = .run ∧ runOwing.link.notices.length < 8 ∧ (∀ x ∈ runOwing.engine.table, x = none) ∧
      runOwing.engine.run.mark = .owed ∧ runOwing.engine.run.outcome = some ⟨.failed, .overrun⟩ := by decide +kernel
/-- R159: slot 1 before slot 2, each record's notices in their order, and RUN_ENDED last. -/
theorem test_owed_order :
    let s := on fun d => ((with1 { rec (.giver .bound) with notices := [told, { told with kind := .ended }] } d).setSlot 2
      (some { rec (.taker .ready) with tag := ⟨9, 9⟩, notices := [told] })).withRun { runList .ended with mark := .owed }
    next .owedNoticeMove s (fun t => t.link.notices.map (fun n => (n.kind, n.slot)) ==
      [(.bound, some 1), (.ended, some 1), (.bound, some 2), (.runEnded, none)] && t.engine.run.mark == .queued) = true := by
  decide +kernel

def transmitter (t : TxState) (r : Option Nat) : State := on fun d => { d with line := { d.line with tx := t, remaining := r } }
theorem meets_MediumAccessCountsDownToSend :
    (transmitter .quietWait none).power.state = .run ∧ (transmitter .quietWait none).peers.state ≠ .unconfigured ∧
      (transmitter .quietWait none).line.tx = .quietWait ∧ (transmitter .quietWait none).line.remaining = none ∧
      (transmitter .quietWait (some 3)).line.remaining = some 3 ∧ (transmitter .defer (some 1)).line.tx = .defer ∧
      (transmitter .defer (some 1)).line.remaining = some 1 := by decide

def agreeing (n : Nat) : State := on fun d =>
  sending (frame (.agree ⟨⟨6, 200⟩, 6⟩) n) (with1 { rec (.taker .agreed) with agreeFrame := some 44 } d)
def lifting : State := on fun d => sending (frame (.lifted ⟨⟨6, 200⟩, 6, 77⟩) 0)
  (with1 { rec (.taker .ended) with lifted := .awaited, liftedFrame := some 44, outcome := some ⟨.done, .ok⟩ } d)
def stakeAwaited : Claim := { own .contested (.slot 1) with own := some { sent with outcome := some (.awaited 44), settle := none } }
def staking (n : Nat) : State := on fun d =>
  sending (frame (.stake ⟨⟨5, 6⟩, ⟨6, 200⟩, 500⟩) n) (claimed [stakeAwaited] (with1 (rec (.giver .staking)) d))

theorem meets_CleanSendEndsTheHead :
    (lifting.power.state = .run ∧ lifting.peers.state ≠ .unconfigured ∧ lifting.line.tx = .send ∧
        lifting.line.queue = frame (.lifted ⟨⟨6, 200⟩, 6, 77⟩) 0 :: [] ∧ lifting.slotOf ⟨6, 200⟩ = some 1 ∧
        lifting.recordAt 1 =
          some { rec (.taker .ended) with lifted := .awaited, liftedFrame := some 44, outcome := some ⟨.done, .ok⟩ } ∧
        lifting.canNotify) ∧
      ((agreeing 0).slotOf ⟨6, 200⟩ = some 1 ∧ (agreeing 0).line.tx = .send ∧
        (agreeing 0).recordAt 1 = some { rec (.taker .agreed) with agreeFrame := some 44 }) ∧
      (staking 0).stakeAwaiting 44 = some stakeAwaited ∧ bodyIsPresence (Body.presence (presence 1)) = true := by decide +kernel

/-- R14, R96: the kinds whose ending is absorbed; a CEDE with a record is awaited by nobody. -/
theorem meets_CleanSendEndsTheHead_absorbed :
    (∀ b ∈ ([.presence (presence 1), .unstake ⟨⟨5, 6⟩, ⟨6, 200⟩⟩, .offer ⟨⟨6, 200⟩, 77, 1, 500, ⟨5, 6⟩, 14, 0, 0⟩, .decline ⟨⟨9, 1⟩, 6, 2⟩,
      .cancel ⟨⟨6, 200⟩, 1⟩, .receipt ⟨⟨9, 1⟩, 9, 1, 1, none⟩] : List Body), (frame b 5).Absorbed) ∧
      base.engine.ceding.frame ≠ some (frame (.cede ⟨9, 2, none⟩) 5).frame.seq :=
  ⟨by
    simp only [List.forall_mem_cons]
    exact ⟨.inr trivial, .inr trivial, .inr trivial, .inr trivial, .inr trivial, .inr trivial, nofun⟩,
    by decide⟩

def binding : State := on fun d => sending (frame (.bind ⟨⟨6, 200⟩, 14⟩) 0) (with1 { rec (.giver .bound) with bindFrame := some 44 } d)
def setting : State := on fun d =>
  sending (frame (.setdown ⟨⟨6, 200⟩, ⟨5, 6⟩, 77, 400⟩) 0) (with1 { placed (.giver .placed) with setdownFrame := some 44 } d)
def asking : State := on fun d => sending (frame (.adopt ⟨9⟩) 0) (d.withAdoption ⟨.sending, 9, none, [], some 44⟩)
def emptied : State := on fun d => sending (frame (.cede ⟨9, 1, none⟩) 0)
  ((peer .ceding d).withCeding
    { adopter := some 9, tags := [], turn := .emptyCede, attempts := 1, broken := false, ceded := 0, stranded := 0, frame := some 44 })
theorem meets_CleanSendEndsTheHead_reports :
    (binding.line.tx = .send ∧ binding.slotOf ⟨6, 200⟩ = some 1 ∧
        binding.recordAt 1 = some { rec (.giver .bound) with bindFrame := some 44 }) ∧
      (setting.slotOf ⟨6, 200⟩ = some 1 ∧ setting.recordAt 1 = some { placed (.giver .placed) with setdownFrame := some 44 }) ∧
      (asking.engine.adoption.frame = some 44 ∧ asking.engine.adoption.phase = .sending) ∧
      emptied.engine.ceding.frame = some 44 ∧ emptied.engine.ceding.turn = .emptyCede ∧ emptied.peers.hostReturned = false ∧
      emptied.line.queue = frame (.cede ⟨9, 1, none⟩) 0 :: [] := by decide +kernel

theorem meets_CollisionDoublesTheWindow :
    ((agreeing 5).line.tx = .send ∧ (agreeing 5).line.queue = frame (.agree ⟨⟨6, 200⟩, 6⟩) 5 :: [] ∧ (agreeing 5).canNotify ∧
        (agreeing 5).recordAt 1 = some { rec (.taker .agreed) with agreeFrame := some 44 }) ∧
      (frame (.agree ⟨⟨6, 200⟩, 6⟩) 4).collisions < 5 ∧
      (staking 5).stakeAwaiting 44 = some stakeAwaited ∧ ownUse stakeAwaited = some (.slot 1) ∧
      (staking 5).recordAt 1 = some (rec (.giver .staking)) := by decide +kernel

/-- The sixth collision of each frame whose drop its block hears, the queue else empty. -/
def sixth (b : Body) (f : Device → Device) : State := on fun d => sending (frame b 5) (f d)
def bindDrops (s : RecState) : State := sixth (.bind ⟨⟨6, 200⟩, 14⟩) (with1 { rec s with bindFrame := some 44 })
def setdownDrops : State :=
  sixth (.setdown ⟨⟨6, 200⟩, ⟨5, 6⟩, 77, 400⟩) (with1 { placed (.giver .placed) with setdownFrame := some 44 })
def liftedDrops : State :=
  sixth (.lifted ⟨⟨6, 200⟩, 6, 77⟩) (with1 { rec (.taker .ended) with lifted := .awaited, liftedFrame := some 44 })
def adoptDrops : State := sixth (.adopt ⟨9⟩) fun d => d.withAdoption ⟨.sending, 9, none, [⟨9, 1⟩], some 44⟩
def emptyDrops : State := sixth (.cede ⟨9, 1, none⟩) fun d => (peer .ceding d).withCeding
  { adopter := some 9, tags := [], turn := .emptyCede, attempts := 1, broken := false, ceded := 0, stranded := 0, frame := some 44 }
theorem meets_CollisionDoublesTheWindow_drops :
    ((bindDrops (.giver .bound)).slotOf ⟨6, 200⟩ = some 1 ∧
        (bindDrops (.giver .bound)).recordAt 1 = some { rec (.giver .bound) with bindFrame := some 44 } ∧
        (bindDrops (.giver .bound)).line.tx = .send ∧ (bindDrops (.giver .bound)).line.mode = .normal ∧
        (bindDrops (.giver .bound)).canNotify ∧ (frame (.bind ⟨⟨6, 200⟩, 14⟩) 5).collisions = 5) ∧
      (setdownDrops.slotOf ⟨6, 200⟩ = some 1 ∧
        setdownDrops.recordAt 1 = some { placed (.giver .placed) with setdownFrame := some 44 }) ∧
      (liftedDrops.slotOf ⟨6, 200⟩ = some 1 ∧
        liftedDrops.recordAt 1 = some { rec (.taker .ended) with lifted := .awaited, liftedFrame := some 44 }) ∧
      (adoptDrops.engine.adoption.frame = some 44 ∧ adoptDrops.engine.adoption.phase = .sending ∧ adoptDrops.link.notices.length < 8) ∧
      emptyDrops.engine.ceding.frame = some 44 ∧ emptyDrops.engine.ceding.turn = .emptyCede ∧
      emptyDrops.peers.hostReturned = false := by decide +kernel

/-- An ADOPT of another target, from an origin and with a hop and section given in byte 1. -/
def adoptBytes (hopSect o : Byte) : List Byte :=
  let b : List Byte := [11, hopSect, o, 5, 1, 7]
  b ++ bytes16 (crc16 b)
theorem meets_EnvelopeChecksDiscardSilently :
    (on id).line.tx ≠ .send ∧ (on id).line.sect.toNat % 16 = 3 ∧ (on id).line.station = 6 ∧
      ([(0x03, 9), (0x04, 9), (0x23, 9), (0x03, 0), (0x03, 32), (0x13, 6), (0x03, 6)] : List (Byte × Byte)).all (fun x =>
        match adoptBytes x.1 x.2 with
        | k :: hs :: o :: sq :: len :: rest => len.toNat ≤ 36 && rest.length == len.toNat + 2 && 1 ≤ k.toNat && k.toNat ≤ 13 &&
            rest.drop len.toNat == bytes16 (crc16 (k :: hs :: o :: sq :: len :: rest.take len.toNat))
        | _ => false) = true := by decide +kernel

def relaying : State := on fun d => { d with line := { d.line with relay := true, recent := [⟨9, 6, 0⟩] } }
def arrives (seq : Byte) : Frame := ⟨3, false, 9, seq, .adopt ⟨7⟩⟩
theorem meets_AcceptedFramesAreHeard :
    relaying.line.tx ≠ .send ∧ (arrives 5).sect = relaying.line.sect.extractLsb' 0 4 ∧ (arrives 5).origin ≠ relaying.line.station ∧
      stationInRange (arrives 5).origin = true ∧ bodyValid (arrives 5).origin (arrives 5).body = true ∧
      (∀ p ∈ relaying.line.recent, ¬(p.origin = (arrives 5).origin ∧ p.seq = (arrives 5).seq)) ∧
      (∃ p ∈ relaying.line.recent, p.origin = (arrives 6).origin ∧ p.seq = (arrives 6).seq) ∧
      relaying.line.relay = true ∧ relaying.line.queue.length < 6 ∧ relaying.peers.roster.length < 24 ∧
      (7 : Station) ≠ relaying.line.station ∧ checkFrame [11, 3, 9] = none := by decide +kernel
/-- A station with nothing of its own to send, and a frame whose body (an ADOPT of station 0) is not valid. -/
theorem meets_AcceptedFramesAreHeard_relay :
    (relaying.peers.state = .active ∧ relaying.line.mode = .normal ∧ relaying.engine.table.length = 16 ∧
        (∀ x ∈ relaying.engine.table, x = none) ∧ relaying.claims.entries = [] ∧ relaying.engine.adoption.phase = .none ∧
        relaying.engine.ceding.turn = .none ∧ (arrives 5).relayed = false) := by decide +kernel
theorem meets_AcceptedFramesAreHeard_invalid :
    let r : RawFrame := ⟨11, 3, 9, 5, [0]⟩
    let b : List Byte := [11, 3, 9, 5, 1, 0]
    checkFrame (b ++ bytes16 (crc16 b)) = some r ∧ rawSect r = relaying.line.sect.extractLsb' 0 4 ∧ envelopeInRange r = true ∧
      r.origin ≠ relaying.line.station ∧ (∀ p ∈ relaying.line.recent, ¬(p.origin = r.origin ∧ p.seq = r.seq)) ∧
      parseBody r.kind r.body = some (.adopt ⟨0⟩) ∧ bodyValid r.origin (.adopt ⟨0⟩) = false := by decide +kernel

theorem meets_PresenceUpdatesTheRoster :
    (on (roster [{ entry 14 3 with announced := some .active }])).hears 14 (.presence (presence 0)) ∧
      (on (roster [{ entry 14 3 with announced := some .active }])).rosterEntry 14 =
        some { entry 14 3 with announced := some .active } ∧
      (on id).hears 14 (.presence { presence 0 with state := 3 }) ∧ (on id).rosterEntry 14 = none ∧
      (on id).peers.state ≠ .joining ∧ (on id).claims.entries = [] ∧ (presence 0).stakes = [] := by decide
/-- LAPSED replaced, and LAPSED announced by the partner of a record. -/
theorem meets_PresenceUpdatesTheRoster_lapsed :
    ((on (roster [entry 14 3])).hears 14 (.presence (presence 0)) ∧ (on (roster [entry 14 3])).rosterEntry 14 = some (entry 14 3) ∧
        (entry 14 3).announced = some .lapsed) ∧
      (let s := on fun d => roster [{ entry 14 3 with announced := none }] (with1 (rec (.giver .bound)) d)
       s.hears 14 (.presence { presence 0 with state := 3 }) ∧ s.rosterEntry 14 = some { entry 14 3 with announced := none } ∧
        s.engine.table.length = 16 ∧ s.recordAt 1 = some (rec (.giver .bound)) ∧ (rec (.giver .bound)).partner = 14 ∧
        (rec (.giver .bound)).isEnded = false) := by decide +kernel

theorem meets_PresenceUpdatesTheRoster_notices :
    ∀ i r, (on fun d => roster [{ entry 14 3 with announced := none }]
      (with1 { rec (.giver .bound) with notices := [told] } d)).recordAt i = some r → ∀ p ∈ r.notices, IsRecordNotice p.kind := by
  intro i r h
  simpa using each_record _ (fun r => decide (∀ p ∈ r.notices, IsRecordNotice p.kind)) (by decide +kernel) i r h

def listed (c : Nat) (ph : Byte) : PresenceBody :=
  { presence 0 with stakes := [⟨⟨5, 6⟩, ⟨9, 1⟩, BitVec.ofNat 16 c, ph⟩] }
def contending (ph : Phase) : State := on fun d => claimed [own ph (.slot 1)] (with1 (rec (.giver .bound)) (hoisted d))
theorem meets_PresenceStakesAreJudged :
    ((on (claimed [heard 14 .held])).hears 9 (.presence (presence 4)) ∧ (on (claimed [heard 14 .held])).peers.roster.length < 24 ∧
        (∀ x ∈ (on (claimed [heard 14 .held])).claims.entries, x.own = none)) ∧
      ((contending .held).hears 9 (.presence (listed 400 2)) ∧ (contending .held).ownClaim ⟨5, 6⟩ = some (own .held (.slot 1)) ∧
        (contending .contested).hears 9 (.presence (listed 500 1)) ∧ ¬Outranks 500 9 (own .contested (.slot 1)) ∧
        Outranks 500 5 (own .contested (.slot 1)) ∧ (contending .held).canSend ∧
        (contending .placed).hears 9 (.presence (listed 400 3))) ∧
      ((on fun d => onCell 1 (with1 (placed (.giver .placed)) (peer .joining d))).hears 9
          (.presence { presence 0 with hoistBin := 77 }) ∧ (placed (.giver .placed)).bin = 77 ∧ (77 : BinId) ≠ 0) := by decide +kernel
theorem meets_PresenceStakesAreJudged_records : (on (claimed [heard 14 .held])).noneStaking ∧ (contending .held).noneInOwnUse :=
  ⟨none_staking _ (by decide), fun i r h => by
    simpa using each_record _ (fun r => r.request != some .ownUse) (by decide +kernel) i r h⟩

def watching : State := on fun d => { d with claims := { d.claims with watches := [none, some ⟨64, 6, 0⟩, some ⟨5, 7, 9⟩, none] } }
theorem meets_StakesAndUnstakesAreHeard :
    (on id).hears 9 (.stake ⟨⟨5, 6⟩, ⟨9, 1⟩, 4095⟩) ∧ (on id).claims.entries.length < 48 ∧
      watching.claims.watches[1]? = some (some ⟨64, 6, 0⟩) ∧ (⟨64, 6, 0⟩ : Watch).Admits ⟨5, 6⟩ 9 ∧
      ¬(⟨5, 7, 9⟩ : Watch).Admits ⟨5, 6⟩ 9 ∧ watching.link.notices.length < 8 ∧
      (contending .contested).hears 5 (.stake ⟨⟨5, 6⟩, ⟨9, 1⟩, 500⟩) ∧
      (contending .contested).ownClaim ⟨5, 6⟩ = some (own .contested (.slot 1)) ∧
      (on id).hears 9 (.unstake ⟨⟨5, 6⟩, ⟨9, 1⟩⟩) ∧ (∀ w ∈ (on id).claims.watches, w = none) := by decide +kernel
theorem meets_StakesAndUnstakesAreHeard_records : (on id).noneStaking ∧ (contending .contested).noneInOwnUse :=
  ⟨none_staking _ (by decide), fun i r h => by
    simpa using each_record _ (fun r => r.request != some .ownUse) (by decide +kernel) i r h⟩

/-- R55, R50: the map is full, and the better rival's new entry takes the place of an old one on the same cell. The record whose stake yields
is not tried at once, though its key is by now the best on the cell. -/
def crowded : State := on fun d =>
  claimed ((List.range 46).map (fun k => { heard 12 .contested with cell := ⟨1, BitVec.ofNat 8 k⟩, age := 0 }) ++
      [own .contested (.slot 1), heard 12 .contested])
    (with1 (rec (.giver .staking)) { d with accounts := { d.accounts with hoist := some (bin 1000) } })
theorem test_yield_is_not_tried_at_once :
    crowded.claims.entries.length = 48 ∧ (bin 1000).stakeKey = 335 ∧
      next (.stakeHeard 9 ⟨⟨5, 6⟩, ⟨9, 1⟩, 450⟩) crowded
        (fun t => t.heardClaim ⟨5, 6⟩ 12 == none && t.ownClaim ⟨5, 6⟩ == none &&
          (t.recordAt 1).map (fun r => (r.state, r.request)) == some (.giver .staking, some .outranked)) = true := by decide +kernel

def offered (t p : Byte) : OfferBody := ⟨⟨6, 200⟩, 77, 2, 4095, ⟨5, 6⟩, t, p, 12⟩
theorem meets_OffersInviteOrRepeat :
    ((on (with1 { rec (.taker .bound) with partner := 9 })).hears 9 (.offer (offered 0 1)) ∧
        (on (with1 { rec (.taker .bound) with partner := 9 })).slotOf ⟨6, 200⟩ = some 1) ∧
      ((on id).hears 9 (.offer (offered 6 0)) ∧ (on id).slotOf ⟨6, 200⟩ = none ∧ (on id).freeSlot = some 0 ∧ (on id).canNotify) ∧
      (on muted).hears 9 (.offer (offered 0 0)) ∧ (on (peer .lapsed)).hears 9 (.offer (offered 6 0)) ∧ (on (peer .lapsed)).canSend ∧
      (on fun d => d.withTable (List.replicate 16 (some { rec (.taker .ended) with tag := ⟨4, 4⟩ }))).freeSlot = none ∧
      (on id).hears 9 (.offer (offered 8 0)) := by decide +kernel

def from9 (s : RecState) (p : Bool) : Record := { rec s with partner := 9, placed := p }
def facing (s : RecState) (p : Bool) : State := on fun d => onCell 1 (with1 (from9 s p) d)
/-- The checks of R30 that a frame of station 9 for record 1 passes. -/
theorem facing_concerned : ([.giver .offering, .giver .bound, .giver .placed, .giver .unbound, .giver .ended, .taker .invited,
      .taker .agreed, .taker .bound, .taker .ready, .taker .ended] : List RecState).all (fun s => [false, true].all fun p =>
        (facing s p).slotOf ⟨6, 200⟩ == some 1 && (facing s p).recordAt 1 == some (from9 s p)) = true := by decide +kernel

theorem meets_GiversHearAgreeAndLifted :
    (facing (.giver .offering) false).hears 9 (.agree ⟨⟨6, 200⟩, 9⟩) ∧ (facing (.giver .offering) false).canSend ∧
      (facing (.giver .offering) false).canNotify ∧ (facing (.giver .offering) true).line.queue.length ≤ 6 ∧
      (facing (.giver .placed) true).hears 9 (.lifted ⟨⟨6, 200⟩, 9, 77⟩) ∧
      (facing (.giver .placed) true).hears 9 (.lifted ⟨⟨6, 200⟩, 9, 78⟩) ∧ (facing (.giver .placed) true).canNotify ∧
      (from9 (.giver .placed) true).endCollected = false := by decide +kernel

/-- The lift of the run's ACTIVE entry with a waiting entry next, at the end of the list, before a withdrawn one, and in ENDING. -/
def liftedIn (st : RunState) (skip : Bool) (after : List EntryState) : State := on fun d =>
  claimed [own .placed (.slot 1)] (onCell 1 (with1 { from9 (.giver .placed) true with ordinal := 1 } (d.withRun
    { runList st with
      skip := skip, next := 1, timer := none,
      entries := ⟨77, .chilled, 9, .active⟩ :: after.map fun x => ⟨78, .frozen, 0, x⟩ })))
theorem meets_GiversHearAgreeAndLifted_run :
    ([(.inEntry, false, [.waiting]), (.inEntry, true, [.withdrawn, .waiting]), (.inEntry, false, []), (.inEntry, false, [.withdrawn]),
      (.ending, false, [.waiting])] : List (RunState × Bool × List EntryState)).all (fun x =>
        let s := liftedIn x.1 x.2.1 x.2.2
        s.recordAt 1 == some { from9 (.giver .placed) true with ordinal := 1 } && s.slotOf ⟨6, 200⟩ == some 1 &&
          s.engine.run.state == x.1 && (s.engine.run.entries.map fun e => e.state) == .active :: x.2.2 &&
          s.claimOfUse (.slot 1) == some (own .placed (.slot 1)) && s.claimOfUse .runHold == none) = true := by decide +kernel
theorem meets_GiversHearAgreeAndLifted_records :
    ∀ j q, (liftedIn .ending false []).recordAt j = some q → ¬q.WaitsFor ⟨5, 6⟩ := nobody_waits _ _ (by decide +kernel)
/-- A record of a higher slot waits for the stake. -/
def waited : State := on fun d =>
  claimed [own .placed (.slot 1)] (onCell 1 (with1 (from9 (.giver .placed) true) (d.setSlot 2
    (some { rec (.giver .staking) with tag := ⟨6, 201⟩, request := some .ownUse }))))
theorem meets_GiversHearAgreeAndLifted_pass :
    waited.hears 9 (.lifted ⟨⟨6, 200⟩, 9, 77⟩) ∧ waited.slotOf ⟨6, 200⟩ = some 1 ∧ waited.peers.state = .active ∧
      waited.engine.table.length = 16 ∧ (from9 (.giver .placed) true).ordinal = 0 ∧ waited.canSend ∧
      (∃ q, waited.recordAt 2 = some q ∧ q.WaitsFor ⟨5, 6⟩) ∧ waited.recordAt 0 = none ∧
      waited.recordAt 1 = some (from9 (.giver .placed) true) ∧ waited.claimOfUse (.slot 1) = some (own .placed (.slot 1)) :=
  ⟨by decide +kernel, by decide +kernel, by decide, by decide +kernel, by decide, by decide, ⟨_, rfl, rfl, rfl, rfl⟩, rfl, rfl,
    by decide +kernel⟩

theorem meets_DeclineAndCancelAreHeard :
    (facing (.giver .offering) false).hears 9 (.decline ⟨⟨6, 200⟩, 9, 1⟩) ∧
      (facing (.giver .placed) true).hears 9 (.cancel ⟨⟨6, 200⟩, 3⟩) ∧
      (facing (.taker .ready) true).hears 9 (.cancel ⟨⟨6, 200⟩, 2⟩) ∧
      (facing (.taker .ended) true).hears 9 (.cancel ⟨⟨6, 200⟩, 1⟩) ∧
      ([.giver .offering, .giver .placed, .taker .agreed, .taker .ready, .taker .ended] : List RecState).all (fun s =>
        decide (facing s true).canNotify) = true ∧ (from9 (.taker .ended) true).endCollected = false := by decide +kernel

theorem meets_TakersHearBindAndSetdown :
    (facing (.taker .agreed) false).hears 9 (.bind ⟨⟨6, 200⟩, 6⟩) ∧ (facing (.taker .ready) true).hears 9 (.bind ⟨⟨6, 200⟩, 7⟩) ∧
      (on (with1 (from9 (.taker .bound) false))).hears 9 (.setdown ⟨⟨6, 200⟩, ⟨5, 6⟩, 77, 2399⟩) ∧
      (on (with1 (from9 (.taker .bound) false))).canNotify ∧ 1 < (on (with1 (from9 (.taker .bound) false))).accounts.slots.length ∧
      BinClass.chilled.limit = some 2400 ∧ (2399 : BitVec 16).toNat < 2400 ∧
      (facing (.taker .bound) false).accountAt (.slot 1) = some { bin 400 with location := .cell } := by decide +kernel
theorem meets_TakersHearBindAndSetdown_bins :
    ¬∃ p a, (on (with1 (from9 (.taker .bound) false))).accountAt p = some a ∧ a.bin = (from9 (.taker .bound) false).bin := by
  rintro ⟨p, a, h, hb⟩
  exact meets_LoadBinOpensTheHoistAccount_bins p a h hb

theorem meets_AdoptAndReceiptAreHeard :
    ((on (peer .lapsed)).hears 9 (.adopt ⟨6⟩) ∧ (on (peer .lapsed)).canSend ∧ (on (peer .lapsed)).peers.state = .lapsed) ∧
      ((on fun d => with1 (placed (.giver .placed)) (peer .lapsed d)).slotOf ⟨6, 200⟩ = some 1 ∧
        (placed (.giver .placed)).cedable = true) ∧
      ((ceding 2 [⟨6, 200⟩]).hears 9 (.receipt ⟨⟨6, 200⟩, 6, 0, 0, some ⟨5, 6⟩⟩) ∧
        (ceding 2 [⟨6, 200⟩]).engine.ceding.adopter = some 9 ∧
        (ceding 2 [⟨6, 200⟩]).hears 9 (.receipt ⟨⟨6, 200⟩, 6, 1, 4, none⟩)) ∧
      ((facing (.taker .ready) true).hears 12 (.receipt ⟨⟨6, 200⟩, 9, 0, 0, none⟩) ∧ (facing (.taker .ready) true).canNotify) ∧
      (on (claimed [heard 9 .placed])).hears 12 (.receipt ⟨⟨6, 200⟩, 9, 0, 0, some ⟨5, 6⟩⟩) ∧
      (on (claimed [heard 9 .placed])).slotOf ⟨6, 200⟩ = none ∧
      (on (claimed [heard 9 .placed])).heardClaim ⟨5, 6⟩ 9 = some (heard 9 .placed) := by decide +kernel

/-- A TAKEN for a record that is not cedable, or stopped being so in its turn. -/
theorem meets_AdoptAndReceiptAreHeard_broken :
    ((brokenTurn (placed (.giver .unbound))).hears 9 (.receipt ⟨⟨6, 200⟩, 6, 0, 0, some ⟨5, 6⟩⟩) ∧
        (brokenTurn (placed (.giver .unbound))).canNotify ∧ (placed (.giver .unbound)).cedable = true) ∧
      (placed (.giver .offering)).cedable = false ∧ (placed (.giver .offering)).isEnded = false ∧
      (ceding 2 [⟨6, 200⟩]).engine.ceding.broken = false := by decide +kernel

/-- R112, R127, R132: a ceded giver record that carries an ordinal ends the run; a ceded taker record with its OFFER's ordinal does not. -/
def cedingRun (r : Record) : State := on fun d =>
  (((onCell 1 (with1 r (peer .ceding d))).withCeding
    { adopter := some 9, tags := [⟨6, 200⟩], turn := .tag ⟨6, 200⟩, attempts := 1, broken := false, ceded := 4, stranded := 2, frame := none })).withRun
      { runList .inEntry with entries := [⟨70, .ambient, 3, .done⟩, ⟨77, .chilled, 14, .active⟩], timer := none }
theorem meets_AdoptAndReceiptAreHeard_run :
    (let r : Record := { placed (.giver .placed) with ordinal := 2 }
     (cedingRun r).hears 9 (.receipt ⟨⟨6, 200⟩, 6, 0, 0, some ⟨5, 6⟩⟩) ∧ (cedingRun r).slotOf ⟨6, 200⟩ = some 1 ∧
      (cedingRun r).recordAt 1 = some r ∧ r.cedable = true ∧ r.isEnded = false ∧ (cedingRun r).engine.run.state = .inEntry ∧
      (cedingRun r).peers.hostReturned = false ∧ tagsAfter ⟨6, 200⟩ (cedingRun r).engine.ceding.tags = [] ∧
      (cedingRun r).engine.run.entry r.ordinal = some ⟨77, .chilled, 14, .active⟩) ∧
    (let r : Record := { rec (.taker .ready) with ordinal := 2 }
     r.cedable = true ∧ (cedingRun r).engine.ceding.broken = false ∧ (cedingRun r).recordAt 1 = some r ∧
      next (.receiptHeard 9 ⟨⟨6, 200⟩, 6, 0, 0, none⟩) (cedingRun r)
        (fun t => t.engine.run.state == .inEntry && t.recordAt 1 == none) = true) := by decide +kernel
/-- R144: the empty CEDE counts as the one attempt of its turn. -/
theorem test_empty_cede_counts :
    next (.adoptHeard 9 ⟨6⟩) (on (peer .lapsed))
      (fun t => t.engine.ceding.turn == .emptyCede && t.engine.ceding.attempts == 1) = true := by decide +kernel
/-- R64, R110: the yield of an UNBOUND record's stake keeps its offer-send count and timer; that of an OFFERING one resets both. -/
theorem test_yield_keeps_counts :
    ([(.unbound, 2, 3), (.offering, 0, 0)] : List (GiverState × Nat × Nat)).all (fun x =>
      next (.presenceHeard 9 (listed 400 3) true)
        (on fun d => claimed [own .held (.slot 1)] (with1 (rec (.giver x.1)) (hoisted d)))
        (fun t => (t.recordAt 1).map (fun r => (r.state, r.offers, r.timer, r.request)) ==
          some (.giver .staking, x.2.1, x.2.2, some .blocked))) = true := by decide +kernel

def adopting : State := on fun d => d.withAdoption ⟨.sending, 9, none, [⟨2, 2⟩], some 3⟩
def cededPart (role state location : Byte) : CedePart := ⟨⟨2, 3⟩, role, 4, 88, 1, 2500, ⟨8, 9⟩, state, location⟩
theorem meets_CedesAreTakenOrRefused :
    adopting.hears 9 (.cede ⟨6, 2, some (cededPart 2 3 0)⟩) ∧ adopting.hears 9 (.cede ⟨6, 3, some (cededPart 1 1 2)⟩) ∧
      adopting.hears 9 (.cede ⟨6, 1, none⟩) ∧ adopting.engine.adoption.phase ≠ .none ∧ adopting.engine.adoption.target = 9 ∧
      adopting.canSend ∧ adopting.canNotify ∧ adopting.freeSlot = some 0 ∧ ⟨2, 3⟩ ∉ adopting.engine.adoption.arrived ∧
      (⟨2, 2⟩ : Tag) ∈ adopting.engine.adoption.arrived ∧ adopting.slotOf ⟨2, 3⟩ = none ∧ adopting.ownClaim ⟨8, 9⟩ = none ∧
      adopting.ownCount < 4 ∧ adopting.line.queue.length ≤ 6 ∧ (4 : Station) ≠ adopting.line.station := by decide +kernel
theorem meets_CedesAreTakenOrRefused_records : adopting.noneStaking ∧ ∀ p, adopting.accountAt p = (on id).accountAt p :=
  ⟨none_staking _ (by decide), fun _ => rfl⟩

theorem meets_FramesAreReadAsTheyAreSent :
    stationInRange (arrives 5).origin = true ∧ bodyValid 9 (.presence (presence 4)) = true ∧ bodyValid 9 (.cede ⟨6, 1, none⟩) = true ∧
      2 ≤ (rawHop ⟨1, 0x20, 9, 0, []⟩).toNat := by decide

theorem meets_CommandsKeepToTheirState :
    Instr.collect.isPower = false ∧ Instr.owedNoticeMove.isLink = false ∧ Instr.owedNoticeMove.touchesRoster = false ∧
      exec .owedNoticeMove (on id) = .next ((on id).after (on id).toDevice) :=
  ⟨by decide, by decide, by decide, rfl⟩

theorem meets_SlackCreditAndKeyAreComputed :
    (bin 2397).cls ≠ .ambient ∧ (bin 2397).cls.limit = some 2400 ∧ 2400 < (bin 2397).e + (bin 2397).cls.openRate ∧
      (bin 2397).wait ≤ 1022 := by decide

theorem meets_EveryStepKeepsThePartSound : quiet.toDevice.Sound ∧ step quiet = .next quiet := ⟨quiet_sound, rfl⟩

end Sys2Proof.Tests
end

section
/-! PROOF. The receive filter from the bytes on the wire to its fifth step (R15 to R17): what each step decides, said once, and what a
number clash leaves. The summary flags through the reports of a flush stand first: no report clears CLASH. -/

namespace Sys2Proof.Machine

/-! ## The summary flags through the blocks' operations

The operations a flush can reach leave the summary flags alone; those that queue a non-record notice can set NOTICE_LOST (R158). -/

section Flags

variable (d : Device)

theorem foldl_flags {α : Type} {f : Device → α → Device} (hf : ∀ e a, (f e a).link.flags = e.link.flags) (l : List α) :
    (l.foldl f d).link.flags = d.link.flags := by
  induction l generalizing d with
  | nil => rfl
  | cons a l ih => exact (ih (f d a)).trans (hf d a)

theorem forSlots_flags {f : Nat → Device → Device} (hf : ∀ i e, (f i e).link.flags = e.link.flags) :
    (forSlots f d).link.flags = d.link.flags :=
  foldl_flags d (fun e i => hf i e) slotList

@[simp] theorem sendAbsorbed_flags (s : Sender) (b : Body) : (d.sendAbsorbed s b).link.flags = d.link.flags := rfl

@[simp] theorem modRecord_flags (i : Nat) (f : Record → Record) : (d.modRecord i f).link.flags = d.link.flags := by
  unfold Device.modRecord
  split <;> rfl

@[simp] theorem leaveTurn_flags (t : Tag) : (d.leaveTurn t).link.flags = d.link.flags := by
  unfold Device.leaveTurn
  split <;> rfl

@[simp] theorem moveOne_flags : d.moveOne.link.flags = d.link.flags := by
  unfold Device.moveOne
  split
  · split
    · split
      · dsimp only
        split <;> rfl
      · rfl
    · rfl
  · split <;> rfl

theorem moveOwedN_flags (n : Nat) : (moveOwedN n d).link.flags = d.link.flags := by
  induction n generalizing d with
  | zero => rfl
  | succ n ih =>
    unfold moveOwedN
    split
    · rw [ih, moveOne_flags]
    · rfl

@[simp] theorem moveOwed_flags : d.moveOwed.link.flags = d.link.flags := by
  unfold Device.moveOwed
  split
  · exact moveOwedN_flags d _
  · rfl

@[simp] theorem raise_flags (i : Nat) (k : NoticeKind) (o : OutcomePair) (v : List Byte) :
    (d.raise i k o v).link.flags = d.link.flags := by simp [Device.raise]

@[simp] theorem raiseEnded_flags (i : Nat) : (d.raiseEnded i).link.flags = d.link.flags := by
  unfold Device.raiseEnded
  split
  · exact raise_flags ..
  · rfl

/-! ### The staking attempt (R56, R57) -/

@[simp] theorem queueOffer_flags (i : Nat) : (d.queueOffer i).link.flags = d.link.flags := by
  unfold Device.queueOffer
  split <;> rfl

@[simp] theorem enterOffering_flags (i : Nat) : (d.enterOffering i).link.flags = d.link.flags := by
  unfold Device.enterOffering
  dsimp only
  split
  · rw [queueOffer_flags, modRecord_flags]
  · exact modRecord_flags ..

@[simp] theorem passStake_flags (c : Cell) (i : Nat) (t : Tag) : (d.passStake c i t).link.flags = d.link.flags :=
  enterOffering_flags ..

@[simp] theorem setRequest_flags (i : Nat) (s : RequestStatus) : (d.setRequest i s).link.flags = d.link.flags := modRecord_flags ..

@[simp] theorem stakeDropped_flags (c : Cell) (i : Nat) : (d.stakeDropped c i).link.flags = d.link.flags := modRecord_flags ..

@[simp] theorem makeRoom_flags (s : Option Station) : (d.makeRoom s).1.link.flags = d.link.flags := by
  unfold Device.makeRoom
  split
  · rfl
  · unfold Device.evict
    split <;> rfl

@[simp] theorem stakeCell_flags (i : Nat) (r : Record) (key : Nat) : (d.stakeCell i r key).1.link.flags = d.link.flags := by
  have before (f : Record → Record) : ((d.makeRoom none).1.modRecord i f).link.flags = d.link.flags := by simp
  unfold Device.stakeCell
  dsimp only
  split
  · exact before _
  · exact (stakeDropped_flags ..).trans (before _)

theorem attempt_flags (n i : Nat) : (attempt n i d).link.flags = d.link.flags := by
  induction n generalizing i d with
  | zero => rfl
  | succ n ih =>
    unfold attempt
    split
    · rfl
    · split
      · split
        · split
          · exact passStake_flags ..
          · exact setRequest_flags ..
        · split
          · exact setRequest_flags ..
          · dsimp only
            split
            · exact setRequest_flags ..
            · split
              · exact setRequest_flags ..
              · refine (foldl_flags _ (fun e c => foldl_flags e (fun e j => ?_) _) _).trans (stakeCell_flags ..)
                split
                · exact ih ..
                · rfl
      · rfl

@[simp] theorem enterStaking_flags (i : Nat) : (d.enterStaking i).link.flags = d.link.flags :=
  (attempt_flags ..).trans (modRecord_flags ..)

@[simp] theorem becomeActive_flags : d.becomeActive.link.flags = d.link.flags := by
  unfold Device.becomeActive Device.engineActive
  refine forSlots_flags (d.setStation .active) fun i e => ?_
  split
  · exact enterStaking_flags ..
  · split
    · exact queueOffer_flags ..
    · rfl

/-! ### The endings of a flush (R14) -/

@[simp] theorem pushNotice_clash (n : Notice) : (d.pushNotice n).link.flags.clash = d.link.flags.clash := by
  unfold Device.pushNotice
  split <;> rfl

@[simp] theorem endTaker_flags (i : Nat) (o : OutcomePair) : (d.endTaker i o).link.flags = d.link.flags := by
  unfold Device.endTaker
  split
  · dsimp only
    split <;> simp [Device.removeAccount]
  · rfl

@[simp] theorem agreeDropped_flags (i : Nat) (x : DropReason) : (d.agreeDropped i x).link.flags = d.link.flags := by
  unfold Device.agreeDropped
  split
  · exact endTaker_flags ..
  · rfl

@[simp] theorem bindDropped_flags (i : Nat) : (d.bindDropped i).link.flags = d.link.flags := by
  unfold Device.bindDropped
  split
  · split
    · simp [Device.sendCancel, Device.raisePartnerLost]
    · rfl
  · rfl

@[simp] theorem adoptDropped_clash (x : DropReason) : (d.adoptDropped x).link.flags.clash = d.link.flags.clash := by
  unfold Device.adoptDropped
  split
  · exact pushNotice_clash ..
  · rfl

@[simp] theorem endCeding_clash : d.endCeding.link.flags.clash = d.link.flags.clash := by
  unfold Device.endCeding
  dsimp only
  split
  · rw [Device.lapseEnded, pushNotice_clash, becomeActive_flags]
    rfl
  · rfl

@[simp] theorem emptyCedeEnded_clash : d.emptyCedeEnded.link.flags.clash = d.link.flags.clash := by
  unfold Device.emptyCedeEnded
  split
  · exact endCeding_clash _
  · rfl

/-- The report of a dropped frame leaves CLASH as it stands, whatever its block does with it. -/
theorem report_dropped_clash (reason : DropReason) (x : TxEntry) :
    (Device.report (.dropped reason) d x).link.flags.clash = d.link.flags.clash := by
  unfold Device.report
  split
  · rfl
  · dsimp only
    split
    case h_2 =>
      unfold Device.stakeEnded
      split
      · split
        case h_1 h => cases h
        case h_2 => rw [stakeDropped_flags]
        case h_3 => rfl
      · rfl
    case h_5 =>
      unfold Device.agreeEnded
      split
      · exact congrArg _ (agreeDropped_flags ..)
      · rfl
    case h_7 =>
      unfold Device.bindEnded
      split
      · exact congrArg _ (bindDropped_flags ..)
      · rfl
    case h_8 =>
      unfold Device.setdownEnded
      split
      · exact congrArg _ (modRecord_flags ..)
      · rfl
    case h_9 =>
      unfold Device.liftedEnded
      split
      · exact congrArg _ (modRecord_flags ..)
      · rfl
    case h_11 =>
      unfold Device.adoptEnded
      split
      · exact adoptDropped_clash ..
      · rfl
    case h_12 =>
      unfold Device.cedeEnded
      split
      · exact emptyCedeEnded_clash ..
      · rfl
    all_goals rfl

end Flags

/-! ## The forced mute (R4, R17) -/

section ForcedMute

variable (d : Device)

/-- R4: the Line Port once its queue has been flushed. -/
def LinePort.flushed (l : LinePort) : LinePort :=
  { l with queue := [], tx := .off, remaining := none, carrier := if l.tx = .send then false else l.carrier }

theorem flush_eq : d.flush = d.line.queue.foldl (Device.report (.dropped .lineMuted)) (d.withLine d.line.flushed) := rfl

/-- The reports of a flush are work of the blocks, and none of them touches the roster. -/
theorem flush_moves : Moves False True (d.withLine d.line.flushed) d.flush :=
  Moves.foldl (fun x _ h => h.report trivial _ x) d.line.queue (.refl _)

theorem flush_line (h : d.line.mode = .mute) : d.flush.line = d.line.flushed := (flush_moves d).line_muted h

@[simp] theorem flush_clash : d.flush.link.flags.clash = d.link.flags.clash := by
  rw [flush_eq]
  exact List.foldlRecOn _ _ (motive := fun e : Device => e.link.flags.clash = d.link.flags.clash) rfl
    fun e he x _ => (report_dropped_clash e _ x).trans he

@[simp] theorem pushNotice_line (n : Notice) : (d.pushNotice n).line = d.line := by
  unfold Device.pushNotice
  split <;> rfl

theorem mode_of_forcedMute {l : LinePort} (h : l.forcedMute = true) : l.mode = .mute := by simp [LinePort.mode, h]

theorem setMode_clash (m : LineMode) (f : Bool) : (d.setMode m f).link.flags.clash = d.link.flags.clash := by
  unfold Device.setMode
  dsimp only
  split
  · exact flush_clash _
  · rfl
  · rfl

/-- R3, R4: the forced mute set: a NORMAL line is flushed, a MUTE one keeps its (empty) queue. -/
theorem setMode_forced_line (m : LineMode) :
    (d.setMode m true).line =
      if d.line.mode = .normal then { d.line with requested := m, forcedMute := true }.flushed
      else { d.line with requested := m, forcedMute := true } := by
  have hmute : { d.line with requested := m, forcedMute := true }.mode = .mute := mode_of_forcedMute rfl
  unfold Device.setMode
  cases hm : d.line.mode with
  | normal => simpa [hmute] using flush_line (d.withLine { d.line with requested := m, forcedMute := true }) hmute
  | mute => simp [hmute]

/-- R17: CLASH is set, whether or not the forced mute stood already. -/
theorem clash_flag : d.clash.link.flags.clash = true := by
  unfold Device.clash
  dsimp only
  split
  · rfl
  · rw [setMode_clash, pushNotice_clash]
    rfl

/-- R17: after a clash the forced mute stands; a NORMAL line has been flushed. -/
theorem clash_line :
    d.clash.line =
      if d.line.mode = .normal then { d.line with forcedMute := true }.flushed else { d.line with forcedMute := true } := by
  unfold Device.clash
  dsimp only
  split
  · rename_i hf
    have hf : d.line.forcedMute = true := hf
    simp [mode_of_forcedMute hf, ← hf]
  · rw [setMode_forced_line, pushNotice_line]
    rfl

/-- R17: what of the Line Port a clash sets and keeps. -/
theorem clash_mutes :
    d.clash.line.forcedMute = true ∧ d.clash.line.mode = .mute ∧ d.clash.line.recent = d.line.recent ∧
      (d.line.mode = .normal → d.clash.line.queue = [] ∧ d.clash.line.tx = .off) := by
  rw [clash_line]
  split
  · exact ⟨rfl, mode_of_forcedMute rfl, rfl, fun _ => ⟨rfl, rfl⟩⟩
  · exact ⟨rfl, mode_of_forcedMute rfl, rfl, fun h => absurd h ‹_›⟩

end ForcedMute

/-! ## The envelope (R16) -/

section Envelope

variable (r : RawFrame)

theorem rawHop_toNat : (rawHop r).toNat = r.hopSect.toNat / 16 := by
  have := r.hopSect.isLt
  simp only [rawHop, BitVec.extractLsb'_toNat, Nat.shiftRight_eq_div_pow]
  omega

theorem low4_toNat (b : Byte) : (b.extractLsb' 0 4).toNat = b.toNat % 16 := by simp [BitVec.extractLsb'_toNat]

theorem rawSect_eq_iff (b : Byte) : rawSect r = b.extractLsb' 0 4 ↔ r.hopSect.toNat % 16 = b.toNat % 16 := by
  rw [← BitVec.toNat_inj, rawSect, low4_toNat, low4_toNat]

theorem rawHop_eq_one_iff : rawHop r = 1#4 ↔ r.hopSect.toNat / 16 = 1 := by
  rw [← BitVec.toNat_inj, rawHop_toNat]
  rfl

theorem envelopeInRange_iff :
    envelopeInRange r = true ↔
      1 ≤ r.kind.toNat ∧ r.kind.toNat ≤ 13 ∧ r.hopSect.toNat / 16 ≤ 1 ∧ 1 ≤ r.origin.toNat ∧ r.origin.toNat ≤ 31 := by
  simp [envelopeInRange, stationInRange, rawHop_toNat, and_assoc]

end Envelope

/-! ## The steps of the filter (R15 to R17) -/

section Filter

variable (d : Device) (r : RawFrame) (order : List FrameStep) (hoistFirst : Bool)

theorem filterFrame_of_section_ne (h : rawSect r ≠ d.line.sect.extractLsb' 0 4) : d.filterFrame r order hoistFirst = d := if_pos h

theorem filterFrame_of_out_of_range (h : envelopeInRange r = false) : d.filterFrame r order hoistFirst = d := by
  unfold Device.filterFrame
  rw [if_pos h, ite_self]

theorem filterFrame_of_echo (ho : r.origin = d.own) (h : rawHop r = 1#4) : d.filterFrame r order hoistFirst = d := by
  unfold Device.filterFrame
  simp [ho, h]

theorem filterFrame_of_own_number (hs : rawSect r = d.line.sect.extractLsb' 0 4) (he : envelopeInRange r = true)
    (ho : r.origin = d.own) (hh : rawHop r ≠ 1#4) : d.filterFrame r order hoistFirst = d.clash := by
  unfold Device.filterFrame
  simp [hs, he, ho, hh]

/-- R15: bytes whose length and check agree are a frame. -/
theorem checkFrame_of_agrees {k hs o sq len : Byte} {rest : List Byte} (h36 : len.toNat ≤ Config.maxBody)
    (hl : rest.length = len.toNat + 2)
    (hc : rest.drop len.toNat = bytes16 (crc16 (k :: hs :: o :: sq :: len :: rest.take len.toNat))) :
    checkFrame (k :: hs :: o :: sq :: len :: rest) = some ⟨k, hs, o, sq, rest.take len.toNat⟩ := by
  have hc2 : (rest.drop len.toNat).take 2 = rest.drop len.toNat := List.take_of_length_le (by rw [List.length_drop]; omega)
  simp only [checkFrame, hc2]
  exact if_pos ⟨h36, hl.ge, hc⟩

/-- R15: a frame that a running, configured station receives while it does not send goes through the filter. -/
theorem exec_frameReceived_of_check (s : State) (bytes : List Byte) (hr : s.power.state = .run) (hc : s.peers.state ≠ .unconfigured)
    (ht : s.line.tx ≠ .send) (hb : checkFrame bytes = some r) :
    exec (.frameReceived bytes order hoistFirst) s = .next (s.after (s.toDevice.filterFrame r order hoistFirst)) := by
  have h : s.toDevice.frameReceived bytes order hoistFirst = s.toDevice.filterFrame r order hoistFirst := by
    simp [Device.frameReceived, Device.running, Device.configured, hr, hc, ht, hb]
  show act (Device.frameReceived bytes order hoistFirst) s = _
  rw [act, h]
  rfl

end Filter

/-- Settles O45: each ground of R16 is a step of the filter that leaves the part as it is; the own number with hop 0 passes steps 2 to 4 and
is a clash. -/
theorem envelopeChecksDiscardSilently : Obligations.EnvelopeChecksDiscardSilently := by
  intro s bytes order hoistFirst k hs o sq len rest hrun hconf htx hbytes h36 hlen hcheck sect hop
  subst hbytes
  let r : RawFrame := ⟨k, hs, o, sq, rest.take len.toNat⟩
  have hexec := exec_frameReceived_of_check r order hoistFirst s _ hrun hconf htx (checkFrame_of_agrees h36 hlen hcheck)
  have hsect : rawSect r = s.line.sect.extractLsb' 0 4 ↔ sect = s.line.sect.toNat % 16 := rawSect_eq_iff r _
  have hhop : rawHop r = 1#4 ↔ hop = 1 := rawHop_eq_one_iff r
  have hrange : envelopeInRange r = true ↔
      1 ≤ k.toNat ∧ k.toNat ≤ 13 ∧ hop ≤ 1 ∧ 1 ≤ o.toNat ∧ o.toNat ≤ 31 := envelopeInRange_iff r
  refine ⟨fun hground => ?_, fun hsec hk1 hk13 hown ho1 ho31 hhop0 => ?_⟩
  · have hsteps : sect ≠ s.line.sect.toNat % 16 ∨ envelopeInRange r = false ∨ (o = s.line.station ∧ hop = 1) := by
      rw [← Bool.not_eq_true, hrange]
      grind
    have hsame : s.toDevice.filterFrame r order hoistFirst = s.toDevice := by
      rcases hsteps with hsec | hout | ⟨hown, hhop1⟩
      · exact filterFrame_of_section_ne _ r _ _ (mt hsect.mp hsec)
      · exact filterFrame_of_out_of_range _ r _ _ hout
      · exact filterFrame_of_echo _ r _ _ hown (hhop.mpr hhop1)
    rw [hexec, hsame]
    rfl
  · have hclash : s.toDevice.filterFrame r order hoistFirst = s.toDevice.clash :=
      filterFrame_of_own_number _ r _ _ (hsect.mpr hsec) (hrange.mpr ⟨hk1, hk13, by omega, ho1, ho31⟩) hown
        (fun h => by have := hhop.mp h; omega)
    rw [hexec, hclash]
    exact ⟨_, rfl, clash_flag _, clash_mutes _⟩

end Sys2Proof.Machine
end

section
/-! PROOF. A sent frame is read back as it was sent (R31): the receive filter's readers undo, part by part, what the layouts of R22 to R28
write, and the first check of the filter (R15) passes the envelope and the body of every frame whose body fits. -/

namespace Sys2Proof.Machine

/-! ## The bodies (R22 to R28) -/

@[simp] theorem stakeItemBytes_length (i : StakeItem) : (stakeItemBytes i).length = 7 := rfl

theorem stakeItems_length (is : List StakeItem) : (is.flatMap stakeItemBytes).length = 7 * is.length := by
  induction is with
  | nil => rfl
  | cons i is ih =>
    simp only [List.flatMap_cons, List.length_append, stakeItemBytes_length, ih, List.length_cons]
    omega

theorem parseStakeItems_bytes (is : List StakeItem) : parseStakeItems (is.flatMap stakeItemBytes) = some is := by
  induction is with
  | nil => rfl
  | cons i is ih =>
    simp [stakeItemBytes, cellBytes, tagBytes, bytes16, parseStakeItems, ih, word16_bytes]

/-- R32: the stake count stands in one byte, so it is read back when it fits there. -/
theorem parsePresence_bytes (b : PresenceBody) (h : b.stakes.length < 256) : parsePresence (presenceBytes b) = some b := by
  have hcount : b.stakes.length = (byteOf b.stakes.length).toNat := (Nat.mod_eq_of_lt h).symm
  simp [presenceBytes, cellBytes, bytes32, parsePresence, parseStakeItems_bytes, word32_bytes, ← hcount]

theorem parseCedePart_bytes (p : CedePart) : parseCedePart (cedePartBytes p) = some p := by
  simp [cedePartBytes, tagBytes, bytes32, bytes16, cellBytes, parseCedePart, word32_bytes, word16_bytes]

/-- R23: a valid PRESENCE lists at most four stakes. -/
theorem presence_stakes_le {o : Station} {b : PresenceBody} (h : bodyValid o (.presence b) = true) : b.stakes.length ≤ 4 := by
  simp only [bodyValid, Bool.and_eq_true, decide_eq_true_eq] at h
  obtain ⟨⟨⟨_, hle⟩, _⟩, _⟩ := h
  exact hle

/-- R31: a valid body fits in a frame; the longest is a PRESENCE with four stakes. -/
theorem bodyBytes_length_le {o : Station} {b : Body} (h : bodyValid o b = true) : (bodyBytes b).length ≤ Config.maxBody := by
  cases b with
  | presence b =>
    have hle := presence_stakes_le h
    simp only [bodyBytes, presenceBytes, cellBytes, bytes32, List.length_append, List.length_cons, List.length_nil,
      stakeItems_length, Config.maxBody]
    omega
  | cede b =>
    obtain ⟨adopter, flags, part⟩ := b
    cases part <;> simp [bodyBytes, cedePartBytes, tagBytes, bytes32, bytes16, cellBytes, Config.maxBody]
  | receipt b =>
    obtain ⟨tag, ceder, outcome, reason, cell⟩ := b
    cases cell <;> simp [bodyBytes, tagBytes, cellBytes, Config.maxBody]
  | _ => simp [bodyBytes, cellBytes, tagBytes, bytes16, bytes32, Config.maxBody]

/-- R22: a valid body is read back from its kind and its bytes. -/
theorem parseBody_bodyBytes {o : Station} {b : Body} (h : bodyValid o b = true) : parseBody (bodyKind b) (bodyBytes b) = some b := by
  cases b with
  | presence b =>
    have hfits : b.stakes.length < 256 := (presence_stakes_le h).trans_lt (by decide)
    exact congrArg (Option.map Body.presence) (parsePresence_bytes b hfits)
  | cede b =>
    obtain ⟨adopter, flags, part⟩ := b
    cases part with
    | none => rfl
    | some p => exact congrArg (Option.map fun q => Body.cede ⟨adopter, flags, some q⟩) (parseCedePart_bytes p)
  | receipt b =>
    obtain ⟨tag, ceder, outcome, reason, cell⟩ := b
    cases cell <;> rfl
  | _ => simp [parseBody, bodyKind, bodyBytes, cellBytes, tagBytes, bytes16, bytes32, word16_bytes, word32_bytes]

theorem bodyKind_in_range (b : Body) : 1 ≤ (bodyKind b).toNat ∧ (bodyKind b).toNat ≤ 13 := by
  cases b <;> simp [bodyKind]

/-! ## The envelope and the check (R15, R16, R20, R31) -/

/-- What the first check of the receive filter reads from a sent frame (`checkFrame_wireBytes`). -/
def Frame.raw (f : Frame) : RawFrame :=
  ⟨bodyKind f.body, (if f.relayed then 1#4 else 0#4) ++ f.sect, f.origin, f.seq, bodyBytes f.body⟩

theorem rawSect_raw (f : Frame) : rawSect f.raw = f.sect := (nibbles _ _).1

theorem rawHop_raw (f : Frame) : rawHop f.raw = if f.relayed then 1#4 else 0#4 := (nibbles _ _).2

/-- R15: bytes that end with the length they announce and the check over them are a frame. -/
theorem checkFrame_of_check (k hs o sq : Byte) {body : List Byte} (h : body.length ≤ Config.maxBody) :
    checkFrame (k :: hs :: o :: sq :: byteOf body.length ::
      (body ++ bytes16 (crc16 (k :: hs :: o :: sq :: byteOf body.length :: body)))) = some ⟨k, hs, o, sq, body⟩ := by
  have hlen : (byteOf body.length).toNat = body.length := Nat.mod_eq_of_lt (h.trans_lt (by decide))
  have htake (check : List Byte) : (body ++ check).take (byteOf body.length).toNat = body := List.take_left' hlen.symm
  have hdrop (check : List Byte) : (body ++ check).drop (byteOf body.length).toNat = check := List.drop_left' hlen.symm
  rw [checkFrame_of_agrees (hlen.trans_le h) (by rw [hlen, List.length_append]; rfl) (by rw [htake, hdrop]), htake]

theorem checkFrame_wireBytes (f : Frame) (h : (bodyBytes f.body).length ≤ Config.maxBody) :
    checkFrame (wireBytes f) = some f.raw := checkFrame_of_check _ _ _ _ h

/-- R16: a frame sent by a station of the range passes the third step of the filter. -/
theorem envelopeInRange_raw (f : Frame) (h : stationInRange f.origin = true) : envelopeInRange f.raw = true := by
  have hhop : (rawHop f.raw).toNat ≤ 1 := by
    rw [rawHop_raw]
    split <;> decide
  obtain ⟨hlow, hhigh⟩ := bodyKind_in_range f.body
  have horigin : stationInRange f.raw.origin = true := h
  have hkind : f.raw.kind = bodyKind f.body := rfl
  simp [envelopeInRange, hkind, hlow, hhigh, hhop, horigin]

theorem envelopeInRange_of_hop (r : RawFrame) (h : 2 ≤ (rawHop r).toNat) : envelopeInRange r = false := by
  have hhop : ¬(rawHop r).toNat ≤ 1 := by omega
  simp [envelopeInRange, hhop]

/-! ## The flags of a CEDE (R28, R31) -/

theorem cedeLast_iff (b : CedeBody) : cedeLast b = true ↔ b.flags.toNat % 2 = 1 := by
  simp [cedeLast, BitVec.getLsbD, Nat.testBit_zero]

theorem cedePresent_iff (b : CedeBody) : cedePresent b = true ↔ b.flags.toNat / 2 % 2 = 1 := by
  simp [cedePresent, BitVec.getLsbD, Nat.testBit_succ, Nat.testBit_zero]

/-- R28: a valid CEDE has no flag above bit 1, and its record part exactly with the record-present flag. -/
theorem cedeValid_flags {b : CedeBody} (h : cedeValid b = true) :
    b.flags.toNat < 4 ∧ (b.part ≠ none ↔ cedePresent b = true) := by
  simp only [cedeValid, Bool.and_eq_true, decide_eq_true_eq] at h
  obtain ⟨⟨_, hflags⟩, hmatch⟩ := h
  refine ⟨hflags, ?_⟩
  cases hpart : b.part with
  | none =>
    have habsent : cedePresent b = false ∧ cedeLast b = true := by simpa [hpart] using hmatch
    simp [habsent]
  | some p =>
    have hpresent : cedePresent b = true ∧ cedePartValid p = true := by simpa [hpart] using hmatch
    simp [hpresent]

/-- R31: of the flags below 4, those with the record-present flag are 2 and 3. -/
theorem cedePart_iff {b : CedeBody} (h : cedeValid b = true) : b.part ≠ none ↔ 2 ≤ b.flags.toNat := by
  obtain ⟨hflags, hpart⟩ := cedeValid_flags h
  rw [hpart, cedePresent_iff]
  omega

/-- Settles O57: the readers undo the layouts, the length and the check of the sent bytes agree, and the hop and flag ranges are those of
the validity rules. -/
theorem framesAreReadAsTheyAreSent : Obligations.FramesAreReadAsTheyAreSent := by
  refine ⟨fun f horigin hvalid => ?_, envelopeInRange_of_hop, fun o b hflags => ?_, fun o b hvalid => ?_⟩
  · have hfits := bodyBytes_length_le hvalid
    exact ⟨crc16 (frameBytes f), rfl, hfits, f.raw, checkFrame_wireBytes f hfits, rfl, rawSect_raw f, rawHop_raw f, rfl, rfl,
      envelopeInRange_raw f horigin, parseBody_bodyBytes hvalid⟩
  · rw [← Bool.not_eq_true]
    intro hvalid
    obtain ⟨hbelow, _⟩ := cedeValid_flags hvalid
    omega
  · exact ⟨cedeLast_iff b, cedePart_iff hvalid⟩

end Sys2Proof.Machine
end

section
/-! PROOF. Slack, aging credit and stake key of an account (R81): why the clamp of S is reached by ambient bins alone, and the bounds that
follow. -/

namespace Sys2Proof.Machine

/-! ## Slack -/

/-- R81's reason for its bound: a full budget lasts at most 600 seconds at the open rate. -/
theorem limit_div_openRate_le {c : BinClass} {l : Nat} (hl : c.limit = some l) : l / c.openRate ≤ 600 := by
  cases c with
  | ambient => cases hl
  | chilled => cases hl; decide
  | frozen => cases hl; decide

section Slack

variable {a : Account}

theorem slack_ambient (hc : a.cls = .ambient) : a.slack = 4095 := by
  simp [Account.slack, hc, BinClass.limit, Config.slackMax]

/-- R81: the clamp has no effect where there is a limit, and a spent budget gives 0 by the subtraction itself. -/
theorem slack_of_limit {l : Nat} (hl : a.cls.limit = some l) : a.slack = (l - a.e) / a.cls.openRate := by
  have hquot : (l - a.e) / a.cls.openRate ≤ 600 := (Nat.div_le_div_right (Nat.sub_le l a.e)).trans (limit_div_openRate_le hl)
  simp only [Account.slack, hl]
  split
  next hspent => rw [Nat.sub_eq_zero_of_le hspent, Nat.zero_div]
  next => exact min_eq_right (hquot.trans (by decide))

theorem slack_chilled (hc : a.cls = .chilled) : a.slack = (2400 - a.e) / 4 := by
  rw [slack_of_limit (l := 2400) (by rw [hc]; rfl), hc, BinClass.openRate]

theorem slack_frozen (hc : a.cls = .frozen) : a.slack = (1500 - a.e) / 6 := by
  rw [slack_of_limit (l := 1500) (by rw [hc]; rfl), hc, BinClass.openRate]

theorem slack_le_of_not_ambient (hc : a.cls ≠ .ambient) : a.slack ≤ 600 := by
  cases hcls : a.cls with
  | ambient => exact absurd hcls hc
  | chilled => rw [slack_chilled hcls]; omega
  | frozen => rw [slack_frozen hcls]; omega

theorem slack_le (a : Account) : a.slack ≤ 4095 := by
  by_cases hc : a.cls = .ambient
  · exact (slack_ambient hc).le
  · exact (slack_le_of_not_ambient hc).trans (by decide)

/-- R81: S is 0 already when less than one second of the open rate is left of the budget. -/
theorem slack_eq_zero_of_limit_lt {l : Nat} (hl : a.cls.limit = some l) (hlt : l < a.e + a.cls.openRate) : a.slack = 0 := by
  rw [slack_of_limit hl, Nat.div_eq_zero_iff]
  omega

end Slack

/-! ## Aging credit and stake key -/

theorem credit_eq (a : Account) : a.credit = min (a.wait / 2) 511 := min_comm _ _

theorem credit_eq_max_iff (a : Account) : a.credit = 511 ↔ 1022 ≤ a.wait := by
  rw [credit_eq]
  omega

theorem credit_eq_half {a : Account} (hw : a.wait ≤ 1022) : a.credit = a.wait / 2 := by
  rw [credit_eq]
  omega

theorem stakeKey_eq (a : Account) : a.stakeKey = if a.slack < a.credit then 0 else a.slack - a.credit := by
  split
  next hlt => exact Nat.sub_eq_zero_of_le hlt.le
  next => rfl

theorem stakeKey_le_slack (a : Account) : a.stakeKey ≤ a.slack := Nat.sub_le _ _

/-- Settles O56: the class table gives S case by case, where only an ambient bin meets the clamp; the key is at most S, so it has S's
bound and is 0 with it. -/
theorem slackCreditAndKeyAreComputed : Obligations.SlackCreditAndKeyAreComputed := by
  intro a
  refine ⟨?_, credit_eq a, stakeKey_eq a, slack_le a, (stakeKey_le_slack a).trans (slack_le a), slack_le_of_not_ambient,
    credit_eq_max_iff a, credit_eq_half, fun l hl hlt => ?_⟩
  · cases hc : a.cls with
    | ambient => exact slack_ambient hc
    | chilled => rw [slack_chilled hc]; dsimp only; split_ifs <;> omega
    | frozen => rw [slack_frozen hc]; dsimp only; split_ifs <;> omega
  · have hslack := slack_eq_zero_of_limit_lt hl hlt
    exact ⟨hslack, Nat.eq_zero_of_le_zero (hslack ▸ stakeKey_le_slack a)⟩

end Sys2Proof.Machine
end

section
/-! PROOF. BIND and SETDOWN at a taker record (R118, R119). A raised notice may find earlier notices owed, so that the moves of R159 run
over the whole table: what they leave alone, and that the record told keeps all but its pending-notice set, is proved first. -/

namespace Sys2Proof.Machine

/-! ## Owed notices move (R92, R159) -/

section Raise

variable {d : Device} {i : Nat} {r : Record} {n : Notice} (k : NoticeKind) (o : OutcomePair) (v : List Byte)

/-- One owed move takes the first notice of a record's set, or the owed RUN_ENDED, or nothing. -/
theorem moveOne_cases (d : Device) :
    (∃ j q p rest, d.recordAt j = some q ∧ q.notices = p :: rest ∧
      d.moveOne = (d.queueNotice (recordNotice j q.tag p)).setSlot j
        (if rest.isEmpty && q.isEnded && q.endCollected then none else some { q with notices := rest })) ∨
    (d.engine.run.mark = .owed ∧
      d.moveOne = (d.queueNotice (runEndedNotice d.engine.run)).withRun { d.engine.run with mark := .queued }) ∨
    d.moveOne = d := by
  unfold Device.moveOne
  split
  next j _ =>
    split
    next q hq =>
      split
      next p rest hn =>
        refine .inl ⟨j, q, p, rest, hq, hn, ?_⟩
        dsimp only
        split <;> rfl
      next => exact .inr (.inr rfl)
    next => exact .inr (.inr rfl)
  next =>
    split
    next hm => exact .inr (.inl ⟨hm, rfl⟩)
    next => exact .inr (.inr rfl)

/-- What every owed move keeps, the moves of a raise keep. -/
theorem moveOwed_keeps {Q : Device → Prop} (hQ : ∀ e, Q e → Q e.moveOne) (h : Q d) : Q d.moveOwed := by
  have hN (m : Nat) : ∀ e, Q e → Q (moveOwedN m e) := by
    induction m with
    | zero => exact fun _ he => he
    | succ m ih =>
      intro e he
      unfold moveOwedN
      split
      · exact ih _ (hQ e he)
      · exact he
  unfold Device.moveOwed
  split
  · exact hN _ d h
  · exact h

/-- The two parts differ in the Handover Engine and the drive link alone. -/
def Device.SameBeside (d e : Device) : Prop := e = { d with engine := e.engine, link := e.link }

theorem moveOne_sameBeside {e : Device} (h : d.SameBeside e) : d.SameBeside e.moveOne := by
  rcases moveOne_cases e with ⟨j, q, p, rest, -, -, hm⟩ | ⟨-, hm⟩ | hm <;> rw [hm, Device.SameBeside]
  · rw [h]; rfl
  · rw [h]; rfl
  · exact h

/-- A raised notice changes the Handover Engine and the drive link alone. -/
theorem raise_sameBeside (d : Device) (i : Nat) : d.SameBeside (d.raise i k o v) := by
  refine moveOwed_keeps (fun _ => moveOne_sameBeside) ?_
  unfold Device.modRecord
  split <;> rfl

@[simp] theorem raise_line : (d.raise i k o v).line = d.line := by rw [raise_sameBeside k o v d i]
@[simp] theorem raise_accounts : (d.raise i k o v).accounts = d.accounts := by rw [raise_sameBeside k o v d i]
@[simp] theorem raise_claims : (d.raise i k o v).claims = d.claims := by rw [raise_sameBeside k o v d i]
@[simp] theorem raise_peers : (d.raise i k o v).peers = d.peers := by rw [raise_sameBeside k o v d i]

/-- Slot `i` holds `r`, whatever its pending-notice set, and the record has gained the notice: it is queued, or owed in the set. -/
def Device.ToldOf (d : Device) (i : Nat) (r : Record) (n : Notice) : Prop :=
  ∃ q, d.recordAt i = some q ∧ q = { r with notices := q.notices } ∧
    (n ∈ d.link.notices ∨ ∃ p ∈ q.notices, recordNotice i q.tag p = n)

theorem Device.ToldOf.tells (h : d.ToldOf i r n) : d.tells i n := by
  obtain ⟨q, hq, -, hn⟩ := h
  exact hn.imp_right fun ⟨p, hp, hpn⟩ => ⟨q, p, hq, hp, hpn⟩

/-- A record that is not freed with its last notice stands after an owed move, and the notice it has gained is queued or still owed. -/
theorem moveOne_toldOf (hc : (r.isEnded && r.endCollected) = false) (h : d.ToldOf i r n) : d.moveOne.ToldOf i r n := by
  obtain ⟨q, hq, hqr, hn⟩ := h
  rcases moveOne_cases d with ⟨j, x, p, rest, hx, hnotices, hm⟩ | ⟨-, hm⟩ | hm <;> rw [hm]
  · by_cases hj : j = i
    · subst hj
      obtain rfl : q = x := Option.some.inj (hq.symm.trans hx)
      have hkept : (rest.isEmpty && q.isEnded && q.endCollected) = false := by
        have hcq : (q.isEnded && q.endCollected) = false := by rw [hqr]; exact hc
        rw [Bool.and_assoc, hcq, Bool.and_false]
      refine ⟨{ q with notices := rest }, ?_, by rw [hqr], ?_⟩
      · rw [hkept]
        exact recordAt_setSlot_self (d.queueNotice _) _ (recordAt_lt d hq)
      · rcases hn with hn | ⟨y, hy, rfl⟩
        · exact .inl (List.mem_append_left _ hn)
        · rw [hnotices] at hy
          rcases List.mem_cons.mp hy with rfl | hy
          · exact .inl (List.mem_append_right _ (List.mem_singleton.mpr rfl))
          · exact .inr ⟨y, hy, rfl⟩
    · exact ⟨q, (recordAt_setSlot_of_ne (d.queueNotice _) _ hj).trans hq, hqr, hn.imp_left (List.mem_append_left _)⟩
  · exact ⟨q, hq, hqr, hn.imp_left (List.mem_append_left _)⟩
  · exact ⟨q, hq, hqr, hn⟩

theorem self_mem_addPending (p : PendingNotice) (l : List PendingNotice) : p ∈ addPending p l := by
  induction l with
  | nil => exact List.mem_singleton.mpr rfl
  | cons q l ih =>
    unfold addPending
    split_ifs
    · exact List.mem_cons_self
    · exact List.mem_cons_self
    · exact List.mem_cons_of_mem _ ih

/-- R92: a record whose end notice has not been collected stands after a notice is raised in it, and has gained that notice. -/
theorem raise_toldOf (hr : d.recordAt i = some r) (hc : (r.isEnded && r.endCollected) = false) :
    (d.raise i k o v).ToldOf i r (r.notice i k o v) := by
  refine moveOwed_keeps (Q := fun e => e.ToldOf i r (r.notice i k o v)) (fun _ => moveOne_toldOf hc) ?_
  simp only [Device.modRecord, hr]
  exact ⟨_, recordAt_setSlot_self d _ (recordAt_lt d hr), rfl, .inr ⟨_, self_mem_addPending _ _, rfl⟩⟩

end Raise

/-! ## The account positions (R75) -/

section Positions

variable (d : Device)

theorem accountAt_slot_eq_some_iff {n : Nat} {a : Account} : d.accountAt (.slot n) = some a ↔ d.accounts.slots[n]? = some (some a) := by
  simp only [Device.accountAt]
  split <;> simp_all

theorem accountAt_congr {d e : Device} (h : e.accounts = d.accounts) (p : AccountPos) : e.accountAt p = d.accountAt p := by
  unfold Device.accountAt
  rw [h]

theorem accountAt_setAccount_slot {n : Nat} (a : Option Account) (h : n < d.accounts.slots.length) :
    (d.setAccount (.slot n) a).accountAt (.slot n) = a := by
  simp [Device.setAccount, Device.accountAt, h]

theorem accountAt_removeAccount_slot (n : Nat) : (d.removeAccount (.slot n)).accountAt (.slot n) = none := by
  rcases Nat.lt_or_ge n d.accounts.slots.length with h | h
  · exact accountAt_setAccount_slot d none h
  · simp [Device.removeAccount, Device.setAccount, Device.accountAt, h]

/-- R76: the search over the 17 positions finds the bin of any account. -/
theorem holdsBin_iff (b : BinId) : d.holdsBin b = true ↔ ∃ p a, d.accountAt p = some a ∧ a.bin = b := by
  simp only [Device.holdsBin, Bool.or_eq_true, List.any_eq_true]
  constructor
  · rintro (h | ⟨x, hx, h⟩)
    · cases ha : d.accounts.hoist with
      | none => simp [ha] at h
      | some a => exact ⟨.hoist, a, ha, by simpa [ha] using h⟩
    · obtain ⟨n, hn⟩ := List.mem_iff_getElem?.mp hx
      cases x with
      | none => simp at h
      | some a => exact ⟨.slot n, a, (accountAt_slot_eq_some_iff d).mpr hn, by simpa using h⟩
  · rintro ⟨p, a, ha, rfl⟩
    cases p with
    | hoist => exact .inl (by simp [show d.accounts.hoist = some a from ha])
    | slot n => exact .inr ⟨some a, List.mem_of_getElem? ((accountAt_slot_eq_some_iff d).mp ha), by simp⟩

/-- R79: an account below its limit is not spent. -/
theorem spentCheck_of_below {p : AccountPos} {a : Account} (ha : d.accountAt p = some a) (h : ∀ l, a.cls.limit = some l → a.e < l) :
    d.spentCheck p = d := by
  have hcross : a.crosses = false := by
    unfold Account.crosses
    split
    next l hl => simp [h l hl]
    next => rfl
  simp [Device.spentCheck, ha, hcross]

end Positions

/-! ## The end of a taker record (R126) -/

section EndTaker

variable {d : Device} {i : Nat} {r : Record} (o : OutcomePair)

/-- The part without the shadow of a record, if it has one. -/
def Device.withoutShadow (d : Device) (i : Nat) (r : Record) : Device :=
  if r.state = .taker .ready then d.removeAccount (.slot i) else d

/-- The record of a taker that has ended with an outcome and an end value. -/
def Record.takerEnded (r : Record) (o : OutcomePair) (value : Nat) : Record :=
  { r with state := .taker .ended, outcome := some o, endValue := value, endCollected := false, agreeFrame := none }

theorem withoutShadow_of_ready (h : r.state = .taker .ready) : d.withoutShadow i r = d.removeAccount (.slot i) := if_pos h

theorem withoutShadow_of_not_ready (h : r.state ≠ .taker .ready) : d.withoutShadow i r = d := if_neg h

/-- Removing a shadow touches the accounts alone. -/
theorem withoutShadow_eq (d : Device) (i : Nat) (r : Record) :
    d.withoutShadow i r = { d with accounts := (d.withoutShadow i r).accounts } := by
  unfold Device.withoutShadow
  split <;> rfl

theorem raiseEnded_of_record (hr : d.recordAt i = some r) :
    d.raiseEnded i = d.raise i .ended (r.outcome.getD outcomeDone) (bytesOfNat16 r.endValue) := by
  simp [Device.raiseEnded, hr]

/-- R126: the shadow is gone, the record is ENDED and leaves its turn, and ENDED is raised in it. -/
theorem endTaker_eq (hr : d.recordAt i = some r) :
    ∃ e value, e = { d with accounts := (d.withoutShadow i r).accounts, engine := d.leftWith i (r.takerEnded o value) } ∧
      e.recordAt i = some (r.takerEnded o value) ∧ d.endTaker i o = e.raise i .ended o (bytesOfNat16 value) := by
  let value := if r.state = .taker .ready then d.slotE i else 0
  let e : Device := { d with accounts := (d.withoutShadow i r).accounts, engine := d.leftWith i (r.takerEnded o value) }
  have he : ((d.withoutShadow i r).setSlot i (some (r.takerEnded o value))).leaveTurn (r.takerEnded o value).tag = e := by
    rw [setSlot_leaveTurn, withoutShadow_eq]
    rfl
  have hrec : e.recordAt i = some (r.takerEnded o value) := recordAt_setSlot_self d _ (recordAt_lt d hr)
  refine ⟨e, value, rfl, hrec, ?_⟩
  calc d.endTaker i o
      = (((d.withoutShadow i r).setSlot i (some (r.takerEnded o value))).leaveTurn (r.takerEnded o value).tag).raiseEnded i := by
        simp only [Device.endTaker, hr]
        rfl
    _ = e.raise i .ended o (bytesOfNat16 value) := by
        rw [he, raiseEnded_of_record hrec]
        rfl

/-- R126: what the end of a taker record leaves: the record ENDED with its outcome, and of the other blocks only a shadow gone. -/
theorem endTaker_ends (hr : d.recordAt i = some r) :
    ∃ r', (d.endTaker i o).recordAt i = some r' ∧ r'.tag = r.tag ∧ r'.state = .taker .ended ∧ r'.outcome = some o ∧
      (d.endTaker i o).accounts = (d.withoutShadow i r).accounts ∧ (d.endTaker i o).line = d.line ∧
      (d.endTaker i o).claims = d.claims ∧ (d.endTaker i o).peers = d.peers := by
  obtain ⟨e, value, he, hrec, hend⟩ := endTaker_eq o hr
  obtain ⟨q, hq, hqr, -⟩ := raise_toldOf .ended o (bytesOfNat16 value) hrec (Bool.and_false _)
  rw [hend]
  exact ⟨q, hq, by rw [hqr]; rfl, by rw [hqr]; rfl, by rw [hqr]; rfl, by simp [he]⟩

end EndTaker

/-! ## Frames at a taker record (R30, R118, R119) -/

section Heard

variable {d : Device} {o : Station} {i : Nat} {r : Record}

/-- R29: a body that the part hears reaches its owner. -/
theorem takeBody_of_hears {b : Body} (h : d.hears o b) (hoistFirst : Bool) : d.takeBody o b hoistFirst = d.dispatch o b hoistFirst := by
  obtain ⟨hrun, hconf, hlow, hhigh, hother, hvalid⟩ := h
  simp [Device.takeBody, Device.running, Device.configured, Device.own, stationInRange, hrun, hconf, hlow, hhigh, hother, hvalid]

/-- R30: a frame from the partner of the tag's record concerns that record. -/
theorem concerned_of_partner {t : Tag} (hs : d.slotOf t = some i) (hr : d.recordAt i = some r) (ho : r.partner = o) :
    d.concerned t o = some (i, r) := by
  simp [Device.concerned, hs, hr, ho]

theorem isGiver_of_taker {t : TakerState} (h : r.state = .taker t) : r.isGiver = false := by
  simp [Record.isGiver, h]

theorem exec_bindHeard_of_partner {s : State} {b : BindBody} {t : TakerState} (hh : s.hears o (.bind b)) (hs : s.slotOf b.tag = some i)
    (hr : s.recordAt i = some r) (ho : r.partner = o) (ht : r.state = .taker t) :
    exec (.bindHeard o b) s = .next (s.after (s.toDevice.takerHearBind i r b.taker)) := by
  show act (Device.takeBody o (.bind b) false) s = _
  rw [act, takeBody_of_hears hh, Device.dispatch, Device.hearBind, concerned_of_partner hs hr ho]
  simp only [isGiver_of_taker ht]
  rfl

theorem exec_setdownHeard_of_partner {s : State} {b : SetdownBody} {t : TakerState} (hh : s.hears o (.setdown b))
    (hs : s.slotOf b.tag = some i) (hr : s.recordAt i = some r) (ho : r.partner = o) (ht : r.state = .taker t) :
    exec (.setdownHeard o b) s = .next (s.after (s.toDevice.takerHearSetdown i r b)) := by
  show act (Device.takeBody o (.setdown b) false) s = _
  rw [act, takeBody_of_hears hh, Device.dispatch, Device.hearSetdown, concerned_of_partner hs hr ho]
  simp only [isGiver_of_taker ht]
  rfl

/-- R117: the timer of a record that is not AGREED does not expire. -/
theorem exec_agreedTimerExpiry_of_not_agreed {s : State} (hr : s.recordAt i = some r) (h : r.state ≠ .taker .agreed) :
    exec (.agreedTimerExpiry i) s = .next s := by
  show act (whenDue _ _) s = _
  simp [act, whenDue, Device.recordIs, hr, h]

/-! ### BIND (R118) -/

theorem takerHearBind_of_agreed {st : Station} (hst : st = d.line.station) (h : r.state = .taker .agreed) :
    d.takerHearBind i r st =
      (d.setSlot i (some { r with state := .taker .bound, agreeFrame := none })).raise i .bound outcomeDone [r.partner] := by
  simp [Device.takerHearBind, Device.own, hst, h]

theorem takerHearBind_of_other {st : Station} (hst : st ≠ d.line.station) (h : r.state ≠ .taker .ended) :
    d.takerHearBind i r st = d.endTaker i ⟨.upset, .lostToOther⟩ := by
  simp [Device.takerHearBind, Device.own, hst, h]

theorem takerHearBind_idle {st : Station} (h : r.state = .taker .ended ∨ (st = d.line.station ∧ r.state ≠ .taker .agreed)) :
    d.takerHearBind i r st = d := by
  rcases h with h | ⟨hst, h⟩
  · simp [Device.takerHearBind, h]
  · simp [Device.takerHearBind, Device.own, hst, h]

/-- R118: a BIND that names this station makes an AGREED record BOUND and raises BOUND in it. -/
theorem takerHearBind_binds {st : Station} (hr : d.recordAt i = some r) (hst : st = d.line.station) (h : r.state = .taker .agreed) :
    ∃ r', (d.takerHearBind i r st).recordAt i = some r' ∧ r'.tag = r.tag ∧ r'.state = .taker .bound ∧
      (d.takerHearBind i r st).tells i (r.notice i .bound ⟨.done, .ok⟩ [r.partner]) ∧
      (d.takerHearBind i r st).accounts = d.accounts ∧ (d.takerHearBind i r st).line = d.line ∧
      (d.takerHearBind i r st).claims = d.claims ∧ (d.takerHearBind i r st).peers = d.peers := by
  rw [takerHearBind_of_agreed hst h]
  have hslot := recordAt_setSlot_self d (some { r with state := .taker .bound, agreeFrame := none }) (recordAt_lt d hr)
  have told := raise_toldOf .bound outcomeDone [r.partner] hslot rfl
  have htells := told.tells
  obtain ⟨q, hq, hqr, -⟩ := told
  exact ⟨q, hq, by rw [hqr], by rw [hqr], htells, by simp⟩

/-! ### SETDOWN (R85, R119) -/

theorem takerHearSetdown_of_not_bound {b : SetdownBody} (h : r.state ≠ .taker .bound) : d.takerHearSetdown i r b = d := if_neg h

theorem takerHearSetdown_of_conflict {b : SetdownBody} (h : r.state = .taker .bound)
    (hc : b.cell ≠ r.cell ∨ b.bin ≠ r.bin ∨ d.holdsBin r.bin = true) : d.takerHearSetdown i r b = d.raiseCustody i := by
  unfold Device.takerHearSetdown
  rw [if_pos h]
  split_ifs with hne hheld
  · rfl
  · rfl
  · exact absurd hc (by tauto)

/-- R85: the shadow that a SETDOWN opens. -/
def Record.shadow (r : Record) (e : Nat) : Account :=
  { bin := r.bin, cls := r.cls, e := e, location := .shadow, spent := false, wait := 0 }

theorem takerHearSetdown_of_match {b : SetdownBody} (h : r.state = .taker .bound) (hcell : b.cell = r.cell) (hbin : b.bin = r.bin)
    (hfree : d.holdsBin r.bin = false) :
    d.takerHearSetdown i r b =
      (((d.setAccount (.slot i) (some (r.shadow b.e.toNat))).setSlot i (some { r with state := .taker .ready })).raise i .placed
        outcomeDone (bytes16 b.e)).spentCheck (.slot i) := by
  simp [Device.takerHearSetdown, h, hcell, hbin, hfree, Record.shadow]

/-- R92: a SETDOWN that cannot be right raises CUSTODY_CONFLICT in the record, which stays BOUND. -/
theorem raiseCustody_keeps (hr : d.recordAt i = some r) (h : r.state = .taker .bound) :
    ∃ r', (d.raiseCustody i).recordAt i = some r' ∧ r'.tag = r.tag ∧ r'.state = .taker .bound ∧
      (d.raiseCustody i).tells i (r.notice i .custodyConflict ⟨.upset, .custodyConflict⟩ []) ∧
      (d.raiseCustody i).accounts = d.accounts ∧ (d.raiseCustody i).line = d.line ∧
      (d.raiseCustody i).claims = d.claims ∧ (d.raiseCustody i).peers = d.peers := by
  have told := raise_toldOf .custodyConflict ⟨.upset, .custodyConflict⟩ [] hr (by simp [Record.isEnded, h])
  have htells := told.tells
  obtain ⟨q, hq, hqr, -⟩ := told
  exact ⟨q, hq, by rw [hqr], by rw [hqr]; exact h, htells, by simp [Device.raiseCustody]⟩

/-- A record that changes with the same pending-notice set leaves nothing owed, if nothing was owed. -/
theorem canNotify_setSlot (h : d.canNotify) (hr : d.recordAt i = some r) {q : Record} (hq : q.notices = r.notices) :
    (d.setSlot i (some q)).canNotify := by
  obtain ⟨hrun, howes, hroom⟩ := h
  obtain ⟨hempty, hmark⟩ := owes_eq_false.mp howes
  refine ⟨hrun, owes_eq_false.mpr ⟨fun j x hx => ?_, hmark⟩, hroom⟩
  by_cases hj : i = j
  · subst hj
    rw [recordAt_setSlot_self d _ (recordAt_lt d hr)] at hx
    rw [← Option.some.inj hx, hq, hempty i r hr]
  · exact hempty j x ((recordAt_setSlot_of_ne d _ hj).symm.trans hx)

/-- R85, R119: with room for the notice and the shadow below its limit, the shadow is opened, the record is READY and PLACED is queued. -/
theorem takerHearSetdown_opens {b : SetdownBody} (hr : d.recordAt i = some r) (h : r.state = .taker .bound) (hcell : b.cell = r.cell)
    (hbin : b.bin = r.bin) (hfree : d.holdsBin r.bin = false) (hi : i < d.accounts.slots.length) (hn : d.canNotify)
    (hlimit : ∀ l, r.cls.limit = some l → b.e.toNat < l) :
    d.takerHearSetdown i r b =
      { d with
        accounts := { d.accounts with slots := d.accounts.slots.set i (some (r.shadow b.e.toNat)) },
        engine := d.tableWith i { r with state := .taker .ready },
        link := d.notified (r.notice i .placed ⟨.done, .ok⟩ (bytes16 b.e)) } := by
  let e := d.setAccount (.slot i) (some (r.shadow b.e.toNat))
  let q : Record := { r with state := .taker .ready }
  have hraise : (e.setSlot i (some q)).raise i .placed outcomeDone (bytes16 b.e) =
      (e.setSlot i (some q)).withLink (d.notified (r.notice i .placed ⟨.done, .ok⟩ (bytes16 b.e))) :=
    raise_of_room (canNotify_setSlot (d := e) (q := q) hn hr rfl) (recordAt_setSlot_self e _ (recordAt_lt d hr)) rfl ..
  rw [takerHearSetdown_of_match h hcell hbin hfree, hraise]
  exact spentCheck_of_below _ (accountAt_setAccount_slot d _ hi) hlimit

end Heard

/-- Settles O53: a BIND naming this station binds an AGREED record, one naming another is the end of the record, and a SETDOWN opens the
shadow of a BOUND record or is a custody conflict. Neither branch queues a frame. -/
theorem takersHearBindAndSetdown : Obligations.TakersHearBindAndSetdown := by
  intro s o i r t hr ht ho
  have hstate {x : TakerState} : r.state = .taker x ↔ t = x := by rw [ht, RecState.taker.injEq]
  refine ⟨fun b hh hs => ?_, fun b hh hs => ?_⟩
  · rw [exec_bindHeard_of_partner hh hs hr ho ht]
    refine ⟨fun hidle => ?_, fun hown hagreed => ?_, fun hother hlive => ?_⟩
    · rw [takerHearBind_idle (by rwa [Ne, hstate, hstate])]
      rfl
    · obtain ⟨r', hr', htag, hbound, htells, hkept⟩ := takerHearBind_binds hr hown (hstate.mpr hagreed)
      have htimer := exec_agreedTimerExpiry_of_not_agreed (s := s.after _) hr' (by simp [hbound])
      exact ⟨_, r', rfl, hr', htag, hbound, ho ▸ htells, htimer, hkept⟩
    · rw [takerHearBind_of_other hother (mt hstate.mp hlive)]
      obtain ⟨r', hr', htag, hended, hout, hacc, hkept⟩ := endTaker_ends ⟨.upset, .lostToOther⟩ hr
      refine ⟨_, r', rfl, hr', htag, hended, hout, fun hready => ?_, fun hready => ?_, hkept⟩
      · rw [accountAt_congr hacc, withoutShadow_of_ready (hstate.mpr hready), accountAt_removeAccount_slot]
      · rw [hacc, withoutShadow_of_not_ready (mt hstate.mp hready)]
  · rw [exec_setdownHeard_of_partner hh hs hr ho ht]
    intro held
    have hheld : s.holdsBin r.bin = true ↔ held := holdsBin_iff _ _
    refine ⟨fun hb => ?_, fun hb hconflict => ?_, fun hb hcell hbin hfree hi hn hlimit => ?_⟩
    · rw [takerHearSetdown_of_not_bound (mt hstate.mp hb)]
      rfl
    · rw [takerHearSetdown_of_conflict (hstate.mpr hb) (by rwa [hheld])]
      obtain ⟨r', hr', hkept⟩ := raiseCustody_keeps hr (hstate.mpr hb)
      exact ⟨_, r', rfl, hr', hkept⟩
    · rw [takerHearSetdown_opens hr (hstate.mpr hb) hcell hbin (Bool.eq_false_iff.mpr (mt hheld.mp hfree)) hi hn hlimit]
      exact ⟨r.placed, rfl⟩

end Sys2Proof.Machine
end

section
/-! PROOF. The step, the part after reset, and the power states (11): a part that does not run stands still but for the power commands. -/

namespace Sys2Proof.Machine

/-! ## The step and the part after reset -/

/-- Settles O1. -/
theorem stepTakesTheFrontCommand : Obligations.StepTakesTheFrontCommand := by
  refine ⟨fun s c rest h => ?_, fun s h => ?_⟩
  · unfold step
    rw [h]
    rfl
  · unfold step
    rw [h]

/-- Settles O2: every command's meaning is an `act`, which keeps the waiting commands. -/
theorem everyCommandIsAnswered : Obligations.EveryCommandIsAnswered := by
  intro c s
  cases c <;> exact ⟨_, rfl⟩

/-- Settles O3. -/
theorem resetIsAColdStart : Obligations.ResetIsAColdStart := by
  have haccount (p : AccountPos) : State.reset.accountAt p = none := by
    cases p with
    | hoist => rfl
    | slot n =>
      simp only [Device.accountAt, State.reset, Device.cold, List.getElem?_replicate]
      by_cases h : n < Config.slotCount <;> simp [h]
  have hrecord (i : Nat) : State.reset.recordAt i = none := by
    simp only [Device.recordAt, State.reset, Device.cold, List.getElem?_replicate]
    by_cases h : i < Config.slotCount <;> simp [h]
  exact ⟨rfl, rfl, rfl, rfl, rfl, rfl, rfl, rfl, rfl, rfl, rfl, rfl, rfl, rfl, rfl, haccount, hrecord, rfl, rfl, rfl, rfl, rfl, rfl, rfl,
    rfl, rfl, rfl, rfl, rfl, rfl, rfl, rfl, rfl, rfl⟩

/-- Settles O60. -/
theorem resetIsSound : Obligations.ResetIsSound := by
  refine ⟨⟨?_, ?_, ?_, ?_, ?_, ?_, ?_, ?_, ?_, ?_, ?_⟩, ⟨?_, ?_, ?_, ?_, ?_, ?_⟩, ⟨?_, ?_, ?_, ?_, ?_, ?_, ?_⟩, ⟨?_, ?_, ?_⟩,
    ⟨?_, ?_, ?_, ?_, ?_, ?_, ?_⟩, ?_, ?_, fun _ => ⟨rfl, rfl⟩⟩ <;> decide

/-! ## Entering RETAIN (R161, R162) -/

theorem enterRetain_entered (d : Device) (m h : Bool) : RetainEntered d (d.enterRetain m h) := by
  refine ⟨rfl, rfl, rfl, rfl, rfl, rfl, rfl, rfl, rfl, fun x hx o ho => ?_, rfl, rfl, rfl, rfl, rfl, rfl, rfl, rfl, rfl, rfl, rfl, rfl,
    rfl, rfl, rfl, rfl, rfl⟩
  obtain ⟨y, -, rfl⟩ := List.mem_map.mp hx
  obtain ⟨o', -, rfl⟩ := Option.map_eq_some_iff.mp ho
  exact ⟨rfl, rfl⟩

/-- Settles O4. -/
theorem retainIsEnteredAndCounts : Obligations.RetainIsEnteredAndCounts := by
  refine ⟨fun s hs => ⟨?_, ?_⟩, fun s hs => ⟨?_, ?_⟩⟩
  · refine ⟨s.enterRetain false s.power.resetHeld, ?_, enterRetain_entered .., rfl, rfl⟩
    show act Device.mainPowerLoss s = _
    simp [act, Device.mainPowerLoss, hs, State.after]
  · refine ⟨s.enterRetain s.power.mainPower true, ?_, enterRetain_entered .., rfl, rfl⟩
    show act Device.resetAssert s = _
    simp [act, Device.resetAssert, hs, State.after]
  · show act Device.backupSecond s = _
    simp [act, Device.backupSecond, hs, State.after, Device.withPower, Config.countMax]
  · show act Device.thresholdDip s = _
    cases hm : s.power.mainPower <;> simp [act, Device.thresholdDip, hs, hm, State.after, Device.withPower]
    rw [← hs, ← hm]

/-! ## Starts (R161, R162, R165) -/

theorem tryColdStart_of_latch {d : Device} (hr : d.power.state ≠ .run) (hl : d.power.state = .retain → d.power.holdLatch = true) :
    d.tryColdStart = d.coldStart := by
  unfold Device.tryColdStart
  split
  · rfl
  · next h => rw [if_pos (hl h)]
  · next h => exact absurd h hr

theorem tryResume_of_run {d : Device} (hr : d.power.state = .run) : d.tryResume = d := by
  simp [Device.tryResume, hr]

/-- Settles O6. -/
theorem coldStartGivesTheInitialState : Obligations.ColdStartGivesTheInitialState := by
  intro s hr hl
  have hcold := tryColdStart_of_latch hr hl
  refine ⟨?_, fun hreset => ?_, fun hretain hreset => ?_⟩
  · show act Device.tryColdStart s = _
    rw [act, hcold]
    rfl
  · show act Device.mainPowerReturn s = _
    have : s.mainPowerReturn = s.coldStart := by
      unfold Device.mainPowerReturn
      split
      · next h => exact absurd h hr
      · rw [hreset, hcold]
        exact tryResume_of_run (d := s.coldStart) rfl
      · rw [hreset]
        rfl
    rw [act, this]
    rfl
  · show act Device.mainPowerReturn s = _
    simp [act, Device.mainPowerReturn, hretain, hreset, State.after, Device.withPower]

/-! ## Out of RUN (R161) -/

section Still

variable {d : Device} (h : d.running = false)
include h

theorem whenRunning_of_still (f : Device → Device) : whenRunning f d = d := by simp [whenRunning, h]

theorem whenConfigured_of_still (f : Device → Device) : whenConfigured f d = d := by simp [whenConfigured, h]

theorem whenDue_of_still (p : Device → Bool) (f : Device → Device) : whenDue p f d = d := by simp [whenDue, h]

theorem takeBody_of_still (o : Station) (b : Body) (k : Bool) : d.takeBody o b k = d := by simp [Device.takeBody, h]

theorem frameReceived_of_still (l : List Byte) (o : List FrameStep) (k : Bool) : d.frameReceived l o k = d := by
  simp [Device.frameReceived, h]

theorem moveOwed_of_still : d.moveOwed = d := by simp [Device.moveOwed, h]

theorem linkByte_of_still (b : Byte) : d.linkByte b = d := by simp [Device.linkByte, h]

theorem linkBytes_of_still (l : List Byte) : d.linkBytes l = d := by
  induction l with
  | nil => rfl
  | cons b l ih => rw [Device.linkBytes, List.foldl_cons, linkByte_of_still h]; exact ih

theorem hostRequest_of_still (q : Request) : d.hostRequest q = d := linkBytes_of_still h _

theorem selectRelease_of_still (l : List Byte) : d.selectRelease l = d := by simp [Device.selectRelease, h]

end Still

/-- A command that is not one of chapter 11 is an event that needs a running part. -/
theorem exec_of_still {c : Instr} {s : State} (h : s.running = false) (hc : c.isPower = false) : exec c s = .next s := by
  have key {f : Device → Device} (hf : f s.toDevice = s.toDevice) : act f s = .next s := by rw [act, hf]
  cases c
  case frameReceived => exact key (frameReceived_of_still h _ _ _)
  case selectRelease => exact key (selectRelease_of_still h _)
  case fillByte => exact key (linkByte_of_still h _)
  case resultByte => exact key (linkByte_of_still h _)
  case owedNoticeMove => exact key (moveOwed_of_still h)
  case beaconPeriodExpiry | accountingSecond | recentPairExpiry => exact key (whenRunning_of_still h _)
  case lineBusy | quietGapComplete | deferralEnd | lineSlot | cleanSend | collision => exact key (whenConfigured_of_still h _)
  case joinListenExpiry | hostSilenceExpiry | rosterEntryQuiet | rosterEntryLost | claimAgeOut | settleExpiry | lingerExpiry |
      offerRepeat | offerWindowExpiry | answerWindowExpiry | agreedTimerExpiry | serviceWindowExpiry | adoptionTimerExpiry | cedeRetry |
      turnCloseUnanswered =>
    exact key (whenDue_of_still h _ _)
  case presenceHeard | stakeHeard | unstakeHeard | offerHeard | agreeHeard | declineHeard | bindHeard | setdownHeard | liftedHeard |
      cancelHeard | adoptHeard | cedeHeard | receiptHeard =>
    exact key (takeBody_of_still h _ _ _)
  case mainPowerLoss | resetAssert | backupSecond | holdThresholdDip | coldStart | resume | mainPowerReturn => cases hc
  case invalidRequest => exact key (f := fun d => d.linkBytes _) (linkBytes_of_still h _)
  all_goals exact key (hostRequest_of_still h _)

/-- Settles O5. -/
theorem nothingButPowerActsOutOfRun : Obligations.NothingButPowerActsOutOfRun := by
  intro c s hs hc
  exact exec_of_still (by simpa [Device.running] using hs) hc

/-! ## Medium access (R9, R10) -/

/-- Settles O42. -/
theorem mediumAccessCountsDownToSend : Obligations.MediumAccessCountsDownToSend := by
  intro s hrun hconf go
  have hline (f : LinePort → LinePort) : act (onLine f) s = .next (s.after { s.toDevice with line := f s.line }) := by
    have : (s.running && s.configured) = true := by simp [Device.running, Device.configured, hrun, hconf]
    simp [act, onLine, whenConfigured, this, State.after, Device.withLine]
  have hgo (l : LinePort) (n : Nat) : ({ l with carrier := false } : LinePort).deferWith n = go l n := by
    unfold LinePort.deferWith
    rfl
  refine ⟨(hline _).trans ?_, fun htx => ⟨fun hnone => (hline _).trans ?_, fun n hn => (hline _).trans ?_⟩,
    fun n htx hn => ⟨(hline _).trans ?_, fun h1 => (hline _).trans ?_⟩⟩
  · unfold LinePort.busy
    split <;> simp_all
  · rw [← hgo]
    simp [LinePort.quietGap, htx, hnone]
    rfl
  · rw [← hgo]
    simp [LinePort.quietGap, htx, hn]
  · rw [← hgo]
    simp [LinePort.slot, htx, hn]
  · simp [LinePort.deferEnd, htx, hn, h1, LinePort.deferWith, go]

end Sys2Proof.Machine
end

section
/-! PROOF. The requests: what of the part each can come to be (10.3), what every request leaves (R149 to R152), and which commands leave
what alone. -/

namespace Sys2Proof.Machine

/-! ## Taking a request apart

A request is refused, or has passed its checks and takes its effects. Each lemma names the effects with the checks they rest on, for any
property of the part that the request starts with. -/

section Requests

variable {d : Device} {Q : Device → Prop} (h0 : Q d)
include h0

theorem reqConfigure_keeps {st se re mo : Byte}
    (h : d.peers.state = .unconfigured → stationInRange st = true →
      Q ((d.withLine (d.line.configured st se (re == 1#8) (lineModeOf mo))).withPeers d.peers.joining)) :
    Q (d.reqConfigure st se re mo).1 := by
  unfold Device.reqConfigure
  split
  · exact h0
  · next hc =>
    split
    · exact h0
    · next hp =>
      simp only [Bool.or_eq_true, not_or] at hp
      exact h (by simpa [Device.configured] using hc) (by simpa using hp.1.1.1)

theorem reqSetLineMode_keeps {mo : Byte}
    (h : d.peers.state ≠ .unconfigured → Q (d.setMode .mute d.line.forcedMute) ∧ Q (d.setMode .normal false)) :
    Q (d.reqSetLineMode mo).1 := by
  unfold Device.reqSetLineMode
  split
  · exact h0
  · next hc =>
    have hconf : d.peers.state ≠ .unconfigured := by simpa [Device.configured] using hc
    split
    · exact h0
    · split
      · exact h0
      · dsimp only
        split
        · exact (h hconf).1
        · exact (h hconf).2

theorem reqSetPosition_keeps {c : Cell} (h : Q (d.withLink { d.link with position := c })) : Q (d.reqSetPosition c).1 := by
  unfold Device.reqSetPosition
  split
  · exact h
  · exact h0

theorem reqLoadBin_keeps {b : BinId} {cl : Byte} {e0 : BitVec 16}
    (h : Q (d.createAccount .hoist b (BinClass.ofByte cl) e0.toNat .hoist)) : Q (d.reqLoadBin b cl e0).1 := by
  unfold Device.reqLoadBin
  split_ifs
  · exact h0
  · exact h0
  · exact h0
  · exact h0
  · exact h

theorem reqUnloadBin_keeps (h : Q (d.removeAccount .hoist)) : Q d.reqUnloadBin.1 := by
  unfold Device.reqUnloadBin
  split
  · exact h0
  · split
    · exact h0
    · split
      · exact h0
      · exact h

theorem reqPostHandover_keeps {c : Cell} {t : Byte} (h : ∀ i a, d.freeSlot = some i → Q (d.createGiver i a c t 0)) :
    Q (d.reqPostHandover c t).1 := by
  unfold Device.reqPostHandover
  split
  · exact h0
  · split
    · exact h0
    · split
      · exact h0
      · split
        · exact h0
        · next hi => split_ifs; exacts [h0, h0, h _ _ hi]

theorem withRecord_keeps {t : Tag} {f : Nat → Record → Device × Reply} (h : ∀ i r, d.recordAt i = some r → Q (f i r).1) :
    Q (d.withRecord t f).1 := by
  unfold Device.withRecord
  split
  · exact h0
  · split
    · exact h0
    · split
      · exact h0
      · next hr => exact h _ _ hr

theorem reqReoffer_keeps {t : Tag} {k : Byte}
    (h : ∀ i r, d.recordAt i = some r → r.state = .giver .unbound → Q (d.giverReoffer i r k)) : Q (d.reqReoffer t k).1 := by
  refine withRecord_keeps h0 fun i r hr => ?_
  split
  · exact h0
  · next hs => split; exacts [h0, h i r hr (not_not.mp hs)]

theorem reqReportSetdown_keeps {t : Tag}
    (h : ∀ i r, d.recordAt i = some r → r.state = .giver .bound ∨ r.state = .giver .unbound → Q (d.giverSetdown i r)) :
    Q (d.reqReportSetdown t).1 := by
  refine withRecord_keeps h0 fun i r hr => ?_
  split
  · exact h0
  · next hs =>
    have hstate : r.state = .giver .bound ∨ r.state = .giver .unbound := by
      by_contra hn
      exact hs ⟨fun hb => hn (.inl hb), fun hu => hn (.inr hu.1)⟩
    split
    · exact h0
    · split
      · exact h0
      · split
        · exact h0
        · exact h i r hr hstate

theorem reqRecover_keeps {t : Tag} (h : ∀ i r, d.recordAt i = some r → r.isGiver = true → Q (d.giverRecover i r)) :
    Q (d.reqRecover t).1 := by
  refine withRecord_keeps h0 fun i r hr => ?_
  split
  · exact h0
  · next hs =>
    split_ifs
    · exact h0
    · exact h0
    · exact h0
    · exact h0
    · exact h i r hr (by simp [Record.isGiver, hs])

theorem reqCancel_keeps {t : Tag} (hg : ∀ i r, d.recordAt i = some r → r.isGiver = true → Q (d.giverCancel i r))
    (ht : ∀ i r, d.recordAt i = some r → r.isGiver = false → Q (d.takerCancel i r)) : Q (d.reqCancel t).1 := by
  refine withRecord_keeps h0 fun i r hr => ?_
  split
  · exact h0
  · split
    · next hs => split; exacts [h0, hg i r hr hs]
    · next hs => exact ht i r hr (Bool.eq_false_iff.mpr hs)

theorem reqAnswerInvite_keeps {t : Tag} {a : Byte}
    (h : ∀ i r, d.recordAt i = some r → r.state = .taker .invited → Q (d.takerAgree i r) ∧ Q (d.takerDecline i r)) :
    Q (d.reqAnswerInvite t a).1 := by
  refine withRecord_keeps h0 fun i r hr => ?_
  split
  · exact h0
  · split
    · exact h0
    · next hs => split; exacts [(h i r hr (not_not.mp hs)).1, (h i r hr (not_not.mp hs)).2]

theorem reqReportLift_keeps {t : Tag} (h : ∀ i r, d.recordAt i = some r → r.state = .taker .ready → Q (d.takerLift i r)) :
    Q (d.reqReportLift t).1 := by
  refine withRecord_keeps h0 fun i r hr => ?_
  split
  · exact h0
  · exact h0
  · next hs =>
    split_ifs
    · exact h0
    · exact h0
    · exact h i r hr hs
  · exact h0

theorem reqStartRun_keeps {c : Cell} {k n : BitVec 4} {es : List RunItem}
    (h : n.toNat ≤ Config.runSize → Q (d.withRun (startedRun c k es))) : Q (d.reqStartRun c k n es).1 := by
  unfold Device.reqStartRun
  split_ifs with hconf hactive hrun hparam hitems
  · exact h0
  · exact h0
  · exact h0
  · exact h0
  · exact h0
  · exact h (by omega)

theorem reqNextEntry_keeps {o : Byte}
    (h : ∀ i a t, d.freeSlot = some i →
      Q ((d.withRun (d.engine.run.handing o.toNat)).createGiver i a d.engine.run.cell t o.toNat)) : Q (d.reqNextEntry o).1 := by
  unfold Device.reqNextEntry
  dsimp only
  split
  · exact h0
  · split
    · exact h0
    · split
      · exact h0
      · split
        · exact h0
        · split
          · exact h0
          · split
            · exact h0
            · split
              · exact h0
              · split
                · exact h0
                · next hi => exact h _ _ _ hi

theorem reqWithdrawEntry_keeps {o : Byte} (hw : Q (d.withRun (d.engine.run.setEntry o.toNat .withdrawn)))
    (ha : Q ((d.withRun (d.engine.run.setEntry o.toNat .withdrawn)).advanceRun false).1) : Q (d.reqWithdrawEntry o).1 := by
  unfold Device.reqWithdrawEntry
  dsimp only
  split
  · exact h0
  · split
    · exact h0
    · split
      · exact h0
      · split
        · exact h0
        · dsimp only
          split
          · exact ha
          · exact hw

theorem reqEndRun_keeps (he : Q (d.endRun ⟨.done, .terminated⟩)) (hl : Q (d.withRun { d.engine.run with state := .ending })) :
    Q d.reqEndRun.1 := by
  unfold Device.reqEndRun
  split
  · exact h0
  · split
    · exact he
    · exact hl
    · exact h0

theorem reqAdopt_keeps {t : Byte} (h : Q (d.startAdoption t)) : Q (d.reqAdopt t).1 := by
  unfold Device.reqAdopt
  split
  · exact h0
  · split
    · exact h0
    · split
      · exact h0
      · split
        · exact h0
        · split
          · exact h0
          · split
            · exact h0
            · exact h

theorem reqSetWatch_keeps {i f r c s : Byte} (h : ∀ w, Q (d.withClaims { d.claims with watches := d.claims.watches.set i.toNat w })) :
    Q (d.reqSetWatch i f r c s).1 := by
  unfold Device.reqSetWatch
  split
  · exact h0
  · exact h _

theorem reqCollect_keeps
    (h : ∀ n rest, d.link.notices = n :: rest → Q ((d.withLink { d.link with notices := rest }).noticeCollected n).moveOwed) :
    Q d.reqCollect.1 := by
  unfold Device.reqCollect Device.takeNotice
  cases hn : d.link.notices with
  | nil => exact h0
  | cons n rest => exact h n rest hn

end Requests

/-! ## What every request leaves -/

/-- What a request and its completion leave of the byte exchange itself. -/
structure DriveLink.SameExchange (l m : DriveLink) : Prop where
  outOfPhase : m.outOfPhase = l.outOfPhase
  incomplete : m.incomplete = l.incomplete
  selected : m.selected = l.selected
  dataOut : m.dataOut = l.dataOut

/-- What every request leaves of the part: the power state, the roster, the byte exchange; a station that is configured is left in its
state, or, when a flush ended its ceding, in LAPSED or ACTIVE. -/
structure Device.AfterRequest (d e : Device) : Prop where
  power : e.power = d.power
  roster : e.peers.roster = d.peers.roster
  exchange : d.link.SameExchange e.link
  state : d.peers.state ≠ .unconfigured → e.peers.state = d.peers.state ∨ e.peers.state = .lapsed ∨ e.peers.state = .active

theorem DriveLink.SameExchange.refl (l : DriveLink) : l.SameExchange l := ⟨rfl, rfl, rfl, rfl⟩

theorem Moves.exchange {P S : Prop} {d e : Device} (h : Moves P S d e) : d.link.SameExchange e.link := by
  rw [h.link_eq]
  exact ⟨rfl, rfl, rfl, rfl⟩

theorem Moves.state_eq {P : Prop} {d e : Device} (h : Moves P False d e) : e.peers.state = d.peers.state := by
  rw [h.station_eq not_false]

theorem Moves.afterRequest {d e : Device} (h : Moves False False d e) : d.AfterRequest e :=
  ⟨h.power_eq, h.roster_eq not_false, h.exchange, fun _ => .inl h.state_eq⟩

theorem Device.AfterRequest.of_moves {d d' e : Device} (h : Moves False False d' e) (hp : d'.power = d.power)
    (hr : d'.peers = d.peers) (hl : d.link.SameExchange d'.link) : d.AfterRequest e := by
  obtain ⟨power, roster, exchange, state⟩ := h.afterRequest
  exact ⟨power.trans hp, by rw [roster, hr],
    ⟨exchange.1.trans hl.1, exchange.2.trans hl.2, exchange.3.trans hl.3, exchange.4.trans hl.4⟩, fun _ => .inl (by rw [h.state_eq, hr])⟩

theorem becomeActive_moves (d : Device) : Moves False False (d.setStation .active) d.becomeActive := (Moves.refl _).engineActive

/-- R39: the ceding ends in ACTIVE or in LAPSED. -/
theorem endCeding_state (d : Device) : d.endCeding.peers.state = .lapsed ∨ d.endCeding.peers.state = .active := by
  unfold Device.endCeding
  dsimp only
  split
  · exact .inr (becomeActive_moves _).lapseEnded.state_eq
  · exact .inl rfl

/-- R144: only the ending of the empty CEDE changes the station state: it ends the ceding. -/
theorem report_state (x : Ending) (d : Device) (q : TxEntry) :
    (Device.report x d q).peers.state = d.peers.state ∨ (Device.report x d q).peers.state = .lapsed ∨
      (Device.report x d q).peers.state = .active := by
  have hrefl : Moves False False d d := .refl d
  unfold Device.report
  split
  · exact .inl rfl
  · dsimp only
    split
    case h_2 => exact .inl (hrefl.stakeEnded _ _).state_eq
    case h_5 => exact .inl (hrefl.agreeEnded _ _ _).state_eq
    case h_7 => exact .inl (hrefl.bindEnded _ _ _).state_eq
    case h_8 => exact .inl (hrefl.setdownEnded _ _ _).state_eq
    case h_9 => exact .inl (hrefl.liftedEnded _ _ _).state_eq
    case h_11 => exact .inl (hrefl.adoptEnded _ _).state_eq
    case h_12 =>
      unfold Device.cedeEnded Device.emptyCedeEnded
      split
      · split
        · exact .inr (endCeding_state d)
        · exact .inl rfl
      · exact .inl rfl
    all_goals exact .inl rfl

theorem setMode_afterRequest (d : Device) (m : LineMode) (f : Bool) : d.AfterRequest (d.setMode m f) := by
  have hkept (l : LinePort) : d.AfterRequest (d.withLine l) := ⟨rfl, rfl, .refl _, fun _ => .inl rfl⟩
  unfold Device.setMode
  dsimp only
  split
  · have hmoves := flush_moves (d.withLine { d.line with requested := m, forcedMute := f })
    refine ⟨hmoves.power_eq, hmoves.roster_eq not_false, hmoves.exchange, fun _ => ?_⟩
    exact List.foldlRecOn _ _
      (motive := fun e : Device => e.peers.state = d.peers.state ∨ e.peers.state = .lapsed ∨ e.peers.state = .active) (.inl rfl)
      fun e he x _ => (report_state _ e x).elim (fun h => he.imp h.trans (Or.imp h.trans h.trans)) .inr
  · exact hkept _
  · exact hkept _

theorem noticeCollected_moves (d : Device) (n : Notice) : Moves False False d (d.noticeCollected n) := by
  unfold Device.noticeCollected Device.endedCollected
  split
  · split
    · split_ifs
      · exact .slot _ _ (.refl d)
      · exact .slot _ _ (.refl d)
      · exact .refl d
    · exact .refl d
  · exact .run _ (.refl d)
  · exact .refl d

/-- R150: the effects of a request. -/
theorem perform_afterRequest (d : Device) (q : Request) : d.AfterRequest (d.perform q).1 := by
  have h0 : d.AfterRequest d := Moves.afterRequest (.refl d)
  have hrefl : Moves False False d d := .refl d
  cases q with
  | configure st se re mo => exact reqConfigure_keeps h0 fun hu _ => ⟨rfl, rfl, .refl _, fun hn => absurd hu hn⟩
  | setLineMode mo => exact reqSetLineMode_keeps h0 fun _ => ⟨setMode_afterRequest .., setMode_afterRequest ..⟩
  | readStatus => exact ⟨rfl, rfl, ⟨rfl, rfl, rfl, rfl⟩, fun _ => .inl rfl⟩
  | setPosition c => exact reqSetPosition_keeps h0 ⟨rfl, rfl, ⟨rfl, rfl, rfl, rfl⟩, fun _ => .inl rfl⟩
  | loadBin b cl e0 => exact reqLoadBin_keeps h0 (hrefl.createAccount ..).afterRequest
  | unloadBin => exact reqUnloadBin_keeps h0 (Moves.account _ _ hrefl).afterRequest
  | postHandover c t => exact reqPostHandover_keeps h0 fun i a _ => (hrefl.createGiver ..).afterRequest
  | reoffer g t => exact reqReoffer_keeps h0 fun i r _ _ => (hrefl.giverReoffer ..).afterRequest
  | reportSetdown g => exact reqReportSetdown_keeps h0 fun i r _ _ => (hrefl.giverSetdown ..).afterRequest
  | reportLift g => exact reqReportLift_keeps h0 fun i r _ _ => (hrefl.takerLift ..).afterRequest
  | recover g => exact reqRecover_keeps h0 fun i r _ _ => (hrefl.giverRecover ..).afterRequest
  | answerInvite g a =>
    exact reqAnswerInvite_keeps h0 fun i r _ _ => ⟨(hrefl.takerAgree ..).afterRequest, (hrefl.takerDecline ..).afterRequest⟩
  | cancel g =>
    exact reqCancel_keeps h0 (fun i r _ _ => (hrefl.giverCancel ..).afterRequest) fun i r _ _ => (hrefl.takerCancel ..).afterRequest
  | startRun c k n es => exact reqStartRun_keeps h0 fun _ => (Moves.run _ hrefl).afterRequest
  | nextEntry o => exact reqNextEntry_keeps h0 fun i a t _ => (Moves.createGiver _ _ _ _ _ (Moves.run _ hrefl)).afterRequest
  | withdrawEntry o => exact reqWithdrawEntry_keeps h0 (Moves.run _ hrefl).afterRequest ((Moves.run _ hrefl).advanceRun _).afterRequest
  | endRun => exact reqEndRun_keeps h0 (hrefl.endRun _).afterRequest (Moves.run _ hrefl).afterRequest
  | adopt t => exact reqAdopt_keeps h0 (hrefl.startAdoption _).afterRequest
  | setWatch i f r c s => exact reqSetWatch_keeps h0 fun w => ⟨rfl, rfl, .refl _, fun _ => .inl rfl⟩
  | collect =>
    exact reqCollect_keeps h0 fun n rest _ => .of_moves (noticeCollected_moves _ n).moveOwed rfl rfl ⟨rfl, rfl, rfl, rfl⟩
  | readRecord s => exact h0
  | readClaims p => exact h0
  | readRoster p => exact h0

theorem judgeRequest_afterRequest (d : Device) (code length : Byte) (ps : List Byte) : d.AfterRequest (d.judgeRequest code length ps).1 := by
  have h0 : d.AfterRequest d := Moves.afterRequest (.refl d)
  unfold Device.judgeRequest
  split
  · exact h0
  · split
    · exact h0
    · split
      · exact perform_afterRequest d _
      · exact h0

end Sys2Proof.Machine
end

section
/-! PROOF. The drive link (10.1, 10.2): the byte exchange, SELECT going high, what the completion of every request shows, and the requests that
change nothing but the configuration, the position, the watches and the summary flags (10.4, 10.5). -/

namespace Sys2Proof.Machine

variable {s : State} {d : Device}

/-! ## The byte exchange (R149 to R152) -/

theorem statusByte_eq (l : DriveLink) : l.statusByte = BitVec.ofNat 8
    ((if l.incomplete then 16 else 0) + (if l.outOfPhase then 8 else 0) + (if l.notices = [] then 0 else 4) + l.phase.code) := by
  unfold DriveLink.statusByte bit
  cases l.notices <;> rfl

theorem requestCompleted_moves (d : Device) : Moves False True d d.requestCompleted := (Moves.refl d).requestCompleted trivial

/-- R150: the completion of a request leaves the byte exchange as it stood when its last byte came. -/
theorem complete_exchange (d : Device) (code length : Byte) (ps : List Byte) :
    d.link.SameExchange (d.complete code length ps).link := by
  have hjudged := (judgeRequest_afterRequest d code length ps).exchange
  have hcompleted := (requestCompleted_moves ((d.judgeRequest code length ps).1.withResult (d.judgeRequest code length ps).2)).exchange
  exact ⟨hcompleted.1.trans hjudged.1, hcompleted.2.trans hjudged.2, hcompleted.3.trans hjudged.3, hcompleted.4.trans hjudged.4⟩

theorem gatherByte_exchange (d : Device) (g : List Byte) : d.link.SameExchange (d.gatherByte g).link := by
  unfold Device.gatherByte
  split
  · split
    · exact complete_exchange ..
    · exact ⟨rfl, rfl, rfl, rfl⟩
  · exact ⟨rfl, rfl, rfl, rfl⟩

/-- Settles O10. -/
theorem linkExchangesOneByte : Obligations.LinkExchangesOneByte := by
  refine ⟨fun s b hrun hidle => ?_, fun s b hrun hgather => ?_, fun s received b rest hrun hresult hbytes => ?_⟩
  · intro shown
    have hstatus : s.link.statusByte = BitVec.ofNat 8
        ((if s.link.incomplete then 16 else 0) + (if s.link.outOfPhase then 8 else 0) + (if s.link.notices = [] then 0 else 4) + 0) := by
      rw [statusByte_eq, hidle]
      rfl
    have hshown : s.link.giveStatus = shown :=
      congrArg (fun b => { s.link with selected := true, dataOut := some b, outOfPhase := false, incomplete := false }) hstatus
    have hbyte (b : Byte) : s.linkByte b =
        { s.toDevice with link := if b = 0 then shown else { shown with phase := .gather, gathered := [b] } } := by
      unfold Device.linkByte
      rw [if_pos (by simp [Device.running, hrun]), hidle]
      dsimp only
      rw [hshown]
      by_cases hb : b = 0#8
      · rw [if_pos hb, if_pos (show b = 0 from hb)]
        rfl
      · rw [if_neg hb, if_neg (show ¬b = 0 from hb)]
        rfl
    exact ⟨congrArg (fun e => Host.Outcome.next (s.after e)) (hbyte 0), congrArg (fun e => Host.Outcome.next (s.after e)) (hbyte b)⟩
  · have hbyte : s.linkByte b = (s.withLink s.link.giveStatus).gatherByte (s.link.gathered ++ [b]) := by
      unfold Device.linkByte
      rw [if_pos (by simp [Device.running, hrun]), hgather]
    obtain ⟨hout, hinc, hsel, hdata⟩ := gatherByte_exchange (s.withLink s.link.giveStatus) (s.link.gathered ++ [b])
    refine ⟨_, congrArg (fun e => Host.Outcome.next (s.after e)) hbyte, hdata.trans ?_, hout, hinc, hsel⟩
    show some s.link.statusByte = _
    rw [statusByte_eq, hgather]
    rfl
  · show act (fun d => d.linkByte received) s = _
    have hbyte : s.linkByte received = s.withLink (s.link.giveResult received) := by
      unfold Device.linkByte
      rw [if_pos (by simp [Device.running, hrun]), hresult]
    rw [act, hbyte]
    unfold DriveLink.giveResult
    rw [hbytes]
    cases rest <;> simp [State.after, Device.withLink, bne, Bool.beq_eq_decide_eq]

/-- Settles O11. -/
theorem selectReleaseDiscardsAPartialRequest : Obligations.SelectReleaseDiscardsAPartialRequest := by
  intro s hrun
  have hrunning : s.running = true := by simp [Device.running, hrun]
  have hrelease (bs : List Byte) : exec (.selectRelease bs) s = .next (s.after (s.linkBytes bs).selectHigh) := by
    show act (Device.selectRelease bs) s = _
    rw [act, Device.selectRelease, if_pos hrunning]
    rfl
  refine ⟨fun hgather => ?_, fun hgather => ?_, fun code length ps hidle hcode hlength hps => ?_⟩
  · rw [hrelease]
    unfold Device.selectHigh
    rw [if_pos (show (s.linkBytes []).link.phase = .gather from hgather)]
    rfl
  · rw [hrelease]
    unfold Device.selectHigh
    rw [if_neg (show (s.linkBytes []).link.phase ≠ .gather from hgather)]
    rfl
  · have hgathered : ∃ st, s.linkBytes (code :: length :: ps) = s.withLink (s.link.asking (code :: length :: ps) st) := by
      show ∃ st, Device.linkBytes ((s.linkByte code).linkByte length) ps = _
      rw [linkByte_code _ hrunning hidle code hcode, linkByte_gather _ hrunning [code] _ length]
      · obtain ⟨st, hst⟩ := linkBytes_gather s.toDevice hrunning code length [] ps (by simpa using hps) hlength (gatherStatus s.link.notices)
        exact ⟨st, hst⟩
      · intro c l ps' he
        simp only [List.cons_append, List.nil_append, List.cons.injEq] at he
        obtain ⟨-, rfl, rfl⟩ := he
        simp only [gatherComplete, Bool.or_eq_false_iff, decide_eq_false_iff_not, List.length_nil]
        have : Config.maxParams = 250 := rfl
        omega
    obtain ⟨st, hst⟩ := hgathered
    rw [hrelease, hst]
    rfl

/-! ## The completion of a request (R37 to R39, R150) -/

section Completed

variable (d : Device) (hc : d.peers.state ≠ .unconfigured)

theorem requestCompleted_of_lapsed (h : d.peers.state = .lapsed) :
    d.requestCompleted = (d.withPeers { d.peers with silenceTimer := some Config.hostSilence }).becomeActive.lapseEnded := by
  simp [Device.requestCompleted, h]

theorem requestCompleted_of_ceding (h : d.peers.state = .ceding) :
    d.requestCompleted = d.withPeers { d.peers with silenceTimer := some Config.hostSilence, hostReturned := true } := by
  simp [Device.requestCompleted, h]
  rfl

theorem requestCompleted_of_live (h : d.peers.state = .joining ∨ d.peers.state = .active) :
    d.requestCompleted = d.withPeers { d.peers with silenceTimer := some Config.hostSilence } := by
  rcases h with h | h <;> simp [Device.requestCompleted, h]

include hc in
/-- R37 to R39: what a completed request leaves of the station's own state. -/
theorem requestCompleted_peers :
    d.requestCompleted.peers.silenceTimer = some 20 ∧ d.requestCompleted.peers.state ≠ .lapsed ∧
      (d.peers.state = .lapsed ∨ d.peers.state = .active → d.requestCompleted.peers.state = .active) ∧
      (d.requestCompleted.peers.state = .ceding → d.requestCompleted.peers.hostReturned = true) := by
  cases hs : d.peers.state with
  | unconfigured => exact absurd hs hc
  | joining =>
    rw [requestCompleted_of_live d (.inl hs)]
    simp [hs, Config.hostSilence]
  | active =>
    rw [requestCompleted_of_live d (.inr hs)]
    simp [hs, Config.hostSilence]
  | lapsed =>
    rw [requestCompleted_of_lapsed d hs]
    have hpeers := (becomeActive_moves (d.withPeers { d.peers with silenceTimer := some Config.hostSilence })).lapseEnded.station_eq
      not_false
    rw [hpeers]
    simp [Device.setStation, Config.hostSilence]
  | ceding =>
    rw [requestCompleted_of_ceding d hs]
    simp [hs, Config.hostSilence]

end Completed

/-- The effects of a request, with its result placed: the part as the completion finds it. -/
theorem answered_peers {e : Device} {r : Reply} (hc : d.peers.state ≠ .unconfigured) (h : d.AfterRequest e) :
    (e.withResult r).requestCompleted.link.phase = .result ∧ 3 ≤ (e.withResult r).requestCompleted.link.result.length ∧
      (e.withResult r).requestCompleted.peers.silenceTimer = some 20 ∧ (e.withResult r).requestCompleted.peers.state ≠ .lapsed ∧
      (d.peers.state = .lapsed → (e.withResult r).requestCompleted.peers.state = .active) ∧
      ((e.withResult r).requestCompleted.peers.state = .ceding → (e.withResult r).requestCompleted.peers.hostReturned = true) := by
  have hstate := h.state hc
  have hconf : (e.withResult r).peers.state ≠ .unconfigured := by
    intro hu
    have hu : e.peers.state = .unconfigured := hu
    rcases hstate with hs | hs | hs
    · exact hc (hs ▸ hu)
    · simp [hs] at hu
    · simp [hs] at hu
  obtain ⟨htimer, hlapsed, hactive, hceding⟩ := requestCompleted_peers (e.withResult r) hconf
  have hlink := (requestCompleted_moves (e.withResult r)).link_eq
  refine ⟨by rw [hlink]; rfl, by rw [hlink]; simp [Device.withResult, Reply.bytes], htimer, hlapsed, fun hs => hactive ?_, hceding⟩
  rcases hstate with h | h | h
  · exact .inl (h.trans hs)
  · exact .inl h
  · exact .inr h

/-- A START RUN spells its count in four bits (R128). -/
theorem spelled_startRun {c : Cell} {k : BitVec 4} {es : List RunItem} (h : es.length < 16) :
    Request.Spelled (.startRun c k (BitVec.ofNat 4 es.length) es) := by
  intro c' k' n' es' he
  obtain ⟨-, -, rfl, rfl⟩ := Request.startRun.inj he
  simpa using h

/-- A request of the catalogue is its bytes on the link. -/
theorem exec_request {c : Instr} (hc : c.isRequest = true) (hwf : c.wf = true) :
    ∃ q : Request, Request.Spelled q ∧ ∀ s : State, exec c s = act (Device.hostRequest q) s := by
  cases c
  case startRun row col skip es => exact ⟨_, spelled_startRun (by simpa [Instr.wf] using hwf), fun _ => rfl⟩
  case configure | setLineMode | readStatus | setPosition | loadBin | unloadBin | postHandover | reoffer | reportSetdown | reportLift |
      recover | answerInvite | cancel | nextEntry | withdrawEntry | endRun | adopt | setWatch | collect | readRecord | readClaims |
      readRoster =>
    exact ⟨_, by simp [Request.Spelled], fun _ => rfl⟩
  all_goals cases hc

/-- Settles O12. -/
theorem everyRequestShowsTheHostIsThere : Obligations.EveryRequestShowsTheHostIsThere := by
  intro c s hc hwf hready hconf
  obtain ⟨q, hq, hexec⟩ := exec_request hc hwf
  obtain ⟨g, hg⟩ := hostRequest_ready s.toDevice hready q (parseRequest_bytes q hq) (requestParams_length q hq)
  refine ⟨_, (hexec s).trans (congrArg (fun e => Host.Outcome.next (s.after e)) hg), ?_⟩
  exact answered_peers (d := s.withLink (s.link.asking g (gatherStatus s.link.notices))) hconf (perform_afterRequest _ q)

/-! ## The results of requests -/

theorem act_hostRequest {q : Request} {e : Device} {r : Reply} (h : s.hostRequest q = s.toDevice.answered e r) :
    act (Device.hostRequest q) s = .next (s.answered e r) := congrArg (fun e => Host.Outcome.next (s.after e)) h

/-- A request that is refused has no other effect. -/
theorem request_refused (hs : s.ready) (q : Request) {why : Detail} (h : ∀ l, (s.withLink l).perform q = (s.withLink l).refuse why)
    (hq : Request.Spelled q := by simp [Request.Spelled]) :
    act (Device.hostRequest q) s = .next (s.answered s.toDevice (refusal why)) :=
  act_hostRequest (hostRequest_answered _ hs q hq _ _ fun g => by rw [h]; rfl)

/-- A request whose effects do not touch the drive link. -/
theorem request_done (hs : s.ready) (q : Request) {e : Device} {r : Reply} (hl : e.link = s.link)
    (h : ∀ l, (s.withLink l).perform q = (e.withLink l, r)) (hq : Request.Spelled q := by simp [Request.Spelled]) :
    act (Device.hostRequest q) s = .next (s.answered e r) :=
  act_hostRequest (hostRequest_answered _ hs q hq _ _ fun g => by rw [h, hl]; rfl)

/-- A request whose effects touch the notices, the summary flags, the retention-read flag or the position. -/
theorem request_told (hs : s.ready) (q : Request) {e : Device} {r : Reply}
    (h : ∀ g st, (s.withLink (s.link.asking g st)).perform q =
      (e.withLink { s.link.asking g st with
        notices := e.link.notices, flags := e.link.flags, retentionRead := e.link.retentionRead, position := e.link.position }, r))
    (hq : Request.Spelled q := by simp [Request.Spelled]) :
    act (Device.hostRequest q) s = .next (s.answered e r) :=
  act_hostRequest (hostRequest_answered _ hs q hq _ _ fun g => by rw [h]; rfl)

/-- Settles O13. -/
theorem unknownAndUnconfiguredRequestsAreRefused : Obligations.UnknownAndUnconfiguredRequestsAreRefused := by
  refine ⟨fun s code length ps hs hwf => ?_, fun c s hc hwf hs hu => ?_⟩
  · have hrunning : s.running = true := by simp [Device.running, hs.1]
    simp only [Instr.wf, Bool.and_eq_true, decide_eq_true_eq] at hwf
    obtain ⟨h24, hlen⟩ := hwf
    have hcode : code ≠ 0#8 := by rintro rfl; simp at h24
    have hcomplete : ∃ g, s.linkBytes (code :: length :: ps) =
        (s.withLink (s.link.asking g (gatherStatus s.link.notices))).complete code length ps := by
      split at hlen
      · next h250 =>
        have hlen : ps.length = length.toNat := by simpa using hlen
        exact linkBytes_request _ hrunning hs.2 code length hcode ps hlen.symm (hlen.trans_le h250)
      · next h250 =>
        obtain rfl : ps = [] := by simpa using hlen
        refine ⟨[code], ?_⟩
        show (s.linkByte code).linkByte length = _
        rw [linkByte_code _ hrunning hs.2 code hcode]
        exact linkByte_last _ hrunning [code] _ length code length [] rfl (by simp [gatherComplete, Nat.lt_of_not_le h250])
    obtain ⟨g, hg⟩ := hcomplete
    refine congrArg (fun e => Host.Outcome.next (s.after e)) (hg.trans ?_)
    unfold Device.complete Device.judgeRequest
    rw [if_pos h24]
    rfl
  · have hconf (l : DriveLink) : (s.withLink l).configured = false := by simp [Device.configured, hu]
    cases c
    case startRun row col skip es =>
      refine request_refused hs _ (fun l => ?_) (spelled_startRun (by simpa [Instr.wf] using hwf))
      simp [Device.perform, Device.reqStartRun, hconf]
    case setLineMode => exact request_refused hs _ fun l => by simp [Device.perform, Device.reqSetLineMode, hconf]
    case loadBin => exact request_refused hs _ fun l => by simp [Device.perform, Device.reqLoadBin, hconf]
    case unloadBin => exact request_refused hs _ fun l => by simp [Device.perform, Device.reqUnloadBin, hconf]
    case postHandover => exact request_refused hs _ fun l => by simp [Device.perform, Device.reqPostHandover, hconf]
    case reoffer => exact request_refused hs _ fun l => by simp [Device.perform, Device.reqReoffer, Device.withRecord, hconf]
    case reportSetdown => exact request_refused hs _ fun l => by simp [Device.perform, Device.reqReportSetdown, Device.withRecord, hconf]
    case reportLift => exact request_refused hs _ fun l => by simp [Device.perform, Device.reqReportLift, Device.withRecord, hconf]
    case recover => exact request_refused hs _ fun l => by simp [Device.perform, Device.reqRecover, Device.withRecord, hconf]
    case answerInvite => exact request_refused hs _ fun l => by simp [Device.perform, Device.reqAnswerInvite, Device.withRecord, hconf]
    case cancel => exact request_refused hs _ fun l => by simp [Device.perform, Device.reqCancel, Device.withRecord, hconf]
    case nextEntry => exact request_refused hs _ fun l => by simp [Device.perform, Device.reqNextEntry, hconf]
    case withdrawEntry => exact request_refused hs _ fun l => by simp [Device.perform, Device.reqWithdrawEntry, hconf]
    case endRun => exact request_refused hs _ fun l => by simp [Device.perform, Device.reqEndRun, hconf]
    case adopt => exact request_refused hs _ fun l => by simp [Device.perform, Device.reqAdopt, hconf]
    all_goals cases hc

end Sys2Proof.Machine
end

section
/-! PROOF. What each kind of command leaves alone: the blocks' operations are rows of `Moves`, and the rest writes the Line Port, or is bytes on
the drive link. -/

namespace Sys2Proof.Machine

variable {P W : Prop} {a d e : Device} {s : State}

/-! ## Commands that are no bytes on the link -/

/-- What a command that is no byte on the drive link leaves alone; the roster changes only when `P` holds, W only when `W` holds. -/
structure Device.Aside (P W : Prop) (d e : Device) : Prop where
  power : e.power = d.power
  link : e.link = { d.link with notices := e.link.notices, flags := e.link.flags }
  watches : e.claims.watches = d.claims.watches
  station : e.line.station = d.line.station
  sect : e.line.sect = d.line.sect
  relay : e.line.relay = d.line.relay
  requested : e.line.requested = d.line.requested
  window : ¬W → e.line.window = d.line.window
  roster : ¬P → e.peers.roster = d.peers.roster

theorem Device.Aside.refl (d : Device) : Device.Aside P W d d := ⟨rfl, rfl, rfl, rfl, rfl, rfl, rfl, fun _ => rfl, fun _ => rfl⟩

theorem Device.Aside.trans (h : Device.Aside P W a d) (k : Device.Aside P W d e) : Device.Aside P W a e :=
  ⟨k.power.trans h.power, by rw [k.link, h.link], k.watches.trans h.watches, k.station.trans h.station, k.sect.trans h.sect,
    k.relay.trans h.relay, k.requested.trans h.requested, fun hw => (k.window hw).trans (h.window hw),
    fun hp => (k.roster hp).trans (h.roster hp)⟩

theorem Moves.aside {S : Prop} (h : Moves P S d e) : Device.Aside P W d e :=
  ⟨h.power_eq, h.link_eq, h.watches_eq, h.line_setting.station, h.line_setting.sect, h.line_setting.relay, h.line_setting.requested,
    fun _ => h.line_setting.window, h.roster_eq⟩

theorem Device.Aside.foldl {α : Type} {f : Device → α → Device} (hf : ∀ e x, Device.Aside P W e (f e x)) (l : List α) (d : Device) :
    Device.Aside P W d (l.foldl f d) := by
  induction l generalizing d with
  | nil => exact .refl d
  | cons x l ih => exact (hf d x).trans (ih (f d x))

/-- The Line Port rewritten: its setting stays, and W too unless leave is given. -/
theorem aside_withLine {l : LinePort} (h1 : l.station = d.line.station := by rfl) (h2 : l.sect = d.line.sect := by rfl)
    (h3 : l.relay = d.line.relay := by rfl) (h4 : l.requested = d.line.requested := by rfl)
    (h5 : ¬W → l.window = d.line.window := by exact fun _ => rfl) : Device.Aside P W d (d.withLine l) :=
  ⟨rfl, rfl, rfl, h1, h2, h3, h4, h5, fun _ => rfl⟩

theorem aside_setting {l : LinePort} (h : d.line.SameSetting l) : Device.Aside P W d (d.withLine l) :=
  aside_withLine h.station h.sect h.relay h.requested fun _ => h.window

theorem aside_whenRunning {f : Device → Device} (h : Device.Aside P W d (f d)) : Device.Aside P W d (whenRunning f d) := by
  unfold whenRunning
  split
  · exact h
  · exact .refl d

theorem aside_whenConfigured {f : Device → Device} (h : Device.Aside P W d (f d)) : Device.Aside P W d (whenConfigured f d) := by
  unfold whenConfigured
  split
  · exact h
  · exact .refl d

theorem aside_whenDue {p : Device → Bool} {f : Device → Device} (h : Device.Aside P W d (f d)) : Device.Aside P W d (whenDue p f d) := by
  unfold whenDue
  split
  · exact h
  · exact .refl d

/-! ### The Line Port -/

theorem deferWith_aside (l : LinePort) (n : Nat) (h : Device.Aside P W d (d.withLine l)) : Device.Aside P W d (d.withLine (l.deferWith n)) := by
  unfold LinePort.deferWith
  split <;> exact ⟨rfl, rfl, rfl, h.station, h.sect, h.relay, h.requested, h.window, fun _ => rfl⟩

theorem quietGap_aside : Device.Aside P W d (d.withLine d.line.quietGap) := by
  unfold LinePort.quietGap
  dsimp only
  split
  · split <;> exact deferWith_aside _ _ aside_withLine
  · exact aside_withLine

theorem slot_aside : Device.Aside P W d (d.withLine d.line.slot) := by
  unfold LinePort.slot
  dsimp only
  split
  · split
    · exact deferWith_aside _ _ aside_withLine
    · exact aside_withLine
  · exact aside_withLine

theorem deferEnd_aside : Device.Aside P W d (d.withLine d.line.deferEnd) := by
  unfold LinePort.deferEnd
  split
  · exact deferWith_aside _ _ (.refl d)
  · exact .refl d

theorem busy_aside : Device.Aside P W d (d.withLine d.line.busy) := by
  unfold LinePort.busy
  dsimp only
  split <;> exact aside_withLine

theorem cleanSend_aside : Device.Aside P True d d.cleanSend := by
  unfold Device.cleanSend
  split
  · split
    · exact (aside_withLine (h5 := fun h => absurd trivial h)).trans ((Moves.refl _).report trivial _ _).aside
    · exact .refl d
  · exact .refl d

theorem collision_aside : Device.Aside P True d d.collision := by
  unfold Device.collision
  split
  · split
    · dsimp only
      split
      · exact aside_withLine (h5 := fun h => absurd trivial h)
      · exact (aside_withLine (h5 := fun h => absurd trivial h)).trans ((Moves.refl _).report trivial _ _).aside
    · exact .refl d
  · exact .refl d

theorem setMode_aside (f : Bool) : Device.Aside P W d (d.setMode d.line.requested f) := by
  unfold Device.setMode
  dsimp only
  split
  · exact (aside_withLine (d := d)).trans ((aside_withLine (l := LinePort.flushed _)).trans
      (Moves.foldl (S := True) (fun x _ h => h.report trivial _ x) _ (.refl _)).aside)
  · exact aside_withLine
  · exact aside_withLine

theorem clash_aside : Device.Aside P W d d.clash := by
  have hflag : Device.Aside P W d (d.withLink { d.link with flags := { d.link.flags with clash := true } }) :=
    ⟨rfl, rfl, rfl, rfl, rfl, rfl, rfl, fun _ => rfl, fun _ => rfl⟩
  unfold Device.clash
  dsimp only
  split
  · exact hflag
  · have hpush (n : Notice) : Device.Aside P W d ((d.withLink { d.link with flags := { d.link.flags with clash := true } }).pushNotice n) :=
      hflag.trans ((Moves.refl _).pushNotice (S := True) n).aside
    have hset := setMode_aside (P := P) (W := W) (d := (d.withLink { d.link with flags := { d.link.flags with clash := true } }).pushNotice
      (plainNotice .clash (Config.plainOutcome .clash) [] d.own)) true
    rw [pushNotice_line] at hset
    exact (hpush _).trans hset

theorem relayCopy_aside (f : Frame) : Device.Aside P W d (d.relayCopy f) := by
  unfold Device.relayCopy LinePort.offerRelay
  split
  · split
    · exact aside_setting (append_setting _ _)
    · exact .refl d
  · exact .refl d

theorem frameReceived_aside (bytes : List Byte) (order : List FrameStep) (k : Bool) :
    Device.Aside True W d (d.frameReceived bytes order k) := by
  have hstep (f : Frame) (e : Device) (x : FrameStep) : Device.Aside True W e (e.acceptStep f k x) := by
    cases x with
    | relayCopy => exact relayCopy_aside f
    | hearing => exact ((Moves.refl e).hear (S := True) trivial _).aside
    | body => exact ((Moves.refl e).dispatch trivial trivial _ _ _).aside
  have hjudge (r : RawFrame) (e : Device) : Device.Aside True W e (e.judgeBody r order k) := by
    unfold Device.judgeBody
    split
    · split
      · exact Device.Aside.foldl (hstep _) _ e
      · exact .refl e
    · exact .refl e
  unfold Device.frameReceived
  split
  · split
    · unfold Device.filterFrame
      split_ifs
      · exact .refl d
      · exact .refl d
      · exact .refl d
      · exact clash_aside
      · exact .refl d
      · exact (aside_withLine (d := d)).trans (hjudge _ _)
    · exact .refl d
  · exact .refl d

theorem beaconPeriod_aside (o : BeaconOrder) : Device.Aside True W d (d.beaconPeriod o) := by
  refine Device.Aside.foldl (fun e t => ?_) _ d
  have h : Moves True True e e := .refl e
  cases t with
  | linePort => exact aside_withLine
  | peerRoster => exact (h.peerRosterBeacon trivial trivial _).aside
  | claimMap => exact (h.claimMapBeacon _).aside
  | record i => exact (((((h.offerTick i).setdownTick i).answerTick i).agreedTick i).liftedTick i).aside
  | run => exact h.serviceTick.aside
  | adoption => exact h.adoptionTick.aside
  | ceding => exact (h.turnTick trivial).aside

theorem takeBody_aside {o : Station} {b : Body} {k : Bool} (h : Moves P True d (d.dispatch o b k)) :
    Device.Aside P W d (d.takeBody o b k) := by
  unfold Device.takeBody
  split
  · exact h.aside
  · exact .refl d

/-- A body that is no PRESENCE says nothing of the roster. -/
theorem Moves.dispatchPlain {o : Station} {b : Body} {k : Bool} (hb : bodyIsPresence b = false) :
    Moves False True d (d.dispatch o b k) := by
  have h : Moves False True d d := .refl d
  cases b with
  | presence => cases hb
  | stake b => exact h.hearStake ..
  | unstake b => exact h.hearUnstake ..
  | offer b => exact h.hearOffer ..
  | agree b => exact h.hearAgree ..
  | decline b => exact h.hearDecline ..
  | bind b => exact h.hearBind ..
  | setdown b => exact h.hearSetdown ..
  | lifted b => exact h.hearLifted ..
  | cancel b => exact h.hearCancel ..
  | adopt b => exact h.hearAdopt trivial ..
  | cede b => exact h.hearCede ..
  | receipt b => exact h.hearReceipt trivial ..

/-- The part that a command leaves is determined. -/
theorem exec_eq {c : Instr} {f : Device → Device} (hc : exec c s = act f s) (h : exec c s = .next (s.after d)) : d = f s.toDevice := by
  rw [hc] at h
  exact (congrArg State.toDevice (Host.Outcome.next.inj h)).symm

/-- A command that is neither of chapter 11 nor of the drive link. -/
theorem exec_aside {c : Instr} (hp : c.isPower = false) (hl : c.isLink = false) (h : exec c s = .next (s.after d)) :
    Device.Aside (c.touchesRoster = true) (c = .cleanSend ∨ c = .collision) s.toDevice d := by
  have key {f : Device → Device} (hc : exec c s = act f s)
      (hf : Device.Aside (c.touchesRoster = true) (c = .cleanSend ∨ c = .collision) s.toDevice (f s.toDevice)) :
      Device.Aside (c.touchesRoster = true) (c = .cleanSend ∨ c = .collision) s.toDevice d := by
    rw [exec_eq hc h]
    exact hf
  have hrefl {P : Prop} : Moves P True s.toDevice s.toDevice := .refl _
  have hbody {o : Station} {b : Body} (hb : bodyIsPresence b = false) :
      Device.Aside False False s.toDevice (s.takeBody o b false) := takeBody_aside (Moves.dispatchPlain hb)
  have hmono {P Q W X : Prop} {d e : Device} (hpq : P → Q) (hwx : W → X) (h : Device.Aside P W d e) : Device.Aside Q X d e :=
    { h with window := fun hx => h.window (mt hwx hx), roster := fun hq => h.roster (mt hpq hq) }
  cases c
  case frameReceived bytes o k => exact key rfl (hmono (fun _ => rfl) False.elim (frameReceived_aside bytes o k))
  case presenceHeard o b k =>
    exact key rfl (hmono (fun _ => rfl) False.elim (takeBody_aside (P := True) (hrefl.dispatch trivial trivial _ _ _)))
  case stakeHeard | unstakeHeard | offerHeard | agreeHeard | declineHeard | bindHeard | setdownHeard | liftedHeard | cancelHeard |
      adoptHeard | cedeHeard | receiptHeard =>
    exact key rfl (hmono False.elim False.elim (hbody rfl))
  case beaconPeriodExpiry o => exact key rfl (aside_whenRunning (hmono (fun _ => rfl) False.elim (beaconPeriod_aside o)))
  case accountingSecond o => exact key rfl (aside_whenRunning (hrefl.accountingSecond o).aside)
  case recentPairExpiry o q => exact key rfl (aside_whenRunning aside_withLine)
  case joinListenExpiry o => exact key rfl (aside_whenDue (hrefl.joinTick trivial o).aside)
  case hostSilenceExpiry => exact key rfl (aside_whenDue (hrefl.silenceTick trivial).aside)
  case rosterEntryQuiet st => exact key rfl (aside_whenDue (hrefl.ageEntry rfl st).aside)
  case rosterEntryLost st => exact key rfl (aside_whenDue (hrefl.ageEntry rfl st).aside)
  case claimAgeOut r c st => exact key rfl (aside_whenDue ((hrefl.removeHeard _ _).retryRemoved _).aside)
  case settleExpiry r c => exact key rfl (aside_whenDue (hrefl.settleTick _).aside)
  case lingerExpiry r c => exact key rfl (aside_whenDue (hrefl.lingerTick _).aside)
  case offerRepeat i => exact key rfl (aside_whenDue (hrefl.offerTick i).aside)
  case offerWindowExpiry i => exact key rfl (aside_whenDue (hrefl.offerTick i).aside)
  case answerWindowExpiry i => exact key rfl (aside_whenDue (hrefl.answerTick i).aside)
  case agreedTimerExpiry i => exact key rfl (aside_whenDue (hrefl.agreedTick i).aside)
  case serviceWindowExpiry => exact key rfl (aside_whenDue hrefl.serviceTick.aside)
  case adoptionTimerExpiry => exact key rfl (aside_whenDue hrefl.adoptionTick.aside)
  case cedeRetry => exact key rfl (aside_whenDue (hrefl.turnTick trivial).aside)
  case turnCloseUnanswered => exact key rfl (aside_whenDue (hrefl.turnTick trivial).aside)
  case owedNoticeMove => exact key rfl hrefl.moveOwed.aside
  case lineBusy => exact key rfl (aside_whenConfigured busy_aside)
  case quietGapComplete => exact key rfl (aside_whenConfigured quietGap_aside)
  case deferralEnd => exact key rfl (aside_whenConfigured deferEnd_aside)
  case lineSlot => exact key rfl (aside_whenConfigured slot_aside)
  case cleanSend => exact key rfl (aside_whenConfigured (hmono id (fun _ => .inl rfl) cleanSend_aside))
  case collision => exact key rfl (aside_whenConfigured (hmono id (fun _ => .inr rfl) collision_aside))
  case mainPowerLoss | resetAssert | backupSecond | holdThresholdDip | coldStart | resume | mainPowerReturn => cases hp
  all_goals cases hl

/-! ## Bytes on the link -/

/-- What the bytes of a request leave alone. -/
structure Device.SamePowerAndRoster (d e : Device) : Prop where
  power : e.power = d.power
  roster : e.peers.roster = d.peers.roster

theorem complete_same (d : Device) (code length : Byte) (ps : List Byte) : d.SamePowerAndRoster (d.complete code length ps) := by
  have hjudged := judgeRequest_afterRequest d code length ps
  have hcompleted := requestCompleted_moves ((d.judgeRequest code length ps).1.withResult (d.judgeRequest code length ps).2)
  exact ⟨hcompleted.power_eq.trans hjudged.power, (hcompleted.roster_eq not_false).trans hjudged.roster⟩

theorem gatherByte_same (d : Device) (g : List Byte) : d.SamePowerAndRoster (d.gatherByte g) := by
  unfold Device.gatherByte
  split
  · split
    · exact complete_same ..
    · exact ⟨rfl, rfl⟩
  · exact ⟨rfl, rfl⟩

theorem linkByte_same (d : Device) (b : Byte) : d.SamePowerAndRoster (d.linkByte b) := by
  unfold Device.linkByte
  split
  · split
    · dsimp only
      split
      · exact ⟨rfl, rfl⟩
      · exact ⟨(gatherByte_same _ _).power, (gatherByte_same _ _).roster⟩
    · exact ⟨(gatherByte_same _ _).power, (gatherByte_same _ _).roster⟩
    · exact ⟨rfl, rfl⟩
  · exact ⟨rfl, rfl⟩

theorem linkBytes_same (d : Device) (l : List Byte) : d.SamePowerAndRoster (d.linkBytes l) := by
  induction l generalizing d with
  | nil => exact ⟨rfl, rfl⟩
  | cons b l ih =>
    obtain ⟨hpower, hroster⟩ := linkByte_same d b
    obtain ⟨ihpower, ihroster⟩ := ih (d.linkByte b)
    exact ⟨ihpower.trans hpower, ihroster.trans hroster⟩

theorem selectRelease_same (d : Device) (l : List Byte) : d.SamePowerAndRoster (d.selectRelease l) := by
  obtain ⟨hpower, hroster⟩ := linkBytes_same d l
  unfold Device.selectRelease Device.selectHigh
  split
  · dsimp only
    split <;> exact ⟨hpower, hroster⟩
  · exact ⟨rfl, rfl⟩

/-- A command of the drive link. -/
theorem exec_link {c : Instr} (hl : c.isLink = true) (h : exec c s = .next (s.after d)) : s.toDevice.SamePowerAndRoster d := by
  have key {f : Device → Device} (hc : exec c s = act f s) (hf : s.toDevice.SamePowerAndRoster (f s.toDevice)) :
      s.toDevice.SamePowerAndRoster d := by
    rw [exec_eq hc h]
    exact hf
  cases c
  case fillByte => exact key rfl (linkByte_same _ _)
  case resultByte => exact key rfl (linkByte_same _ _)
  case selectRelease => exact key rfl (selectRelease_same _ _)
  case configure | setLineMode | readStatus | setPosition | loadBin | unloadBin | postHandover | reoffer | reportSetdown | reportLift |
      recover | answerInvite | cancel | startRun | nextEntry | withdrawEntry | endRun | adopt | setWatch | collect | readRecord |
      readClaims | readRoster =>
    exact key (f := Device.hostRequest _) rfl (linkBytes_same _ _)
  case invalidRequest => exact key (f := fun d => d.linkBytes _) rfl (linkBytes_same _ _)
  all_goals cases hl

/-- Settles O58. -/
theorem commandsKeepToTheirState : Obligations.CommandsKeepToTheirState := by
  intro c s d hp h
  by_cases hl : c.isLink = true
  · obtain ⟨hpower, hroster⟩ := exec_link hl h
    exact ⟨hpower, fun hn => absurd (hn.symm.trans hl) Bool.false_ne_true, fun _ => hroster⟩
  · obtain ⟨hpower, hlink, hwatches, hstation, hsect, hrelay, hrequested, hwindow, hroster⟩ :=
      exec_aside hp (Bool.eq_false_iff.mpr hl) h
    refine ⟨hpower, fun _ => ⟨?_, ?_, ?_, ?_, ?_, ?_, hwatches, hstation, hsect, hrelay, hrequested,
      fun hn hm => hwindow (not_or.mpr ⟨hn, hm⟩)⟩, fun ht => hroster (by simp [ht])⟩
    all_goals rw [hlink]

end Sys2Proof.Machine
end

section
/-! PROOF. Requests on the configuration, the line mode, the position, the watches, the status and the paged reads (10.4, 10.5), on bins (5.5),
and the checks of START RUN (8.2) and ADOPT (9.1). -/

namespace Sys2Proof.Machine

variable {s : State} {d : Device}

/-! ## Configuration, line mode, position, watches (10.4) -/

theorem stationInRange_iff (x : Byte) : stationInRange x = true ↔ x.toNat ≠ 0 ∧ x.toNat ≤ 31 := by
  simp only [stationInRange, Bool.and_eq_true, decide_eq_true_eq]
  omega

/-- Settles O14. -/
theorem configureTurnsThePortOn : Obligations.ConfigureTurnsThePortOn := by
  intro s station sect relay mode hs
  show act (Device.hostRequest (.configure station sect relay mode)) s = _
  split
  · next hc => exact request_refused hs _ fun l => by simp [Device.perform, Device.reqConfigure, Device.configured, hc]
  · next hc =>
    have hconf (l : DriveLink) : (s.withLink l).configured = false := by simpa [Device.configured] using hc
    have hbad : (!stationInRange station || decide (16 ≤ sect.toNat) || decide (2 ≤ relay.toNat) || decide (2 ≤ mode.toNat)) = true ↔
        station.toNat = 0 ∨ 31 < station.toNat ∨ 15 < sect.toNat ∨ 1 < relay.toNat ∨ 1 < mode.toNat := by
      simp only [Bool.or_eq_true, Bool.not_eq_true', Bool.eq_false_iff, ne_eq, stationInRange_iff, decide_eq_true_eq]
      omega
    split
    · next hp => exact request_refused hs _ fun l => by simp only [Device.perform, Device.reqConfigure, hconf, hbad.mpr hp]; rfl
    · next hp =>
      refine request_done hs _ rfl fun l => ?_
      simp only [Device.perform, Device.reqConfigure, hconf, Bool.eq_false_iff.mpr (mt hbad.mp hp)]
      have htx : (if lineModeOf mode = .normal then TxState.idle else .off) = if mode = 1 then .off else .idle := by
        unfold lineModeOf
        by_cases hm : mode = 1#8
        · rw [if_pos hm, if_pos (show mode = 1 from hm)]
          rfl
        · rw [if_neg hm, if_neg (show ¬mode = 1 from hm)]
          rfl
      simp only [LinePort.configured, htx]
      rfl

/-- R154: the station is not busy: it may be muted. -/
theorem busy_eq_false_iff (d : Device) : d.busy = false ↔
    (∀ i r, d.recordAt i = some r → r.isEnded = true) ∧ d.engine.run.state = .none ∧ ∀ x ∈ d.claims.entries, x.own = none := by
  have hrecords : (d.anyRecord fun r => !r.isEnded) = false ↔ ∀ i r, d.recordAt i = some r → r.isEnded = true := by
    simp only [Device.anyRecord, List.any_eq_false]
    constructor
    · intro h i r hr
      have := h _ (List.mem_of_getElem? ((recordAt_eq d i r).mp hr))
      simpa using this
    · intro h x hx
      cases x with
      | none => simp
      | some r =>
        obtain ⟨i, hi⟩ := List.mem_iff_getElem?.mp hx
        simpa using h i r ((recordAt_eq d i r).mpr hi)
  have hclaims : d.ownCount = 0 ↔ ∀ x ∈ d.claims.entries, x.own = none := by
    simp [Device.ownCount, Device.ownClaims, List.filter_eq_nil_iff]
  simp [Device.busy, hrecords, hclaims, and_assoc]

/-- R3, R154: NORMAL taken. -/
theorem setMode_normal (d : Device) : d.setMode .normal false = d.withLine { d.line with
    requested := .normal, forcedMute := false, tx := if d.line.mode = .mute then .idle else d.line.tx } := by
  have hnormal : LinePort.mode { d.line with requested := .normal, forcedMute := false } = .normal := rfl
  unfold Device.setMode
  cases d.line.mode with
  | normal => simp [hnormal]
  | mute =>
    simp only [withLine_line, hnormal]
    rfl

theorem mode_requested_mute (l : LinePort) : LinePort.mode { l with requested := .mute } = .mute := by simp [LinePort.mode]

/-- R154: MUTE asked of a line that is mute already. -/
theorem setMode_mute_of_mute (h : d.line.mode = .mute) :
    d.setMode .mute d.line.forcedMute = d.withLine { d.line with requested := .mute } := by
  unfold Device.setMode
  simp [h, mode_requested_mute]

/-- R4, R154: MUTE asked of a NORMAL line flushes it. -/
theorem setMode_mute_of_normal (h : d.line.mode = .normal) :
    d.setMode .mute d.line.forcedMute = (d.withLine { d.line with requested := .mute }).flush := by
  unfold Device.setMode
  simp [h, mode_requested_mute]

theorem flush_requested_line (d : Device) :
    (d.withLine { d.line with requested := .mute }).flush.line = LinePort.flushed { d.line with requested := .mute } :=
  flush_line _ (mode_requested_mute d.line)

/-- Settles O15. -/
theorem setLineModeTakesTheMode : Obligations.SetLineModeTakesTheMode := by
  intro s hs hc
  have hconf (l : DriveLink) : (s.withLink l).configured = true := by simpa [Device.configured] using hc
  have hbusy : (∃ i r, s.recordAt i = some r ∧ r.isEnded = false) ∨ s.engine.run.state ≠ .none ∨ (∃ x ∈ s.claims.entries, x.own ≠ none) →
      s.busy = true := by
    intro h
    by_contra hb
    obtain ⟨hrecords, hrun, hclaims⟩ := (busy_eq_false_iff s.toDevice).mp (Bool.eq_false_iff.mpr hb)
    rcases h with ⟨i, r, hr, he⟩ | h | ⟨x, hx, ho⟩
    · exact absurd (hrecords i r hr) (by simp [he])
    · exact h hrun
    · exact ho (hclaims x hx)
  refine ⟨fun mode hm => ?_, ?_, fun hb => ?_, fun hrecords hrun hclaims => ?_⟩
  · exact request_refused hs _ fun l => by simp [Device.perform, Device.reqSetLineMode, hconf, Nat.succ_le_of_lt hm]
  · refine request_done hs (.setLineMode 0) rfl fun l => ?_
    simp [Device.perform, Device.reqSetLineMode, hconf, setMode_normal]
    exact ⟨rfl, rfl⟩
  · exact request_refused hs _ fun l => by
      have : (s.withLink l).busy = true := hbusy hb
      simp [Device.perform, Device.reqSetLineMode, hconf, this]
  · have hfree (l : DriveLink) : (s.withLink l).busy = false := (busy_eq_false_iff _).mpr ⟨hrecords, hrun, hclaims⟩
    have hperform (l : DriveLink) : (s.withLink l).perform (.setLineMode 1) =
        ((s.withLink l).setMode .mute (s.withLink l).line.forcedMute,
          okay [byteOf ((s.withLink l).setMode .mute (s.withLink l).line.forcedMute).line.mode.code]) := by
      simp [Device.perform, Device.reqSetLineMode, hconf, hfree]
    refine ⟨fun hm => ?_, fun hm => ?_⟩
    · refine request_done hs (.setLineMode 1) rfl fun l => ?_
      rw [hperform, setMode_mute_of_mute (d := s.withLink l) hm]
      simp [mode_requested_mute]
      exact ⟨rfl, rfl⟩
    · obtain ⟨g, hg⟩ := hostRequest_ready s.toDevice hs (.setLineMode 1) rfl (by simp [requestParams, Config.maxParams])
      refine ⟨_, congrArg (fun e => Host.Outcome.next (s.after e)) hg, ?_⟩
      generalize s.link.asking g (gatherStatus s.link.notices) = l
      have hmode : (LinePort.flushed { (s.withLink l).line with requested := .mute }).mode = .mute := mode_requested_mute _
      have hline := flush_requested_line (s.withLink l)
      have hflush : (s.withLink l).perform (.setLineMode 1) =
          (((s.withLink l).withLine { (s.withLink l).line with requested := .mute }).flush, okay [1]) := by
        rw [hperform, setMode_mute_of_normal (d := s.withLink l) hm, hline, hmode]
        rfl
      rw [hflush]
      dsimp only
      generalize ((s.withLink l).withLine { (s.withLink l).line with requested := .mute }).flush = e at hline
      have hcompleted := requestCompleted_moves (e.withResult (okay [1]))
      have hport : (e.withResult (okay [1])).requestCompleted.line = _ := (hcompleted.line_muted (hline ▸ hmode)).trans hline
      rw [hport, hcompleted.link_eq]
      exact ⟨rfl, rfl, rfl, rfl, rfl, rfl, rfl⟩

/-- Settles O16. -/
theorem positionAndWatchesAreSet : Obligations.PositionAndWatchesAreSet := by
  refine fun s hs => ⟨fun row col => ?_, fun index flag row col station => ?_⟩
  · show act (Device.hostRequest (.setPosition ⟨row, col⟩)) s = _
    have hgrid : Cell.onGrid ⟨row, col⟩ = true ↔ row.toNat < 64 ∧ col.toNat < 64 := by simp [Cell.onGrid]
    split
    · next h =>
      exact request_told hs _ fun g st => by
        simp only [Device.perform, Device.reqSetPosition, hgrid.mpr h]
        rfl
    · next h =>
      exact request_refused hs _ fun l => by
        simp only [Device.perform, Device.reqSetPosition, Bool.eq_false_iff.mpr (mt hgrid.mp h)]
        rfl
  · show act (Device.hostRequest (.setWatch index flag row col station)) s = _
    split
    · next h => exact request_refused hs _ fun l => by simp only [Device.perform, Device.reqSetWatch, h]; rfl
    · next h => exact request_done hs _ rfl fun l => by simp only [Device.perform, Device.reqSetWatch, h]; rfl

/-! ## Status and paged reads (10.5) -/

theorem hoistBin_eq (d : Device) : d.hoistBin = (d.accounts.hoist.map fun a => a.bin).getD 0 := by
  unfold Device.hoistBin
  cases d.accounts.hoist <;> rfl

theorem hoistE_eq (d : Device) : d.hoistE = (d.accounts.hoist.map fun a => a.e).getD 0 := by
  unfold Device.hoistE accountE
  cases d.accounts.hoist <;> rfl

theorem modeByte_eq (l : LinePort) : l.modeByte =
    BitVec.ofNat 8 ((if l.mode = .mute then 1 else 0) + (if l.forcedMute then 2 else 0) + if l.relay then 4 else 0) := by
  unfold LinePort.modeByte bit byteOf
  cases l.mode <;> rfl

/-- R156: the data bytes as the table names them. -/
theorem statusBytes_eq (d : Device) : d.statusBytes =
    [byteOf d.peers.state.code, d.line.modeByte, if d.peers.state = .unconfigured then 0 else d.line.station,
      if d.peers.state = .unconfigured then 0 else d.line.sect, d.link.position.row, d.link.position.col] ++
    bytes32 ((d.accounts.hoist.map fun a => a.bin).getD 0) ++ bytesOfNat16 ((d.accounts.hoist.map fun a => a.e).getD 0) ++
    [byteOf (d.engine.table.filter Option.isSome).length, byteOf (d.claims.entries.filter fun x => x.own.isSome).length,
      byteOf d.link.notices.length, byteOf d.owedCount, byteOf d.engine.run.state.code, flagByte d.link.retentionRead,
      d.link.flags.byte] := by
  unfold Device.statusBytes
  rw [hoistBin_eq, hoistE_eq]
  unfold Device.recordCount Device.ownCount Device.ownClaims
  rw [List.countP_eq_length_filter]
  by_cases hc : d.peers.state = .unconfigured <;> simp [hc, Device.configured, cellBytes]

/-- Settles O17. -/
theorem readStatusReturnsAndClears : Obligations.ReadStatusReturnsAndClears := by
  intro s hs
  show act (Device.hostRequest .readStatus) s = _
  refine (request_told hs .readStatus (r := okay s.statusBytes)
    (e := { s.toDevice with link := { s.link with flags := ⟨false, false, false, false, false⟩, retentionRead := true } })
    fun g st => rfl).trans ?_
  rw [statusBytes_eq, modeByte_eq]
  cases s.peers.state <;> cases s.engine.run.state <;> rfl

/-- R157: an account's bytes. -/
theorem accountBytes_eq (x : Option Account) : accountBytes x =
    match x with
    | some a => bytes32 a.bin ++ [BitVec.ofNat 8 a.cls.code] ++ bytesOfNat16 a.e ++
      [match a.location with
        | .hoist => 1#8
        | .cell => 2
        | .shadow => 3, if a.spent then 1#8 else 0] ++ bytesOfNat16 a.wait
    | none => List.replicate 11 0 := by
  cases x with
  | none => rfl
  | some a =>
    dsimp only [accountBytes]
    cases a.location <;> rfl

/-- R157: the role byte, the partner, and the state byte. -/
theorem recState_bytes_eq (r : Record) : RecState.bytes r.state =
    (if r.isGiver then 1 else 2,
      match r.state with
      | .giver g => BitVec.ofNat 8 g.code
      | .taker t => BitVec.ofNat 8 t.code) := by
  unfold Record.isGiver
  cases r.state <;> rfl

/-- Settles O33. -/
theorem pagedReadsReturnTheState : Obligations.PagedReadsReturnTheState := by
  refine fun s b hs => ⟨request_done hs (.readRecord b) rfl fun l => ?_, request_done hs (.readClaims b) rfl fun l => ?_,
    request_done hs (.readRoster b) rfl fun l => ?_⟩
  · show (s.withLink l, okay (byteOf (b.toNat % 16) :: match s.recordAt (b.toNat % 16) with
      | some r => 1#8 :: s.recordBytes (b.toNat % 16) r
      | none => [0#8])) = _
    cases s.recordAt (b.toNat % 16) with
    | none => rfl
    | some r =>
      dsimp only
      unfold Device.recordBytes
      rw [recState_bytes_eq, accountBytes_eq]
      cases r.accountPos (b.toNat % 16) with
      | none => cases r.outcome <;> cases r.request <;> rfl
      | some p => cases p <;> cases r.outcome <;> cases r.request <;> rfl
  · have hclaim (x : Claim) : claimBytes x = [x.cell.row, x.cell.col, x.claimant, x.tag.giver, x.tag.seq] ++ bytesOfNat16 x.key ++
        [match x.phase with
          | .contested => 1
          | .held => 2
          | .placed => 3,
         BitVec.ofNat 8 x.age, if x.own = none then 0 else 1,
         match ownUse x with
          | some (.slot n) => BitVec.ofNat 8 n
          | some .runHold => 16
          | some .linger => 17
          | none => 255] := by
      unfold claimBytes ownUse
      cases x.own with
      | none => cases x.phase <;> rfl
      | some o => cases x.phase <;> cases ho : o.use <;> simp [ho] <;> rfl
    simp only [Device.perform, Device.reqReadClaims, pageBytes, pageOf, funext hclaim]
    rfl
  · have hentry (e : RosterEntry) : rosterBytes e = [e.station, BitVec.ofNat 8 ((e.announced.map fun x => x.code).getD 0),
        match e.link with
          | .heard => 0
          | .quiet => 1
          | .lost => 2] ++
        [((e.position.map fun c => c.row).getD 0), ((e.position.map fun c => c.col).getD 0)] ++
        bytes32 (e.hoistBin.getD 0) ++ [BitVec.ofNat 8 e.age] := by
      unfold rosterBytes
      cases e.announced <;> cases e.position <;> cases e.link <;> rfl
    simp only [Device.perform, Device.reqReadRoster, pageBytes, pageOf, funext hentry]
    rfl

end Sys2Proof.Machine
end

section
/-! PROOF. Requests on bins (R83), and the checks of START RUN (R128) and ADOPT (R139). -/

namespace Sys2Proof.Machine

variable {s : State} {d : Device}

/-! ## Searches over the table -/

theorem anyRecord_iff (d : Device) (p : Record → Bool) : d.anyRecord p = true ↔ ∃ r, some r ∈ d.engine.table ∧ p r = true := by
  simp only [Device.anyRecord, List.any_eq_true]
  constructor
  · rintro ⟨x, hx, hp⟩
    cases x with
    | none => simp at hp
    | some r => exact ⟨r, hx, hp⟩
  · rintro ⟨r, hr, hp⟩
    exact ⟨some r, hr, hp⟩

/-- A giver record that is not ENDED. -/
theorem liveGiver_iff (r : Record) : (r.isGiver && !r.isEnded) = true ↔ ∃ g, r.state = .giver g ∧ g ≠ .ended := by
  unfold Record.isGiver Record.isEnded
  cases r.state with
  | giver g => cases g <;> simp
  | taker t => simp

theorem givesBin_iff (d : Device) (b : BinId) : d.givesBin b = true ↔ d.offersBin b := by
  unfold Device.givesBin Device.offersBin
  rw [anyRecord_iff]
  refine exists_congr fun r => and_congr_right fun _ => ?_
  rw [Bool.and_eq_true, liveGiver_iff, beq_iff_eq]

theorem configured_withLink (hc : s.peers.state ≠ .unconfigured) (l : DriveLink) : (s.withLink l).configured = true := by
  simpa [Device.configured] using hc

/-! ## Bins (R83) -/

theorem ofByte_eq (b : Byte) : BinClass.ofByte b = if b = 0 then .ambient else if b = 1 then .chilled else .frozen := by
  unfold BinClass.ofByte
  split
  · next h => rw [if_pos (BitVec.eq_of_toNat_eq h)]
  · next h =>
    have h1 : b = 1 := BitVec.eq_of_toNat_eq h
    rw [if_neg (by rw [h1]; decide), if_pos h1]
  · next h0 h1 =>
    rw [if_neg (fun he => h0 (by rw [he]; rfl)), if_neg (fun he => h1 (by rw [he]; rfl))]

/-- R79: the hoist account at its limit: BUDGET is set and BUDGET_SPENT is queued, or lost. -/
theorem spentCheck_hoist {a : Account} (ha : d.accounts.hoist = some a) (h : a.crosses = true) :
    d.spentCheck .hoist = { d with
      accounts := { d.accounts with hoist := some { a with spent := true } },
      link :=
        if d.link.notices.length < 8 then
          { d.link with
            flags := { d.link.flags with budget := true },
            notices := d.link.notices ++ [plainNotice .budgetSpent ⟨.done, .budgetSpent⟩ (bytesOfNat16 a.e) 0#8] }
        else { d.link with flags := { d.link.flags with budget := true, noticeLost := true } } } := by
  have ha : d.accountAt .hoist = some a := ha
  simp only [Device.spentCheck, ha, h, if_true, Device.pushNotice]
  simp only [setAccount_link, withLink_link, Config.noticeQueueSize]
  split <;> rfl

/-- R79, R83: whether a bin is spent when it is loaded. -/
def spentAtLoad (c : BinClass) (e : Nat) : Bool :=
  match c with
  | .ambient => false
  | .chilled => 2400 ≤ e
  | .frozen => 1500 ≤ e

theorem crosses_eq_spentAtLoad (a : Account) (h : a.spent = false) : a.crosses = spentAtLoad a.cls a.e := by
  unfold Account.crosses spentAtLoad
  cases a.cls <;> simp [BinClass.limit, h]

/-- R83: the hoist account of a bin that is loaded. -/
theorem createAccount_hoist (d : Device) (b : BinId) (c : BinClass) (e : Nat) :
    d.createAccount .hoist b c e .hoist = { d with
      accounts := { d.accounts with
        hoist := some { bin := b, cls := c, e := e, location := .hoist, spent := spentAtLoad c e, wait := 0 } },
      link :=
        if spentAtLoad c e = false then d.link
        else if d.link.notices.length < 8 then
          { d.link with
            flags := { d.link.flags with budget := true },
            notices := d.link.notices ++ [plainNotice .budgetSpent ⟨.done, .budgetSpent⟩ (bytesOfNat16 e) 0#8] }
        else { d.link with flags := { d.link.flags with budget := true, noticeLost := true } } } := by
  let a : Account := { bin := b, cls := c, e := e, location := .hoist, spent := false, wait := 0 }
  have hcross : a.crosses = spentAtLoad c e := crosses_eq_spentAtLoad a rfl
  have ha : (d.setAccount .hoist (some a)).accounts.hoist = some a := rfl
  show (d.setAccount .hoist (some a)).spentCheck .hoist = _
  cases hs : spentAtLoad c e with
  | false => simp [Device.spentCheck, show (d.setAccount .hoist (some a)).accountAt .hoist = some a from rfl, hcross, hs]; rfl
  | true =>
    rw [spentCheck_hoist ha (hcross.trans hs)]
    rfl

theorem bytesOfNat16_toNat (x : BitVec 16) : bytesOfNat16 x.toNat = bytes16 x := by
  unfold bytesOfNat16
  rw [BitVec.ofNat_toNat, BitVec.setWidth_eq]

/-- R83: LOAD BIN taken. -/
theorem act_loadBin {bin : BinId} {cls : Byte} {e0 : BitVec 16} {c : BinClass} (hs : s.ready) (hconf : s.peers.state ≠ .unconfigured)
    (hbin : bin ≠ 0) (hhoist : s.accounts.hoist = none) (hfree : ∀ p a, s.accountAt p = some a → a.bin ≠ bin)
    (hc : BinClass.ofByte cls = c) :
    act (Device.hostRequest (.loadBin bin cls e0)) s = .next (s.answered (s.createAccount .hoist bin c e0.toNat .hoist)
      (okay ([byteOf c.code] ++
        bytesOfNat16 (Account.slack { bin := bin, cls := c, e := e0.toNat, location := .hoist, spent := false, wait := 0 })))) := by
  have hheld (l : DriveLink) : (s.withLink l).holdsBin bin = false := by
    refine Bool.eq_false_iff.mpr fun h => ?_
    obtain ⟨p, a, ha, hb⟩ := (holdsBin_iff _ bin).mp h
    exact hfree p a ha hb
  refine request_told hs (.loadBin bin cls e0) fun g st => ?_
  have hbin : bin ≠ 0#32 := hbin
  simp only [Device.perform, Device.reqLoadBin, configured_withLink hconf, hbin, hheld, hc, withLink_accounts, hhoist]
  refine Prod.ext ?_ rfl
  show (s.withLink _).createAccount .hoist bin c e0.toNat .hoist = _
  rw [createAccount_hoist, createAccount_hoist]
  cases spentAtLoad c e0.toNat with
  | false => rfl
  | true =>
    simp only [withLink_link, DriveLink.asking, Bool.true_eq_false, if_false]
    by_cases hroom : s.link.notices.length < 8
    · simp only [hroom, if_true]
      rfl
    · simp only [hroom, if_false]
      rfl

/-- Settles O18. -/
theorem loadBinOpensTheHoistAccount : Obligations.LoadBinOpensTheHoistAccount := by
  intro s bin cls e0 hs hconf hbin hhoist hfree c slack spent a n l
  have hc : BinClass.ofByte cls = c := ofByte_eq cls
  refine (act_loadBin hs hconf hbin hhoist hfree hc).trans ?_
  rw [createAccount_hoist, bytesOfNat16_toNat]
  clear_value c
  cases c with
  | ambient => rw [slack_ambient rfl]; rfl
  | chilled => rw [slack_chilled rfl]; rfl
  | frozen => rw [slack_frozen rfl]; rfl

/-- Settles O19. -/
theorem unloadBinReturnsTheAccount : Obligations.UnloadBinReturnsTheAccount := by
  intro s hs hconf
  refine ⟨fun hnone => ?_, fun a ha => ?_⟩
  · exact request_refused hs .unloadBin fun l => by simp [Device.perform, Device.reqUnloadBin, configured_withLink hconf, hnone]
  have hoffered : (s.anyRecord fun r => r.isGiver && !r.isEnded && !r.placed && r.bin == a.bin) = true ↔
      ∃ r, some r ∈ s.engine.table ∧ (∃ g, r.state = .giver g ∧ g ≠ .ended) ∧ r.placed = false ∧ r.bin = a.bin := by
    rw [anyRecord_iff]
    refine exists_congr fun r => and_congr_right fun _ => ?_
    rw [Bool.and_eq_true, Bool.and_eq_true, liveGiver_iff, beq_iff_eq, Bool.not_eq_true', and_assoc]
  refine ⟨fun ho => request_refused hs .unloadBin fun l => ?_, fun ho => ?_⟩
  · have : ((s.withLink l).anyRecord fun r => r.isGiver && !r.isEnded && !r.placed && r.bin == a.bin) = true := hoffered.mpr ho
    simp only [Device.perform, Device.reqUnloadBin, configured_withLink hconf, withLink_accounts, ha, this]
    rfl
  · refine (request_done hs .unloadBin (e := s.removeAccount .hoist)
      (r := okay (bytes32 a.bin ++ [byteOf a.cls.code] ++ bytesOfNat16 a.e ++ [flagByte a.spent])) rfl fun l => ?_).trans ?_
    · have : ((s.withLink l).anyRecord fun r => r.isGiver && !r.isEnded && !r.placed && r.bin == a.bin) = false :=
        Bool.eq_false_iff.mpr (mt hoffered.mp ho)
      simp only [Device.perform, Device.reqUnloadBin, configured_withLink hconf, withLink_accounts, ha, this]
      rfl
    · cases a.cls <;> rfl

/-! ## START RUN (R128) -/

/-- R128, check 5, for entries of which some bins have been seen. -/
theorem runItemsValid_iff (own : Station) (seen : List BinId) (es : List RunItem) :
    runItemsValid own seen es = true ↔
      (∀ e ∈ es, e.bin ≠ 0 ∧ e.taker.toNat ≤ 31 ∧ e.taker ≠ own) ∧ (es.map fun e => e.bin).Nodup ∧ ∀ e ∈ es, e.bin ∉ seen := by
  induction es generalizing seen with
  | nil => simp [runItemsValid]
  | cons e es ih =>
    simp only [runItemsValid, Bool.and_eq_true, ih, bne_iff_ne, ne_eq, decide_eq_true_eq, Bool.not_eq_true', List.contains_eq_mem,
      decide_eq_false_iff_not, List.mem_cons, List.map_cons, List.nodup_cons, List.mem_map, not_or, not_exists, not_and]
    constructor
    · rintro ⟨⟨⟨⟨h1, h2⟩, h3⟩, h4⟩, hall, hnodup, hseen⟩
      refine ⟨?_, ⟨fun x hx => (hseen x hx).1, hnodup⟩, ?_⟩
      · rintro x (rfl | hx)
        · exact ⟨h1, h2, h3⟩
        · exact hall x hx
      · rintro x (rfl | hx)
        · exact h4
        · exact (hseen x hx).2
    · rintro ⟨hall, ⟨hnot, hnodup⟩, hseen⟩
      obtain ⟨h1, h2, h3⟩ := hall e (.inl rfl)
      exact ⟨⟨⟨⟨h1, h2⟩, h3⟩, hseen e (.inl rfl)⟩, fun x hx => hall x (.inr hx), hnodup,
        fun x hx => ⟨hnot x hx, hseen x (.inr hx)⟩⟩

/-- Settles O28. -/
theorem startRunMakesTheRunList : Obligations.StartRunMakesTheRunList := by
  intro s row col skip es hs hconf hes valid
  have hspelled : Request.Spelled (.startRun ⟨row, col⟩ skip (BitVec.ofNat 4 es.length) es) := spelled_startRun (by omega)
  have hactive (l : DriveLink) : (s.withLink l).isActive = true ↔ s.peers.state = .active := by simp [Device.isActive]
  have hcount : (BitVec.ofNat 4 es.length).toNat = es.length := by
    rw [BitVec.toNat_ofNat]
    exact Nat.mod_eq_of_lt (by omega)
  have hparam : valid ↔ ¬((BitVec.ofNat 4 es.length).toNat = 0 ∨ Config.runSize < (BitVec.ofNat 4 es.length).toNat ∨
      Cell.onGrid ⟨row, col⟩ = false ∨ 1 < skip.toNat) ∧ runItemsValid s.line.station [] es = true := by
    have hgrid : Cell.onGrid ⟨row, col⟩ = false ↔ ¬(row.toNat < 64 ∧ col.toNat < 64) := by simp [Cell.onGrid]
    rw [hcount, runItemsValid_iff, hgrid]
    show (1 ≤ es.length ∧ es.length ≤ 12 ∧ _) ↔ _
    simp only [Config.runSize, not_or, not_not, List.not_mem_nil, not_false_eq_true, implies_true, and_true, Nat.not_lt,
      Nat.one_le_iff_ne_zero, and_assoc]
  refine ⟨fun ha => ?_, fun ha hr => ?_, fun ha hr hv => ?_, fun ha hr hv => ?_⟩
  · refine request_refused hs _ (fun l => ?_) hspelled
    simp [Device.perform, Device.reqStartRun, configured_withLink hconf, Bool.eq_false_iff.mpr (mt (hactive l).mp ha)]
  · refine request_refused hs _ (fun l => ?_) hspelled
    simp [Device.perform, Device.reqStartRun, configured_withLink hconf, (hactive l).mpr ha, hr]
  · refine request_refused hs _ (fun l => ?_) hspelled
    simp only [Device.perform, Device.reqStartRun, configured_withLink hconf, (hactive l).mpr ha, withLink_engine, hr, Bool.not_true,
      Bool.false_eq_true, if_false, ne_eq, not_true]
    by_cases hp : (BitVec.ofNat 4 es.length).toNat = 0 ∨ Config.runSize < (BitVec.ofNat 4 es.length).toNat ∨
        Cell.onGrid ⟨row, col⟩ = false ∨ 1 < skip.toNat
    · rw [if_pos hp]
    · have hitems : runItemsValid (s.withLink l).own [] es = false := Bool.eq_false_iff.mpr fun h => hv (hparam.mpr ⟨hp, h⟩)
      rw [if_neg hp, hitems]
      rfl
  · obtain ⟨hp, hitems⟩ := hparam.mp hv
    refine request_done hs _ rfl (fun l => ?_) hspelled
    have hitems : runItemsValid (s.withLink l).own [] es = true := hitems
    have hentry (e : RunItem) : runEntryOf e =
        { bin := e.bin, cls := if e.cls = 0#8 then .ambient else if e.cls = 1#8 then .chilled else .frozen, taker := e.taker,
          state := .waiting } := by
      rw [runEntryOf, ofByte_eq]
      rfl
    simp only [Device.perform, Device.reqStartRun, configured_withLink hconf, (hactive l).mpr ha, withLink_engine, hr, hp, hitems,
      startedRun, funext hentry, Bool.beq_eq_decide_eq]
    rfl

/-! ## ADOPT (R139, R140) -/

/-- R140: with room in the queue the ADOPT is queued and its ending awaited. -/
theorem startAdoption_of_room (h : d.canSend) (t : Station) :
    d.startAdoption t = { d with
      line := d.sent .engine (.adopt { target := t }),
      engine := { d.engine with adoption :=
        { phase := .sending, target := t, timer := none, arrived := [], frame := some d.line.seqCounter } } } := by
  let a : Adoption := { phase := .sending, target := t, timer := none, arrived := [], frame := none }
  have hoffer : (d.withAdoption a).offer .engine (.adopt { target := t }) = _ := offer_of_room (d := d.withAdoption a) h .engine rfl
  show (match ((d.withAdoption a).offer .engine (.adopt { target := t })).2 with
    | .joined seq => _
    | .dropped reason => _) = _
  rw [hoffer]
  rfl

/-- Settles O31. -/
theorem adoptAsksForALapsedTarget : Obligations.AdoptAsksForALapsedTarget := by
  intro s target hs hactive hnormal hphase h0 h31 hown
  have hrange : stationInRange target = true := (stationInRange_iff target).mpr ⟨h0, h31⟩
  have hverdict (l : DriveLink) : (s.withLink l).targetVerdict target = s.targetVerdict target := rfl
  have hconf (l : DriveLink) : (s.withLink l).configured = true := by simp [Device.configured, hactive]
  have hrefused {why : Detail} (h : s.targetVerdict target = some why) :
      act (Device.hostRequest (.adopt target)) s = .next (s.answered s.toDevice (refusal why)) :=
    request_refused hs _ fun l => by
      simp [Device.perform, Device.reqAdopt, hconf, hrange, hown, Device.own, Device.isActive, hactive, Device.muted, hnormal, hphase,
        hverdict, h]
  refine ⟨fun hnone => hrefused (by simp [Device.targetVerdict, hnone]), fun e he => ⟨fun hlost => ?_, fun hlost hced => ?_,
    fun hlost hced hlapsed => ?_, fun hlost hlapsed hsend => ?_⟩⟩
  · exact hrefused (by simp [Device.targetVerdict, he, hlost])
  · exact hrefused (by simp [Device.targetVerdict, he, hlost, hced])
  · refine hrefused ?_
    simp [Device.targetVerdict, he, hlost]
  · have hnone : s.targetVerdict target = none := by simp [Device.targetVerdict, he, hlost, hlapsed]
    refine request_done hs (.adopt target) rfl fun l => ?_
    have hstart := startAdoption_of_room (d := s.withLink l) hsend target
    simp [Device.perform, Device.reqAdopt, hconf, hrange, hown, Device.own, Device.isActive, hactive, Device.muted, hnormal, hphase,
      hverdict, hnone, hstart]
    exact ⟨rfl, rfl⟩

end Sys2Proof.Machine
end

section
/-! PROOF. What staking and offering do (R55 to R58, R94, R95): whatever the retries, records waiting for their stake or offered change
their state and counts, own frames are offered and the claim map is rewritten; no other record, no account, no run and no notice is
touched. Said once as `Stakes`, with what a completed request keeps (R37 to R39) drawn from it. -/

namespace Sys2Proof.Machine

/-! ## The records that staking and offering move on -/

/-- A record that waits for its stake, or is offered. -/
def Record.Opening (r : Record) : Prop := r.state = .giver .pending ∨ r.state = .giver .staking ∨ r.state = .giver .offering

/-- Staking and offering move a record on: its state among STAKING and OFFERING, its request, its key and its offers. -/
structure Record.Advances (r r' : Record) : Prop where
  before : r.Opening
  after : r'.state = .giver .staking ∨ r'.state = .giver .offering
  rest : r' = { r with
    state := r'.state, request := r'.request, frozenKey := r'.frozenKey, offers := r'.offers, timer := r'.timer,
    addressed := r'.addressed }

theorem Record.Advances.trans {a b c : Record} (h : a.Advances b) (k : b.Advances c) : a.Advances c := by
  refine ⟨h.before, k.after, ?_⟩
  obtain ⟨-, -, hb⟩ := h
  obtain ⟨-, -, hc⟩ := k
  rw [hc, hb]

/-- A row of moves of staking and offering. -/
inductive Stakes : Device → Device → Prop
  | refl (d : Device) : Stakes d d
  | entries {d e : Device} (es : List Claim) : Stakes d e → Stakes d (e.withEntries es)
  | slot {d e : Device} {i : Nat} {r r' : Record} (hr : e.recordAt i = some r) (h : r.Advances r') :
      Stakes d e → Stakes d (e.setSlot i (some r'))
  | send {d e : Device} (s : Sender) (b : Body) (hs : s ≠ .relay) (hb : bodyIsPresence b = false) :
      Stakes d e → Stakes d (e.offer s b).1
  | free {d e : Device} (n : Nat) : Stakes d e → Stakes d { e with freeCount := n }

section Operations

variable {d e : Device} {i : Nat}

theorem Stakes.foldl {α : Type} {f : Device → α → Device} (hf : ∀ a e, Stakes d e → Stakes d (f e a)) (l : List α)
    (h : Stakes d e) : Stakes d (l.foldl f e) := by
  induction l generalizing e with
  | nil => exact h
  | cons a l ih => exact ih (hf a e h)

theorem Stakes.forSlots {f : Nat → Device → Device} (hf : ∀ i e, Stakes d e → Stakes d (f i e)) (h : Stakes d e) :
    Stakes d (forSlots f e) := Stakes.foldl (f := fun d i => f i d) (fun i e => hf i e) slotList h

theorem Stakes.modRecord {f : Record → Record} (hf : ∀ r, e.recordAt i = some r → r.Advances (f r)) (h : Stakes d e) :
    Stakes d (e.modRecord i f) := by
  unfold Device.modRecord
  split
  · next r hr => exact h.slot hr (hf r hr)
  · exact h

theorem Stakes.sendAbsorbed (s : Sender) (b : Body) (h : Stakes d e) (hs : s ≠ .relay := by decide)
    (hb : bodyIsPresence b = false := by rfl) : Stakes d (e.sendAbsorbed s b) := h.send s b hs hb

theorem Stakes.queueOffer (hr : ∀ r, e.recordAt i = some r → r.state = .giver .offering) (h : Stakes d e) :
    Stakes d (e.queueOffer i) := by
  unfold Device.queueOffer
  split
  · next r h' => exact Stakes.send .engine _ (by decide) rfl (h.slot h' ⟨.inr (.inr (hr r h')), .inr (hr r h'), rfl⟩)
  · exact h

theorem recordAt_modRecord {f : Record → Record} {r' : Record} (h : (d.modRecord i f).recordAt i = some r') :
    ∃ r, d.recordAt i = some r ∧ r' = f r := by
  unfold Device.modRecord at h
  cases hr : d.recordAt i with
  | none => simp [hr] at h
  | some r =>
    simp only [hr] at h
    rw [recordAt_setSlot_self d _ (recordAt_lt d hr)] at h
    exact ⟨r, rfl, (Option.some.inj h).symm⟩

theorem Stakes.enterOffering (hr : ∀ r, e.recordAt i = some r → r.Opening) (h : Stakes d e) : Stakes d (e.enterOffering i) := by
  unfold Device.enterOffering
  have hmod := h.modRecord (i := i)
    (f := fun r => { r with state := .giver .offering, offers := 0, timer := 0, frozenKey := none, request := none })
    fun r h' => ⟨hr r h', .inr rfl, rfl⟩
  dsimp only
  split
  · refine hmod.queueOffer fun r' h' => ?_
    obtain ⟨r, -, rfl⟩ := recordAt_modRecord h'
    rfl
  · exact hmod

theorem Stakes.passStake {c : Cell} {t : Tag} (hr : ∀ r, e.recordAt i = some r → r.Opening) (h : Stakes d e) :
    Stakes d (e.passStake c i t) := Stakes.enterOffering (e := e.modOwn c _) hr (h.entries _)

theorem Stakes.removeHeard (c : Cell) (st : Station) (h : Stakes d e) : Stakes d (e.removeHeard c st) := (h.entries _).entries _

theorem Stakes.makeRoom (s : Option Station) (h : Stakes d e) : Stakes d (e.makeRoom s).1 := by
  unfold Device.makeRoom
  split
  · exact h
  · unfold Device.evict
    split
    · exact h
    · exact h.removeHeard ..
    · exact .free _ (h.removeHeard ..)

theorem makeRoom_table (s : Option Station) : (d.makeRoom s).1.engine = d.engine := by
  unfold Device.makeRoom
  split
  · rfl
  · unfold Device.evict
    split <;> rfl

theorem recordAt_congr {d e : Device} (h : e.engine.table = d.engine.table) (i : Nat) : e.recordAt i = d.recordAt i := by
  unfold Device.recordAt
  rw [h]

theorem Stakes.stakeCell (r : Record) (key : Nat) (hr : ∀ r, e.recordAt i = some r → r.state = .giver .staking) (h : Stakes d e) :
    Stakes d (e.stakeCell i r key).1 := by
  unfold Device.stakeCell
  have hroom (r' : Record) (h' : (e.makeRoom none).1.recordAt i = some r') : r'.state = .giver .staking :=
    hr r' (by rw [← recordAt_congr (congrArg Engine.table (makeRoom_table none))]; exact h')
  have hmod := (h.makeRoom none).modRecord (i := i) (f := fun r => { r with frozenKey := some key, request := some .contesting })
    fun r' h' => ⟨.inr (.inl (hroom r' h')), .inl (hroom r' h'), rfl⟩
  dsimp only
  split
  · exact .entries _ (.send _ _ (by decide) rfl hmod)
  · refine Stakes.modRecord (fun r' h' => ?_) (.entries _ (.send _ _ (by decide) rfl hmod))
    obtain ⟨r₀, h₀, rfl⟩ := recordAt_modRecord (i := i) h'
    exact ⟨.inr (.inl (hroom r₀ h₀)), .inl (hroom r₀ h₀), rfl⟩

theorem Stakes.setRequest (q : RequestStatus) (hr : ∀ r, e.recordAt i = some r → r.state = .giver .staking) (h : Stakes d e) :
    Stakes d (e.setRequest i q) := h.modRecord fun r h' => ⟨.inr (.inl (hr r h')), .inl (hr r h'), rfl⟩

theorem Stakes.attempt (n i : Nat) (h : Stakes d e) : Stakes d (attempt n i e) := by
  induction n generalizing i e with
  | zero => exact h
  | succ n ih =>
    unfold Machine.attempt
    split
    · exact h
    · next r hr =>
      split
      · next hst =>
        have hstaking (r' : Record) (h' : e.recordAt i = some r') : r'.state = .giver .staking := by
          obtain rfl := Option.some.inj (hr.symm.trans h')
          exact hst.1
        split
        · split
          · exact h.passStake fun r' h' => .inr (.inl (hstaking r' h'))
          · exact h.setRequest _ hstaking
        · split
          · exact h.setRequest _ hstaking
          · dsimp only
            split
            · exact h.setRequest _ hstaking
            · split
              · exact h.setRequest _ hstaking
              · refine Stakes.foldl (fun c e h => Stakes.foldl (fun j e h => ?_) _ h) _ (h.stakeCell _ _ hstaking)
                split
                · exact ih j h
                · exact h
      · exact h

theorem Stakes.stakingAttempt (i : Nat) (h : Stakes d e) : Stakes d (e.stakingAttempt i) := h.attempt ..

theorem Stakes.retry (cells : List Cell) (p : RequestStatus → Bool) (h : Stakes d e) : Stakes d (e.retry cells p) := by
  refine Stakes.forSlots (fun i e h => ?_) h
  split
  · exact h.stakingAttempt i
  · exact h

theorem Stakes.retryReleased (c : Cell) (h : Stakes d e) : Stakes d (e.retryReleased c) := h.retry ..

theorem Stakes.retryRemoved (cs : List Cell) (h : Stakes d e) : Stakes d (e.retryRemoved cs) := h.retry ..

theorem Stakes.enterStaking (hr : ∀ r, e.recordAt i = some r → r.Opening) (h : Stakes d e) : Stakes d (e.enterStaking i) :=
  (h.modRecord fun r h' => ⟨hr r h', .inl rfl, rfl⟩).stakingAttempt i

theorem recordIs_iff {p : Record → Bool} : d.recordIs i p = true ↔ ∃ r, d.recordAt i = some r ∧ p r = true := by
  unfold Device.recordIs
  cases d.recordAt i <;> simp

theorem recordIs_of_record {p : Record → Bool} {r : Record} (hr : d.recordAt i = some r) : d.recordIs i p = p r := by
  simp [Device.recordIs, hr]

theorem Stakes.engineActive (h : Stakes d e) : Stakes d e.engineActive := by
  refine Stakes.forSlots (fun i e h => ?_) h
  split
  · next hp =>
    obtain ⟨r, hr, hp⟩ := recordIs_iff.mp hp
    exact h.enterStaking fun r' h' => .inl (by obtain rfl := Option.some.inj (hr.symm.trans h'); simpa using hp)
  · split
    · next hp =>
      obtain ⟨r, hr, hp⟩ := recordIs_iff.mp hp
      simp only [Bool.and_eq_true, beq_iff_eq] at hp
      exact h.queueOffer fun r' h' => by obtain rfl := Option.some.inj (hr.symm.trans h'); exact hp.1
    · exact h

theorem becomeActive_stakes (d : Device) : Stakes (d.setStation .active) d.becomeActive := (Stakes.refl _).engineActive

theorem Stakes.releaseStake (x : Claim) (h : Stakes d e) : Stakes d (e.releaseStake x) :=
  (Stakes.sendAbsorbed _ _ (h.entries _)).retryReleased _

theorem Stakes.runHoldEnds (h : Stakes d e) : Stakes d e.runHoldEnds := by
  unfold Device.runHoldEnds
  split
  · exact (h.entries _).retryReleased _
  · exact h

end Operations

/-! ## What staking and offering keep -/

section Kept

variable {d e : Device} {i : Nat} {r : Record}

/-- Of the part only the claims, the records and the Line Port change. -/
theorem Stakes.eq (h : Stakes d e) :
    e = { d with
      line := e.line, claims := { d.claims with entries := e.claims.entries }, engine := { d.engine with table := e.engine.table },
      freeCount := e.freeCount } := by
  induction h with
  | refl => rfl
  | entries es _ ih => rw [ih]; rfl
  | slot _ _ _ ih => rw [ih]; rfl
  | send s b _ _ _ ih => rw [ih]; rfl
  | free n _ ih => rw [ih]

/-- A record changes only as staking and offering move it on. -/
theorem Stakes.record (h : Stakes d e) (hr : d.recordAt i = some r) :
    ∃ r', e.recordAt i = some r' ∧ (r' = r ∨ r.Advances r') := by
  induction h with
  | refl => exact ⟨r, hr, .inl rfl⟩
  | entries es _ ih => exact ih
  | @slot e j r₁ r₂ h₁ hadv _ ih =>
    obtain ⟨r', hr', hkept⟩ := ih
    by_cases hj : j = i
    · subst hj
      obtain rfl := Option.some.inj (h₁.symm.trans hr')
      refine ⟨r₂, recordAt_setSlot_self e _ (recordAt_lt e h₁), .inr ?_⟩
      rcases hkept with rfl | hkept
      · exact hadv
      · exact hkept.trans hadv
    · exact ⟨r', (recordAt_setSlot_of_ne e _ hj).trans hr', hkept⟩
  | send s b _ _ _ ih => exact ih
  | free n _ ih => exact ih

theorem Stakes.record_of_not_opening (h : Stakes d e) (hr : d.recordAt i = some r) (hn : ¬r.Opening) : e.recordAt i = some r := by
  obtain ⟨r', hr', rfl | hadv⟩ := h.record hr
  · exact hr'
  · exact absurd hadv.before hn

theorem Stakes.table_length (h : Stakes d e) : e.engine.table.length = d.engine.table.length := by
  induction h with
  | refl => rfl
  | slot _ _ _ ih => exact (List.length_set ..).trans ih
  | entries _ _ ih => exact ih
  | send _ _ _ _ _ ih => exact ih
  | free _ _ ih => exact ih

end Kept

/-! ## Own frames stay queued (R6) -/

section Queued

variable {l : LinePort} {x : TxEntry}

theorem lastIdx_spec {α : Type} {p : α → Bool} {q : List α} {k : Nat} (h : lastIdx p q = some k) : ∃ y, q[k]? = some y ∧ p y = true := by
  induction q generalizing k with
  | nil => cases h
  | cons y q ih =>
    unfold lastIdx at h
    split at h
    · next j hj =>
      obtain rfl : j + 1 = k := Option.some.inj h
      exact ih hj
    · split at h
      · next hp =>
        obtain rfl : 0 = k := Option.some.inj h
        exact ⟨y, rfl, hp⟩
      · cases h

theorem newestRelayed_spec {k : Nat} (h : l.newestRelayed = some k) : ∃ y, l.queue[k]? = some y ∧ y.sender = .relay := by
  unfold LinePort.newestRelayed at h
  dsimp only at h
  split at h
  · obtain ⟨j, hj, rfl⟩ := Option.map_eq_some_iff.mp h
    obtain ⟨y, hy, hp⟩ := lastIdx_spec hj
    exact ⟨y, by simpa using hy, by simpa using hp⟩
  · obtain ⟨y, hy, hp⟩ := lastIdx_spec h
    exact ⟨y, hy, by simpa using hp⟩

theorem append_queue (f : Frame) (s : Sender) : (l.append f s).queue = l.queue ++ [{ frame := f, sender := s, collisions := 0 }] := by
  unfold LinePort.append
  dsimp only
  split <;> rfl

theorem removeAt_queue (k : Nat) : (l.removeAt k).queue = l.queue.eraseIdx k := by
  unfold LinePort.removeAt
  dsimp only
  split <;> rfl

theorem joinTail_queue (s : Sender) (b : Body) :
    (l.joinTail s b).1.queue = l.queue ++ [{ frame := l.ownFrame b l.seqCounter, sender := s, collisions := 0 }] := append_queue ..

theorem mem_offerPlain (hx : x ∈ l.queue) (hs : x.sender ≠ .relay) (s : Sender) (b : Body) : x ∈ (l.offerPlain s b).1.queue := by
  unfold LinePort.offerPlain
  split
  · rw [joinTail_queue]
    exact List.mem_append_left _ hx
  · split
    · next k hk =>
      obtain ⟨y, hy, hrelay⟩ := newestRelayed_spec hk
      rw [joinTail_queue, removeAt_queue]
      obtain ⟨j, hj⟩ := List.mem_iff_getElem?.mp hx
      refine List.mem_append_left _ (List.mem_eraseIdx_iff_getElem?.mpr ⟨j, fun hjk => hs ?_, hj⟩)
      subst hjk
      obtain rfl := Option.some.inj (hj.symm.trans hy)
      exact hrelay
    · exact hx

/-- R6: an own frame that waits is not displaced by another own frame. -/
theorem mem_offer (hx : x ∈ l.queue) (hs : x.sender ≠ .relay) (s : Sender) {b : Body} (hb : bodyIsPresence b = false) :
    x ∈ (l.offer s b).1.queue := by
  unfold LinePort.offer
  split
  · exact hx
  · rw [if_neg (by simp [hb])]
    exact mem_offerPlain hx hs s b

theorem Stakes.mem_queue {d e : Device} (h : Stakes d e) (hx : x ∈ d.line.queue) (hs : x.sender ≠ .relay) : x ∈ e.line.queue := by
  induction h with
  | refl => exact hx
  | entries _ _ ih => exact ih
  | slot _ _ _ ih => exact ih
  | send s b _ hb _ ih => exact mem_offer ih hs s hb
  | free _ _ ih => exact ih

/-- A frame that joins with room waits at the queue's tail. -/
theorem mem_sent (d : Device) (s : Sender) (b : Body) :
    ∃ y ∈ (d.sent s b).queue, y.sender = s ∧ y.frame.body = b :=
  ⟨_, by rw [Device.sent, joinTail_queue]; exact List.mem_append_right _ (List.mem_singleton.mpr rfl), rfl, rfl⟩

end Queued

/-! ## What a completed request keeps (R37 to R39) -/

section Completed

variable (d : Device)

theorem pushNotice_link (n : Notice) : ∃ ns fs, d.pushNotice n = d.withLink { d.link with notices := ns, flags := fs } := by
  unfold Device.pushNotice
  split
  · exact ⟨_, d.link.flags, rfl⟩
  · exact ⟨d.link.notices, _, rfl⟩

theorem Device.lapseEnded_link : ∃ ns fs, d.lapseEnded = d.withLink { d.link with notices := ns, flags := fs } := pushNotice_link d _

/-- What the completion of a request can do: staking and offering, beside the station's own state, its notices and its summary flags. -/
def Device.Completes (d e : Device) : Prop :=
  ∃ p f ns fs, Stakes (d.withPeers p) f ∧ e = f.withLink { d.link with notices := ns, flags := fs }

theorem requestCompleted_completes : d.Completes d.requestCompleted := by
  have still (p : PeerRoster) : d.Completes (d.withPeers p) := ⟨p, d.withPeers p, d.link.notices, d.link.flags, .refl _, rfl⟩
  unfold Device.requestCompleted
  dsimp only
  split
  · exact still d.peers
  · have h := becomeActive_stakes (d.withPeers { d.peers with silenceTimer := some Config.hostSilence })
    have hlink := congrArg Device.link h.eq
    generalize (d.withPeers { d.peers with silenceTimer := some Config.hostSilence }).becomeActive = e at h hlink ⊢
    obtain ⟨ns, fs, hended⟩ := e.lapseEnded_link
    rw [hended, hlink]
    exact ⟨_, e, ns, fs, h, rfl⟩
  · exact still _
  · exact still _

variable {d : Device} {e : Device} {i : Nat} {r : Record} {x : TxEntry}

theorem Device.Completes.accounts (h : d.Completes e) : e.accounts = d.accounts := by
  obtain ⟨p, f, ns, fs, hf, rfl⟩ := h
  have haccounts : f.accounts = d.accounts := by rw [hf.eq]; rfl
  exact haccounts

/-- The completion of a request moves on only the records that wait for their stake or are offered. -/
theorem Device.Completes.record (h : d.Completes e) (hr : d.recordAt i = some r) (hn : ¬r.Opening) : e.recordAt i = some r := by
  obtain ⟨p, f, ns, fs, hf, rfl⟩ := h
  exact hf.record_of_not_opening hr hn

/-- Own frames that wait stay queued through the completion of a request. -/
theorem Device.Completes.queued (h : d.Completes e) (hx : x ∈ d.line.queue) (hs : x.sender ≠ .relay) : x ∈ e.line.queue := by
  obtain ⟨p, f, ns, fs, hf, rfl⟩ := h
  exact hf.mem_queue hx hs

theorem Device.Completes.result (h : d.Completes e) : e.link.phase = d.link.phase ∧ e.link.result = d.link.result := by
  obtain ⟨p, f, ns, fs, -, rfl⟩ := h
  exact ⟨rfl, rfl⟩

/-- In a station that is not LAPSED the completion of a request touches the station's own state alone. -/
theorem requestCompleted_of_not_lapsed (h : d.peers.state ≠ .lapsed) : ∃ p, d.requestCompleted = d.withPeers p := by
  cases hs : d.peers.state with
  | unconfigured => exact ⟨d.peers, by simp [Device.requestCompleted, hs]; rfl⟩
  | joining => exact ⟨_, requestCompleted_of_live d (.inl hs)⟩
  | active => exact ⟨_, requestCompleted_of_live d (.inr hs)⟩
  | lapsed => exact absurd hs h
  | ceding => exact ⟨_, requestCompleted_of_ceding d hs⟩

/-- A request on a part that takes it: its effects on a part that differs in its byte exchange alone, its result placed, and its
completion. -/
theorem request_completes {s : State} (hs : s.ready) (q : Request) (hq : Request.Spelled q := by simp [Request.Spelled]) :
    ∃ l e, act (Device.hostRequest q) s = .next (s.after e) ∧
      (((s.withLink l).perform q).1.withResult ((s.withLink l).perform q).2).Completes e ∧
      (((s.withLink l).perform q).1.peers.state ≠ .lapsed →
        ∃ p, e = (((s.withLink l).perform q).1.withResult ((s.withLink l).perform q).2).withPeers p) ∧
      l.notices = s.link.notices ∧ l.position = s.link.position := by
  obtain ⟨g, hg⟩ := hostRequest_ready s.toDevice hs q (parseRequest_bytes q hq) (requestParams_length q hq)
  exact ⟨_, _, congrArg (fun e => Host.Outcome.next (s.after e)) hg, requestCompleted_completes _,
    fun h => requestCompleted_of_not_lapsed (d := Device.withResult _ _) h, rfl, rfl⟩

/-- A request whose effects do not touch the drive link, but that asks where the cabin stands. -/
theorem request_done_at {s : State} {e : Device} {r : Reply} (hs : s.ready) (q : Request) (hl : e.link = s.link)
    (h : ∀ l : DriveLink, l.position = s.link.position → (s.withLink l).perform q = (e.withLink l, r))
    (hq : Request.Spelled q := by simp [Request.Spelled]) : act (Device.hostRequest q) s = .next (s.answered e r) :=
  act_hostRequest (hostRequest_answered _ hs q hq _ _ fun g => by
    rw [h (s.link.asking g (gatherStatus s.link.notices)) rfl, hl]
    rfl)

end Completed

end Sys2Proof.Machine
end

section
/-! PROOF. The requests that name a record and answer an invitation, offer again, report a lift or report a set-down (R100, R105, R116,
R120): what each operation leaves in a part with room, then the request. -/

namespace Sys2Proof.Machine

variable {s : State} {d : Device} {i : Nat} {r : Record}

/-! ## The record a request names -/

/-- The first two checks of a request that names a record of the table pass. -/
theorem withRecord_of_record {t : Tag} (hc : d.peers.state ≠ .unconfigured) (hs : d.slotOf t = some i) (hr : d.recordAt i = some r)
    (f : Nat → Record → Device × Reply) : d.withRecord t f = f i r := by
  simp [Device.withRecord, Device.configured, hc, hs, hr]

theorem modRecord_of_record (hr : d.recordAt i = some r) (f : Record → Record) : d.modRecord i f = d.setSlot i (some (f r)) := by
  simp [Device.modRecord, hr]

theorem modRecord_withLine (l : LinePort) (hr : d.recordAt i = some r) (f : Record → Record) :
    (d.withLine l).modRecord i f = (d.withLine l).setSlot i (some (f r)) := modRecord_of_record (d := d.withLine l) hr f

theorem setSlot_twice (q q' : Option Record) : (d.setSlot i q).setSlot i q' = d.setSlot i q' := by
  simp [Device.setSlot, Device.withTable, Device.withEngine]

theorem modRecord_setSlot (hr : d.recordAt i = some r) (q : Record) (f : Record → Record) :
    (d.setSlot i (some q)).modRecord i f = d.setSlot i (some (f q)) := by
  rw [modRecord_of_record (recordAt_setSlot_self d _ (recordAt_lt d hr)), setSlot_twice]

/-! ## ANSWER INVITE (R116, R117) -/

/-- R116: with room the AGREE joins the queue and the record is AGREED, its AGREE awaited. -/
theorem takerAgree_of_room (h : d.canSend) (hr : d.recordAt i = some r) :
    d.takerAgree i r = { d with
      line := d.sent .engine (.agree { tag := r.tag, taker := d.line.station }),
      engine := d.tableWith i { r with state := .taker .agreed, timer := 0, agreeFrame := some d.line.seqCounter } } := by
  unfold Device.takerAgree
  dsimp only
  rw [offer_of_room (d := d.setSlot i _) h .engine rfl]
  exact modRecord_setSlot (d := d.withLine (d.sent .engine (.agree { tag := r.tag, taker := d.line.station }))) hr _ _

/-- R4, R117: in MUTE the AGREE ends DROPPED at once and the record ends FAILED. -/
theorem takerAgree_of_mute (h : d.line.mode = .mute) (hr : d.recordAt i = some r) :
    d.takerAgree i r = (d.setSlot i (some { r with state := .taker .agreed, timer := 0 })).endTaker i ⟨.failed, .lineMuted⟩ := by
  have hrec := recordAt_setSlot_self d (some { r with state := .taker .agreed, timer := 0 }) (recordAt_lt d hr)
  unfold Device.takerAgree
  dsimp only
  rw [offer_of_mute (d := d.setSlot i _) h]
  unfold Device.agreeDropped
  rw [recordIs_of_record hrec]
  rfl

/-- A taker record that has ended stands through the completion of its request. -/
theorem Device.Completes.takerEnded {e : Device} {o : OutcomePair} (h : d.Completes e)
    (hr : ∃ r', d.recordAt i = some r' ∧ r'.state = .taker .ended ∧ r'.outcome = some o) :
    ∃ r', e.recordAt i = some r' ∧ r'.state = .taker .ended ∧ r'.outcome = some o := by
  obtain ⟨r', hr', hstate, hout⟩ := hr
  exact ⟨r', h.record hr' (by simp [Record.Opening, hstate]), hstate, hout⟩

/-- Settles O26. -/
theorem answerInviteAgreesOrDeclines : Obligations.AnswerInviteAgreesOrDeclines := by
  intro s g q i r hs hconf hslot hr hinvited
  have hperform (l : DriveLink) (a : Byte) : (s.withLink l).perform (.answerInvite ⟨g, q⟩ a) =
      if 1 < a.toNat then (s.withLink l).refuse .badParam
      else if a = 1 then ((s.withLink l).takerAgree i r, okay []) else ((s.withLink l).takerDecline i r, okay []) := by
    refine (withRecord_of_record (d := s.withLink l) hconf hslot hr _).trans ?_
    rw [if_neg (not_not_intro hinvited)]
    rfl
  refine ⟨fun hsend => ?_, fun hmute => ?_, ?_⟩
  · refine request_done hs (.answerInvite ⟨g, q⟩ 1) rfl fun l => (hperform l 1).trans ?_
    rw [if_neg (by decide), if_pos rfl, takerAgree_of_room (d := s.withLink l) hsend hr]
    rfl
  · obtain ⟨l, e, hexec, he, -⟩ := request_completes hs (.answerInvite ⟨g, q⟩ 1)
    rw [hperform, if_neg (by decide), if_pos rfl] at he
    rw [takerAgree_of_mute (d := s.withLink l) hmute hr] at he
    obtain ⟨r', hr', -, hstate, hout, -⟩ := endTaker_ends ⟨.failed, .lineMuted⟩
      (recordAt_setSlot_self (s.withLink l)
        (some { r with state := .taker .agreed, timer := 0 }) (recordAt_lt _ hr))
    obtain ⟨r'', hr'', hended⟩ := he.takerEnded (i := i) ⟨r', hr', hstate, hout⟩
    exact ⟨e, r'', hexec, hr'', hended.1, hended.2, he.result⟩
  · obtain ⟨l, e, hexec, he, -⟩ := request_completes hs (.answerInvite ⟨g, q⟩ 0)
    rw [hperform, if_neg (by decide), if_neg (by decide)] at he
    let d := (s.withLink l).sendDecline r.tag 3#8
    obtain ⟨r', hr', -, hstate, hout, -, hline, -⟩ := endTaker_ends (d := d) (i := i) (r := r) ⟨.refused, .declined⟩ hr
    obtain ⟨r'', hr'', hended⟩ := he.takerEnded (i := i) ⟨r', hr', hstate, hout⟩
    refine ⟨e, r'', hexec, hr'', hended.1, hended.2, he.result.1, he.result.2, fun hsend => ?_⟩
    have hd : d.line = s.sent .engine (.decline { tag := r.tag, taker := s.line.station, reason := 3 }) :=
      congrArg Device.line (sendAbsorbed_of_room (d := s.withLink _) hsend .engine rfl)
    obtain ⟨y, hy, hsender, hbody⟩ := mem_sent s.toDevice .engine (.decline { tag := r.tag, taker := s.line.station, reason := 3 })
    refine ⟨y, he.queued ?_ (by rw [hsender]; decide), hsender, hbody⟩
    rw [← hd, ← hline] at hy
    exact hy

/-! ## REOFFER (R95, R105) -/

/-- R95: the OFFER of a record as it stands. -/
def Device.offerBody (d : Device) (i : Nat) (r : Record) : Body :=
  .offer
    { tag := r.tag, bin := r.bin, cls := byteOf r.cls.code, slack := BitVec.ofNat 16 (d.recordSlack i r), cell := r.cell,
      taker := r.partner, placed := flagByte r.placed, ordinal := byteOf r.ordinal }

theorem queueOffer_of_record (hr : d.recordAt i = some r) :
    d.queueOffer i =
      (d.setSlot i (some { r with addressed := true, offers := r.offers + 1 })).sendAbsorbed .engine (d.offerBody i r) := by
  simp [Device.queueOffer, hr, Device.offerBody]

/-- R95: with room the OFFER joins the queue. -/
theorem queueOffer_of_room (h : d.canSend) (hr : d.recordAt i = some r) :
    d.queueOffer i = { d with
      line := d.sent .engine (d.offerBody i r),
      engine := d.tableWith i { r with addressed := true, offers := r.offers + 1 } } := by
  rw [queueOffer_of_record hr, sendAbsorbed_of_room (d := d.setSlot i _) h .engine rfl]
  rfl

/-- R95: a record as it enters OFFERING. -/
def Record.offering (r : Record) : Record :=
  { r with state := .giver .offering, offers := 0, timer := 0, frozenKey := none, request := none }

/-- R95: outside ACTIVE a record enters OFFERING without its OFFER. -/
theorem enterOffering_of_not_active (hr : d.recordAt i = some r) (ha : d.peers.state ≠ .active) :
    d.enterOffering i = d.setSlot i (some r.offering) := by
  unfold Device.enterOffering
  rw [modRecord_of_record hr]
  exact if_neg (by simpa [Device.isActive] using ha)

theorem enterOffering_of_active (hr : d.recordAt i = some r) (ha : d.peers.state = .active) :
    d.enterOffering i = (d.setSlot i (some r.offering)).queueOffer i := by
  unfold Device.enterOffering
  rw [modRecord_of_record hr]
  exact if_pos (by simpa [Device.isActive] using ha)

/-- R81, R82: the slack an OFFER carries is that of the record's account. -/
theorem recordSlack_of_account {a : Account} (hg : r.state = .giver .offering)
    (ha : (if r.placed then d.accountAt (.slot i) else d.accounts.hoist) = some a) (hbin : a.bin = r.bin) :
    d.recordSlack i r = a.slack := by
  unfold Device.recordSlack Device.recordAccount Record.accountPos
  rw [hg]
  by_cases hp : r.placed
  · simp only [hp, if_true] at ha ⊢
    rw [ha]
  · simp only [hp, Bool.false_eq_true, if_false] at ha ⊢
    rw [ha]
    simp [hbin]

theorem flagByte_eq (b : Bool) : flagByte b = if b then 1 else 0 := by cases b <;> rfl

theorem takerBad_iff (d : Device) (taker : Byte) : d.takerBad taker = true ↔ 31 < taker.toNat ∨ taker = d.line.station := by
  simp [Device.takerBad, Device.own]

/-- The part with a record written that has left its turn (R145). -/
def Device.left (d : Device) (i : Nat) (q : Record) : Device := { d with engine := d.leftWith i q }

theorem setSlot_left (d : Device) (i : Nat) (q : Record) : (d.setSlot i (some q)).leaveTurn q.tag = d.left i q := setSlot_leaveTurn i q

theorem left_recordAt (hr : d.recordAt i = some r) (q : Record) : (d.left i q).recordAt i = some q :=
  recordAt_setSlot_self d (some q) (recordAt_lt d hr)

/-- A record that has left its turn, written again under its tag. -/
theorem left_setSlot (d : Device) (i : Nat) (q : Record) {q' : Record} (h : q'.tag = q.tag) :
    (d.left i q).setSlot i (some q') = d.left i q' := by
  simp [Device.left, Device.setSlot, Device.withTable, Device.withEngine, Device.leftWith, Device.tableWith, h]

/-- R105: a record as it is offered again to a taker. -/
def Record.reoffered (r : Record) (taker : Station) : Record := Record.offering { r with partner := taker }

/-- R105: a record offered again has left its turn and enters OFFERING. -/
theorem giverReoffer_eq (d : Device) (i : Nat) (r : Record) (taker : Byte) :
    d.giverReoffer i r taker = (d.left i { r with partner := taker }).enterOffering i :=
  congrArg (Device.enterOffering · i) (setSlot_left d i { r with partner := taker })

theorem giverReoffer_of_not_active (hr : d.recordAt i = some r) (ha : d.peers.state ≠ .active) (taker : Byte) :
    d.giverReoffer i r taker = d.left i (r.reoffered taker) := by
  rw [giverReoffer_eq, enterOffering_of_not_active (left_recordAt hr _) ha]
  exact left_setSlot d i _ rfl

theorem giverReoffer_of_active (hr : d.recordAt i = some r) (ha : d.peers.state = .active) (taker : Byte) :
    d.giverReoffer i r taker = (d.left i (r.reoffered taker)).queueOffer i := by
  rw [giverReoffer_eq, enterOffering_of_active (left_recordAt hr _) ha]
  exact congrArg (Device.queueOffer · i) (left_setSlot d i _ rfl)

/-- Settles O22. -/
theorem reofferOffersAgain : Obligations.ReofferOffersAgain := by
  intro s g q taker i r hs hconf hslot hr hunbound new
  have hperform (l : DriveLink) : (s.withLink l).perform (.reoffer ⟨g, q⟩ taker) =
      if s.takerBad taker then (s.withLink l).refuse .badParam else ((s.withLink l).giverReoffer i r taker, okay []) := by
    refine (withRecord_of_record (d := s.withLink l) hconf hslot hr _).trans ?_
    rw [if_neg (not_not_intro hunbound)]
    rfl
  refine ⟨fun hbad => ?_, fun hrange hother hidle => ?_, fun hrange hother hactive hsend a ha hbin => ?_⟩
  · exact request_refused hs (.reoffer ⟨g, q⟩ taker) fun l => by rw [hperform, if_pos ((takerBad_iff _ _).mpr hbad)]
  all_goals
    have hgood : ¬s.takerBad taker = true := fun h => ((takerBad_iff _ _).mp h).elim (Nat.not_lt.mpr hrange) hother
  · refine request_done hs (.reoffer ⟨g, q⟩ taker) rfl fun l => ?_
    rw [hperform, if_neg hgood, giverReoffer_of_not_active (d := s.withLink l) hr hidle]
    rfl
  · refine request_done hs (.reoffer ⟨g, q⟩ taker) rfl fun l => ?_
    have hnew := left_recordAt (d := s.withLink l) hr (r.reoffered taker)
    have hslack : ((s.withLink l).left i (r.reoffered taker)).recordSlack i (r.reoffered taker) = a.slack :=
      recordSlack_of_account rfl ha hbin
    rw [hperform, if_neg hgood, giverReoffer_of_active (d := s.withLink l) hr hactive,
      queueOffer_of_room (d := (s.withLink l).left i _) hsend hnew, Device.offerBody, hslack, flagByte_eq]
    have hengine := congrArg Device.engine
      (left_setSlot (s.withLink l) i (r.reoffered taker) (q' := { new with addressed := true, offers := 1 }) rfl)
    exact congrArg (fun e => (({ s.withLink l with line := _, engine := e } : Device), okay [])) hengine

end Sys2Proof.Machine
end

section
/-! PROOF. Owed notices (R92, R159): the single moves, taken while the queue has room, are the one move of `Device.moved`; then COLLECT
(R160), which frees a place for what is owed. -/

namespace Sys2Proof.Machine

variable {s : State} {d : Device} {i : Nat} {r : Record}

/-! ## What is owed, in the list of the records -/

/-- The slot of a record once the first notice of its set has been queued, `rest` left in it (R92). -/
def Record.afterNotice (r : Record) (rest : List PendingNotice) : Option Record :=
  if rest.isEmpty && r.isEnded && r.endCollected then none else some { r with notices := rest }

theorem owedFrom_of_quiet (k : Nat) {t : List (Option Record)} (h : ∀ r, some r ∈ t → r.notices = []) : owedFrom k t = [] := by
  induction t generalizing k with
  | nil => rfl
  | cons o t ih =>
    have ht := ih (k + 1) fun r hr => h r (List.mem_cons_of_mem _ hr)
    cases o with
    | none => exact ht
    | some r => simp [owedFrom, h r List.mem_cons_self, ht]

theorem tableMoved_of_quiet (n : Nat) {t : List (Option Record)} (h : ∀ r, some r ∈ t → r.notices = []) : tableMoved n t = t := by
  induction t generalizing n with
  | nil => rfl
  | cons o t ih =>
    have ht (n : Nat) := ih n fun r hr => h r (List.mem_cons_of_mem _ hr)
    cases o with
    | none => simp [tableMoved, ht]
    | some r =>
      have hr : r.notices = [] := h r List.mem_cons_self
      have hself : ({ r with notices := [] } : Record) = r := by rw [← hr]
      simp [tableMoved, hr, ht, hself]

theorem tableMoved_zero (t : List (Option Record)) : tableMoved 0 t = t := by
  induction t with
  | nil => rfl
  | cons o t ih => cases o <;> simp_all [tableMoved]

/-- The first slot that owes: those before it owe nothing. -/
structure FirstOwing (t : List (Option Record)) (i : Nat) (r : Record) (p : PendingNotice) (rest : List PendingNotice) : Prop where
  here : t[i]? = some (some r)
  owes : r.notices = p :: rest
  before : ∀ j q, j < i → t[j]? = some (some q) → q.notices = []

section FirstOwing

variable {t : List (Option Record)} {o : Option Record} {p : PendingNotice} {rest : List PendingNotice}

theorem FirstOwing.tail (h : FirstOwing (o :: t) (i + 1) r p rest) : FirstOwing t i r p rest :=
  ⟨by simpa using h.here, h.owes, fun j q hj hq => h.before (j + 1) q (by omega) (by simpa using hq)⟩

theorem FirstOwing.head (h : FirstOwing (o :: t) (i + 1) r p rest) {q : Record} (ho : o = some q) : q.notices = [] :=
  h.before 0 q (by omega) (by simp [ho])

/-- The notice that is queued first stands first among those owed. -/
theorem FirstOwing.owedFrom (h : FirstOwing t i r p rest) (k : Nat) :
    owedFrom k t = recordNotice (k + i) r.tag p :: owedFrom k (t.set i (r.afterNotice rest)) := by
  induction t generalizing i k with
  | nil => cases h.here
  | cons o t ih =>
    cases i with
    | zero =>
      obtain rfl : o = some r := by simpa using h.here
      simp only [Machine.owedFrom, h.owes, Record.afterNotice, List.set_cons_zero, List.map_cons, List.cons_append, Nat.add_zero]
      split
      · next hend =>
        obtain rfl : rest = [] := by simp_all
        rfl
      · rfl
    | succ i =>
      have hrest := ih h.tail (k + 1)
      rw [Nat.add_right_comm] at hrest
      cases o with
      | none => exact hrest
      | some q => simp only [Machine.owedFrom, h.head rfl, List.set_cons_succ, List.map_nil, List.nil_append, hrest, Nat.add_assoc]

theorem FirstOwing.tableMoved (h : FirstOwing t i r p rest) (n : Nat) :
    tableMoved (n + 1) t = tableMoved n (t.set i (r.afterNotice rest)) := by
  induction t generalizing i n with
  | nil => cases h.here
  | cons o t ih =>
    cases i with
    | zero =>
      obtain rfl : o = some r := by simpa using h.here
      cases hrest : rest with
      | nil =>
        by_cases hend : r.isEnded = true ∧ r.endCollected = true
        · simp [Machine.tableMoved, Record.afterNotice, h.owes, hrest, hend]
        · have hend' : (r.isEnded && r.endCollected) = false := by simpa using hend
          simp [Machine.tableMoved, Record.afterNotice, h.owes, hrest, hend, hend']
      | cons p' rest' =>
        have hkept : Record.isEnded { r with notices := p' :: rest' } = r.isEnded := rfl
        simp [Machine.tableMoved, Record.afterNotice, h.owes, hrest, hkept]
    | succ i =>
      cases o with
      | none => simp [Machine.tableMoved, ih h.tail]
      | some q => simp [Machine.tableMoved, ih h.tail, h.head rfl]

end FirstOwing

theorem owingSlot_some (h : d.owingSlot = some i) : ∃ r p rest, FirstOwing d.engine.table i r p rest := by
  obtain ⟨hlt, hhere, hbefore⟩ := List.findIdx?_eq_some_iff_getElem.mp h
  cases hr : d.engine.table[i] with
  | none => simp [hr] at hhere
  | some r =>
    cases hn : r.notices with
    | nil => simp [hr, hn] at hhere
    | cons p rest =>
      refine ⟨r, p, rest, by rw [List.getElem?_eq_getElem hlt, hr], hn, fun j q hj hq => ?_⟩
      obtain ⟨hjlt, hq⟩ := List.getElem?_eq_some_iff.mp hq
      have := hbefore j hj
      simpa [hq] using this

theorem owingSlot_none (h : d.owingSlot = none) {r : Record} (hr : some r ∈ d.engine.table) : r.notices = [] := by
  have := List.findIdx?_eq_none_iff.mp h _ hr
  simpa using this

theorem owingSlot_of_first {p : PendingNotice} {rest : List PendingNotice} (h : FirstOwing d.engine.table i r p rest) :
    d.owingSlot = some i := by
  obtain ⟨hlt, hr⟩ := List.getElem?_eq_some_iff.mp h.here
  refine List.findIdx?_eq_some_iff_getElem.mpr ⟨hlt, by simp [hr, h.owes], fun j hj => ?_⟩
  have hjlt : j < d.engine.table.length := by omega
  cases hq : d.engine.table[j] with
  | none => simp
  | some q => simp [h.before j q hj (by rw [List.getElem?_eq_getElem hjlt, hq])]

/-! ## One move and all moves -/

/-- R159: the owed notice that moves next is that of the first slot that owes. -/
theorem moveOne_of_first {p : PendingNotice} {rest : List PendingNotice} (h : FirstOwing d.engine.table i r p rest) :
    d.moveOne = (d.queueNotice (recordNotice i r.tag p)).setSlot i (r.afterNotice rest) := by
  have hr : d.recordAt i = some r := (recordAt_eq d i r).mpr h.here
  simp only [Device.moveOne, owingSlot_of_first h, hr, h.owes, Record.afterNotice]
  split <;> rfl

/-- R159: RUN_ENDED moves when no record owes. -/
theorem moveOne_of_run (hnone : d.owingSlot = none) (hmark : d.engine.run.mark = .owed) :
    d.moveOne = (d.queueNotice d.runEndedOwed).withRun { d.engine.run with mark := .queued } := by
  simp only [Device.moveOne, hnone, hmark, if_true]
  rfl

theorem moveOne_of_owes (h : d.owes = true) :
    (∃ i r p rest, FirstOwing d.engine.table i r p rest ∧
      d.moveOne = (d.queueNotice (recordNotice i r.tag p)).setSlot i (r.afterNotice rest)) ∨
    (d.owingSlot = none ∧ d.engine.run.mark = .owed ∧
      d.moveOne = (d.queueNotice d.runEndedOwed).withRun { d.engine.run with mark := .queued }) := by
  cases hslot : d.owingSlot with
  | some i =>
    obtain ⟨r, p, rest, hfirst⟩ := owingSlot_some hslot
    exact .inl ⟨i, r, p, rest, hfirst, moveOne_of_first hfirst⟩
  | none =>
    have hmark : d.engine.run.mark = .owed := by simpa [Device.owes, hslot] using h
    exact .inr ⟨rfl, hmark, moveOne_of_run hslot hmark⟩

theorem moveOne_notices (h : d.owes = true) : d.moveOne.link.notices.length = d.link.notices.length + 1 := by
  rcases moveOne_of_owes h with ⟨i, r, p, rest, -, hmove⟩ | ⟨-, -, hmove⟩ <;> rw [hmove] <;> simp [Device.queueNotice]

theorem moved_of_quiet (h : d.owes = false) : d.moved = d := by
  obtain ⟨hquiet, hmark⟩ := owes_eq_false.mp h
  have hquiet (r : Record) (hr : some r ∈ d.engine.table) : r.notices = [] := by
    obtain ⟨i, hi⟩ := List.mem_iff_getElem?.mp hr
    exact hquiet i r ((recordAt_eq d i r).mpr hi)
  simp [Device.moved, Device.owedNotices, owedFrom_of_quiet 0 hquiet, tableMoved_of_quiet _ hquiet, hmark]

theorem moved_of_full (h : 8 ≤ d.link.notices.length) : d.moved = d := by
  have hroom : 8 - d.link.notices.length = 0 := by omega
  have hmark : ¬(d.engine.run.mark = .owed ∧ d.owedNotices = []) := by
    rintro ⟨hmark, hnone⟩
    simp [Device.owedNotices, hmark] at hnone
  simp [Device.moved, hroom, tableMoved_zero, hmark]

theorem owedNotices_of_first {p : PendingNotice} {rest : List PendingNotice} (h : FirstOwing d.engine.table i r p rest) :
    d.owedNotices = recordNotice i r.tag p :: ((d.queueNotice (recordNotice i r.tag p)).setSlot i (r.afterNotice rest)).owedNotices := by
  have howed := h.owedFrom 0
  rw [Nat.zero_add] at howed
  unfold Device.owedNotices
  rw [howed]
  rfl

/-- A move taken alone changes nothing of where all moves lead. -/
theorem moveOne_moved (hroom : d.link.notices.length < 8) (h : d.owes = true) : d.moveOne.moved = d.moved := by
  obtain ⟨room, hroom'⟩ : ∃ room, 8 - d.link.notices.length = room + 1 := ⟨7 - d.link.notices.length, by omega⟩
  have hroom'' : 8 - (d.link.notices.length + 1) = room := by omega
  rcases moveOne_of_owes h with ⟨i, r, p, rest, hfirst, hmove⟩ | ⟨hnone, hmark, hmove⟩ <;> rw [hmove]
  · have howed := owedNotices_of_first hfirst
    generalize hd' : (d.queueNotice (recordNotice i r.tag p)).setSlot i (r.afterNotice rest) = d' at howed
    have hnotices : d'.link.notices = d.link.notices ++ [recordNotice i r.tag p] := by rw [← hd']; rfl
    have htable : d'.engine.table = d.engine.table.set i (r.afterNotice rest) := by rw [← hd']; rfl
    have hrun : d'.engine.run = d.engine.run := by rw [← hd']; rfl
    unfold Device.moved
    simp only [hnotices, htable, hrun, howed, List.length_append, List.length_cons, List.length_nil, Nat.zero_add, hroom', hroom'',
      List.take_succ_cons, List.append_assoc, List.cons_append, List.nil_append, Nat.add_le_add_iff_right, hfirst.tableMoved]
    rw [← hd']
    rfl
  · have hquiet (r : Record) (hr : some r ∈ d.engine.table) : r.notices = [] := owingSlot_none hnone hr
    simp [Device.moved, Device.owedNotices, owedFrom_of_quiet 0 hquiet, tableMoved_of_quiet _ hquiet, hmark, hroom', Device.queueNotice]
    rfl

/-- No owed notice moves: none is owed, or the queue is full. -/
def Device.Settled (d : Device) : Prop := d.owes = false ∨ 8 ≤ d.link.notices.length

theorem moved_of_settled (h : d.Settled) : d.moved = d := h.elim moved_of_quiet moved_of_full

theorem moveOwedN_of_settled (h : d.Settled) (n : Nat) : moveOwedN n d = d := by
  cases n with
  | zero => rfl
  | succ n =>
    rw [moveOwedN, if_neg]
    rcases h with h | h
    · simp [h]
    · simp [Config.noticeQueueSize, Nat.not_lt.mpr h]

theorem not_settled (h : ¬d.Settled) : d.link.notices.length < 8 ∧ d.owes = true := by
  simpa [Device.Settled, and_comm] using h

theorem moveOwedN_succ (h : ¬d.Settled) (n : Nat) : moveOwedN (n + 1) d = moveOwedN n d.moveOne := by
  obtain ⟨hroom, howes⟩ := not_settled h
  rw [moveOwedN, if_pos (by simp [howes, Config.noticeQueueSize, hroom])]

/-- R159: the moves end with nothing owed or the queue full, and lead to `Device.moved`. -/
theorem moveOwedN_eq (n : Nat) (h : 8 - d.link.notices.length ≤ n) : moveOwedN n d = d.moved ∧ d.moved.Settled := by
  induction n generalizing d with
  | zero =>
    have hfull : d.Settled := .inr (by omega)
    rw [moved_of_settled hfull]
    exact ⟨rfl, hfull⟩
  | succ n ih =>
    by_cases hs : d.Settled
    · rw [moved_of_settled hs]
      exact ⟨moveOwedN_of_settled hs _, hs⟩
    · obtain ⟨hroom, howes⟩ := not_settled hs
      have hlen := moveOne_notices howes
      rw [moveOwedN_succ hs, ← moveOne_moved hroom howes]
      exact ih (by omega)

theorem moveOwed_eq_moved (hrun : d.power.state = .run) : d.moveOwed = d.moved := by
  rw [Device.moveOwed, if_pos (by simp [Device.running, hrun])]
  exact (moveOwedN_eq _ (Nat.sub_le ..)).1

theorem moved_settled (d : Device) : d.moved.Settled := (moveOwedN_eq 8 (Nat.sub_le ..)).2

/-- R159: when one move fills the queue, or leaves nothing owed, it is the only one. -/
theorem moveOwed_once (hrun : d.power.state = .run) (hroom : d.link.notices.length < 8) (howes : d.owes = true)
    (h : d.moveOne.Settled) : d.moveOwed = d.moveOne := by
  rw [moveOwed_eq_moved hrun, ← moveOne_moved hroom howes, moved_of_settled h]

/-- Settles O41. -/
theorem owedNoticesMoveIntoTheQueue : Obligations.OwedNoticesMoveIntoTheQueue := by
  refine ⟨fun s hstill => exec_of_still (by simpa [Device.running] using hstill) rfl, fun s hrun => ?_⟩
  have hexec : exec .owedNoticeMove s = .next (s.after s.moveOwed) := rfl
  rw [hexec]
  refine ⟨by rw [moveOwed_eq_moved hrun], moved_settled _, fun i r n rest hlen hr hn hc hbefore => ?_, fun o hlen hquiet hmark ho => ?_⟩
  · have hfirst : FirstOwing s.engine.table i r n rest :=
      ⟨(recordAt_eq _ i r).mp hr, hn, fun j q hj hq => hbefore j q hj ((recordAt_eq _ j q).mpr hq)⟩
    have howes : s.owes = true := by simp [Device.owes, owingSlot_of_first hfirst]
    have hnotices := moveOne_notices howes
    rw [moveOwed_once hrun (by omega) howes (.inr (by omega)), moveOne_of_first hfirst, Record.afterNotice]
    simp only [hc, Bool.and_false, Bool.false_eq_true, if_false]
    rfl
  · have hnone : s.owingSlot = none := by
      rw [Device.owingSlot, List.findIdx?_eq_none_iff]
      intro x hx
      obtain ⟨i, hi⟩ := List.mem_iff_getElem?.mp hx
      cases x with
      | none => rfl
      | some r => simp [hquiet i r ((recordAt_eq _ i r).mpr hi)]
    have howes : s.owes = true := by simp [Device.owes, hmark]
    have hmove := moveOne_of_run hnone hmark
    have hdone : s.moveOne.Settled := by
      refine .inl (owes_eq_false.mpr ⟨fun i r hr => hquiet i r ?_, ?_⟩) <;> rw [hmove] at *
      · exact hr
      · exact fun h => nomatch h
    rw [moveOwed_once hrun hlen howes hdone, hmove]
    simp only [Device.runEndedOwed, ho, Option.getD_some]
    rfl

/-! ## COLLECT (R160) -/

/-- What the owed moves do depends on the drive link by its notice queue alone. -/
theorem moved_withLink (l : DriveLink) (h : l.notices = d.link.notices) :
    (d.withLink l).moved = d.moved.withLink { l with notices := d.moved.link.notices } := by
  have howed : (d.withLink l).owedNotices = d.owedNotices := rfl
  unfold Device.moved
  rw [howed, withLink_link, h]
  rfl

theorem noticeCollected_of_other {n : Notice} (h1 : n.kind ≠ .ended) (h2 : n.kind ≠ .runEnded) : d.noticeCollected n = d := by
  unfold Device.noticeCollected
  split
  · exact absurd ‹_› h1
  · exact absurd ‹_› h2
  · rfl

/-- R92, R160: the slot of a record whose end notice is collected. -/
theorem noticeCollected_of_ended {n : Notice} {t : Tag} (hk : n.kind = .ended) (hi : n.slot = some i) (ht : n.tag = some t)
    (hr : d.recordAt i = some r) (htag : r.tag = t) (hend : r.isEnded = true) :
    d.noticeCollected n = d.setSlot i (if r.notices = [] then none else some { r with endCollected := true }) := by
  simp only [Device.noticeCollected, hk, hi, ht, Device.endedCollected, hr, htag, hend, and_self, if_true, List.isEmpty_iff]
  split <;> rfl

theorem noticeCollected_of_runEnded {n : Notice} (hk : n.kind = .runEnded) :
    d.noticeCollected n = d.withRun d.engine.run.collected := by
  simp [Device.noticeCollected, hk]

/-- R160: with a notice in the queue, COLLECT returns it, takes its effects, and lets what is owed into the place come free. -/
theorem exec_collect_of_notice (hs : s.ready) {n : Notice} {rest : List Notice} (hn : s.link.notices = n :: rest) {e : Device}
    (hl : e.link = { s.link with notices := rest })
    (hp : e.power = s.power) (he : ∀ l, Device.noticeCollected (s.withLink l) n = e.withLink l) :
    exec .collect s = .next (s.answered e.moved ⟨n.outcome, n.bytes⟩) := by
  refine request_told hs .collect fun g st => ?_
  have hrun : e.power.state = .run := (congrArg Power.state hp).trans hs.1
  have htake : Device.takeNotice (s.withLink (s.link.asking g st)) =
      (e.withLink { s.link.asking g st with notices := rest }, ⟨n.outcome, n.bytes⟩) := by
    simp only [Device.takeNotice, withLink_link, DriveLink.asking, hn]
    rw [← he]
    rfl
  show Device.reqCollect _ = _
  unfold Device.reqCollect
  rw [htake]
  simp only [withLink_link, DriveLink.asking, hn, List.isEmpty_cons, Bool.false_eq_true, if_false]
  have hmoved (l : DriveLink) : (e.withLink l).moveOwed = (e.withLink l).moved := moveOwed_eq_moved hrun
  rw [hmoved, moved_withLink _ (by rw [hl])]
  have hlink : e.moved.link = { e.link with notices := e.moved.link.notices } := rfl
  rw [hlink, hl]

/-- Settles O32. -/
theorem collectReturnsTheOldestNotice : Obligations.CollectReturnsTheOldestNotice := by
  refine fun s hs => ⟨fun hnone => ?_, fun n rest hn => ?_⟩
  · refine request_told hs .collect fun g st => ?_
    show Device.reqCollect _ = _
    simp only [Device.reqCollect, Device.takeNotice, withLink_link, DriveLink.asking, hnone, List.isEmpty_nil, if_true]
    rfl
  · intro taken reply leaves
    refine ⟨fun h1 h2 => ?_, fun i t r hk hi ht hr htag hend => ?_, fun hk => ?_⟩
    · exact exec_collect_of_notice hs hn (e := taken) rfl rfl fun l => noticeCollected_of_other h1 h2
    · exact exec_collect_of_notice hs hn rfl rfl fun l => noticeCollected_of_ended (d := s.withLink l) hk hi ht hr htag hend
    · exact exec_collect_of_notice hs hn rfl rfl fun l => noticeCollected_of_runEnded (d := s.withLink l) hk

end Sys2Proof.Machine
end

section
/-! PROOF. The end of a giver record (R111): what its run and its stake make of it (R62, R66, R131, R132), and what the rest of the part
keeps. The steps of an ending are staking moves, changes of the run list and owed notices that move, and each keeps the same things. -/

namespace Sys2Proof.Machine

variable {d e : Device} {i : Nat} {r : Record} {o : OutcomePair} {v : Nat}

/-! ## What the steps of an ending keep -/

/-- A slot holds a record, whatever its pending-notice set. -/
def Device.HasRecord (d : Device) (i : Nat) (r : Record) : Prop := ∃ q, d.recordAt i = some q ∧ q = { r with notices := q.notices }

theorem hasRecord_self (h : d.recordAt i = some r) : d.HasRecord i r := ⟨r, h, rfl⟩

/-- What every step of an ending keeps: the accounts, the station's own state, the records that neither wait nor are offered, up to the
notices they owe, and the own frames that are queued. -/
structure Device.Goes (d e : Device) : Prop where
  accounts : e.accounts = d.accounts
  peers : e.peers = d.peers
  power : e.power = d.power
  record : ∀ i r, ¬r.Opening → (r.isEnded && r.endCollected) = false → d.HasRecord i r → e.HasRecord i r
  queued : ∀ x ∈ d.line.queue, x.sender ≠ .relay → x ∈ e.line.queue

theorem Device.Goes.refl (d : Device) : d.Goes d := ⟨rfl, rfl, rfl, fun _ _ _ _ h => h, fun _ h _ => h⟩

theorem Device.Goes.trans {a b c : Device} (h : a.Goes b) (k : b.Goes c) : a.Goes c :=
  ⟨k.accounts.trans h.accounts, k.peers.trans h.peers, k.power.trans h.power,
    fun i r hn hc hr => k.record i r hn hc (h.record i r hn hc hr), fun x hx hs => k.queued x (h.queued x hx hs) hs⟩

theorem Device.Goes.withRun (d : Device) (x : RunList) : d.Goes (d.withRun x) := ⟨rfl, rfl, rfl, fun _ _ _ _ h => h, fun _ h _ => h⟩

theorem Stakes.goes (h : Stakes d e) : d.Goes e := by
  have heq := h.eq
  refine ⟨by rw [heq], by rw [heq], by rw [heq], fun i r hn hc hr => ?_, fun x hx hs => h.mem_queue hx hs⟩
  obtain ⟨q, hq, hqr⟩ := hr
  refine ⟨q, h.record_of_not_opening hq ?_, hqr⟩
  rw [hqr]
  exact hn

/-- What an owed move leaves of a record: its pending-notice set changes, or it goes with its last notice. -/
theorem moveOne_record (d : Device) (j : Nat) :
    d.moveOne.recordAt j = d.recordAt j ∨
      ∃ q rest, d.recordAt j = some q ∧
        (d.moveOne.recordAt j = some { q with notices := rest } ∨
          (d.moveOne.recordAt j = none ∧ (q.isEnded && q.endCollected) = true)) := by
  rcases moveOne_cases d with ⟨k, q, p, rest, hq, hn, hm⟩ | ⟨-, hm⟩ | hm
  · rw [hm]
    by_cases hj : k = j
    · subst hj
      refine .inr ⟨q, rest, hq, ?_⟩
      have hself := recordAt_setSlot_self (d.queueNotice (recordNotice k q.tag p))
        (if rest.isEmpty && q.isEnded && q.endCollected then none else some { q with notices := rest }) (recordAt_lt d hq)
      rw [hself]
      split
      · next hend => exact .inr ⟨rfl, by simp_all⟩
      · exact .inl rfl
    · exact .inl (recordAt_setSlot_of_ne (d.queueNotice _) _ hj)
  · rw [hm]
    exact .inl rfl
  · rw [hm]
    exact .inl rfl

theorem moveOne_hasRecord (hc : (r.isEnded && r.endCollected) = false) (h : d.HasRecord i r) : d.moveOne.HasRecord i r := by
  obtain ⟨q, hq, hqr⟩ := h
  rcases moveOne_record d i with hsame | ⟨q', rest, hq', hmove | ⟨-, hend⟩⟩
  · exact ⟨q, hsame.trans hq, hqr⟩
  · obtain rfl := Option.some.inj (hq.symm.trans hq')
    exact ⟨_, hmove, by rw [hqr]⟩
  · obtain rfl := Option.some.inj (hq.symm.trans hq')
    have hkept : (q.isEnded && q.endCollected) = (r.isEnded && r.endCollected) := by rw [hqr]; rfl
    rw [hkept, hc] at hend
    cases hend

theorem moveOwed_hasRecord (hc : (r.isEnded && r.endCollected) = false) (h : d.HasRecord i r) : d.moveOwed.HasRecord i r :=
  moveOwed_keeps (Q := fun e => e.HasRecord i r) (fun _ => moveOne_hasRecord hc) h

theorem moveOwed_sameBeside (d : Device) : d.SameBeside d.moveOwed := moveOwed_keeps (fun _ => moveOne_sameBeside) rfl

@[simp] theorem moveOwed_line : d.moveOwed.line = d.line := by rw [moveOwed_sameBeside d]
@[simp] theorem moveOwed_accounts : d.moveOwed.accounts = d.accounts := by rw [moveOwed_sameBeside d]
@[simp] theorem moveOwed_claims : d.moveOwed.claims = d.claims := by rw [moveOwed_sameBeside d]
@[simp] theorem moveOwed_peers : d.moveOwed.peers = d.peers := by rw [moveOwed_sameBeside d]
@[simp] theorem moveOwed_power : d.moveOwed.power = d.power := by rw [moveOwed_sameBeside d]

theorem moveOwed_goes (d : Device) : d.Goes d.moveOwed :=
  ⟨moveOwed_accounts, moveOwed_peers, moveOwed_power, fun _ _ _ hc h => moveOwed_hasRecord hc h, fun x hx _ => by simpa using hx⟩

/-- Owed moves change the run list by its mark alone. -/
theorem moveOwed_run (d : Device) : d.moveOwed.engine.run = { d.engine.run with mark := d.moveOwed.engine.run.mark } := by
  refine moveOwed_keeps (Q := fun e => e.engine.run = { d.engine.run with mark := e.engine.run.mark }) (fun e he => ?_) rfl
  rcases moveOne_cases e with ⟨_, _, _, _, -, -, hm⟩ | ⟨-, hm⟩ | hm <;> rw [hm]
  · exact he
  · show { e.engine.run with mark := .queued } = _
    rw [he]
    rfl
  · exact he

/-! ## Who waits -/

theorem waitsOn_iff {c : Cell} {p : RequestStatus → Bool} {j : Nat} :
    d.waitsOn c p j = true ↔
      ∃ q x, d.recordAt j = some q ∧ q.state = .giver .staking ∧ q.cell = c ∧ q.request = some x ∧ p x = true := by
  unfold Device.waitsOn
  rw [recordIs_iff]
  refine ⟨fun ⟨q, hq, hp⟩ => ?_, fun ⟨q, x, hq, hst, hc, hx, hp⟩ => ⟨q, hq, by simp [hst, hc, hx, hp]⟩⟩
  simp only [Bool.and_eq_true, beq_iff_eq] at hp
  obtain ⟨⟨hst, hc⟩, hp⟩ := hp
  cases hx : q.request with
  | none => simp [hx] at hp
  | some x => exact ⟨q, x, hq, hst, hc, hx, by simpa [hx] using hp⟩

theorem waitsOn_ownUse_iff {c : Cell} {j : Nat} : d.waitsOn c isOwnUse j = true ↔ ∃ q, d.recordAt j = some q ∧ q.WaitsFor c := by
  rw [waitsOn_iff]
  constructor
  · rintro ⟨q, x, hq, hst, hc, hx, hp⟩
    obtain rfl : x = .ownUse := by simpa [isOwnUse] using hp
    exact ⟨q, hq, hst, hc, hx⟩
  · rintro ⟨q, hq, hst, hc, hx⟩
    exact ⟨q, .ownUse, hq, hst, hc, hx, rfl⟩

/-- Who waits for a cell does not turn on the notices that are owed. -/
theorem moveOwed_waitsOn (d : Device) (c : Cell) (p : RequestStatus → Bool) (j : Nat) :
    d.moveOwed.waitsOn c p j = d.waitsOn c p j := by
  refine moveOwed_keeps (Q := fun e => e.waitsOn c p j = d.waitsOn c p j) (fun e he => ?_) rfl
  rw [← he]
  unfold Device.waitsOn Device.recordIs
  rcases moveOne_record e j with hsame | ⟨q, rest, hq, hmove | ⟨hgone, hend⟩⟩
  · rw [hsame]
  · rw [hq, hmove]
  · have hst : (q.state == .giver .staking) = false := by
      rw [Bool.and_eq_true] at hend
      cases hq' : q.state with
      | taker t => rfl
      | giver g => cases g <;> simp_all [Record.isEnded]
    rw [hq, hgone]
    simp [hst]

/-- R57: with nobody waiting on the cells, a retry does nothing. -/
theorem retry_of_nobody {cells : List Cell} {p : RequestStatus → Bool} (h : ∀ c ∈ cells, ∀ i, d.waitsOn c p i = false) :
    d.retry cells p = d := by
  have hnone (i : Nat) : (cells.any fun c => d.waitsOn c p i) = false := by
    rw [List.any_eq_false]
    intro c hc
    simp [h c hc i]
  simp only [Device.retry, forSlots]
  suffices ∀ l : List Nat,
      l.foldl (fun e i => if cells.any fun c => e.waitsOn c p i then e.stakingAttempt i else e) d = d from this _
  intro l
  induction l with
  | nil => rfl
  | cons i l ih =>
    rw [List.foldl_cons, hnone i]
    exact ih

theorem waitingSlot_waits {c : Cell} {j : Nat} (h : d.waitingSlot c = some j) : d.waitsOn c isOwnUse j = true :=
  List.find?_some h

theorem waitingSlot_eq_none {c : Cell} (h : ∀ j, d.waitsOn c isOwnUse j = false) : d.waitingSlot c = none := by
  rw [Device.waitingSlot, List.find?_eq_none]
  exact fun j _ => by simp [h j]

/-! ## The stake of a record that ends (R62, R66) -/

theorem recordStakeEnds_stakes (d : Device) (i : Nat) (g : Bool) : Stakes d (d.recordStakeEnds i g) := by
  unfold Device.recordStakeEnds
  split
  · exact .refl d
  · split
    · exact (Stakes.refl d).releaseStake _
    · split
      · exact .entries _ (.refl d)
      · split
        · next j hj =>
          split
          · refine (Stakes.refl d).passStake fun q hq => .inr (.inl ?_)
            split at hj
            · obtain ⟨q', x, hq', hst, -⟩ := waitsOn_iff.mp (waitingSlot_waits hj)
              obtain rfl := Option.some.inj (hq.symm.trans hq')
              exact hst
            · cases hj
          · exact .refl d
        · exact .entries _ (.refl d)

section StakeEnds

variable {x : Claim}

theorem recordStakeEnds_of_none (h : d.claimOfUse (.slot i) = none) (g : Bool) : d.recordStakeEnds i g = d := by
  simp [Device.recordStakeEnds, h]

theorem recordStakeEnds_of_run (h : d.claimOfUse (.slot i) = some x) (hx : x.phase ≠ .contested) :
    d.recordStakeEnds i true = d.holdForRun x.cell := by
  simp [Device.recordStakeEnds, h, hx]

theorem recordStakeEnds_of_nobody (h : d.claimOfUse (.slot i) = some x) (hx : x.phase ≠ .contested)
    (hw : d.peers.state ≠ .active ∨ ∀ j, d.waitsOn x.cell isOwnUse j = false) :
    d.recordStakeEnds i false = d.lingerStake x.cell := by
  have hnone : (if d.isActive then d.waitingSlot x.cell else none) = none := by
    split
    · next ha =>
      exact waitingSlot_eq_none (hw.resolve_left (not_not_intro (by simpa [Device.isActive] using ha)))
    · rfl
  simp [Device.recordStakeEnds, h, hx, hnone]

theorem recordStakeEnds_of_waiting {j : Nat} {q : Record} (h : d.claimOfUse (.slot i) = some x) (hx : x.phase ≠ .contested)
    (ha : d.peers.state = .active) (hw : d.waitingSlot x.cell = some j) (hq : d.recordAt j = some q) :
    d.recordStakeEnds i false = d.passStake x.cell j q.tag := by
  simp [Device.recordStakeEnds, h, hx, Device.isActive, ha, hw, hq]

theorem recordStakeEnds_of_contested (h : d.claimOfUse (.slot i) = some x) (hx : x.phase = .contested) (g : Bool)
    (hw : ∀ j, d.waitsOn x.cell isOwnUse j = false) : d.recordStakeEnds i g = d.dropStake x := by
  have hretry : (d.dropStake x).retryReleased x.cell = d.dropStake x :=
    retry_of_nobody fun c hc j => by
      rw [List.mem_singleton.mp hc]
      exact hw j
  simp [Device.recordStakeEnds, h, hx, Device.releaseStake, hretry]

theorem lingerStake_entries (c : Cell) : (d.lingerStake c).claims.entries = d.lingering c := rfl

theorem holdForRun_entries (c : Cell) : (d.holdForRun c).claims.entries = d.runHolding c := rfl

theorem dropStake_entries (x : Claim) : (d.dropStake x).claims.entries = d.unstaked x.cell := rfl

theorem dropStake_line (x : Claim) : (d.dropStake x).line = (d.line.offer .claimMap (.unstake { cell := x.cell, tag := x.tag })).1 := rfl

end StakeEnds

/-! ## The run of a record that ends (R131, R132, R136) -/

/-- R131, R132: what the run list makes of the end of a record with this ordinal. -/
def Device.runHears (d : Device) (ordinal : Nat) (o : OutcomePair) : Device × Bool :=
  if ordinal = 0 then (d, false) else d.runRecordEnded ordinal o

/-- A record with this ordinal is that of the run's ACTIVE entry. -/
def RunList.Serves (run : RunList) (ordinal : Nat) : Prop := ordinal ≠ 0 ∧ (run.state = .inEntry ∨ run.state = .ending)

theorem runHears_of_other {n : Nat} (h : ¬d.engine.run.Serves n) : d.runHears n o = (d, false) := by
  unfold Device.runHears Device.runRecordEnded
  split
  · rfl
  · next hn =>
    dsimp only
    rw [if_neg fun hs => h ⟨hn, hs⟩]

theorem runHears_of_failed {n : Nat} (h : d.engine.run.Serves n) (ho : o.cls ≠ .done) :
    d.runHears n o = ((d.withRun (d.engine.run.setEntry n .failed)).endRun o, false) := by
  simp [Device.runHears, Device.runRecordEnded, h.1, h.2, ho]

theorem runHears_of_done {n : Nat} (h : d.engine.run.Serves n) (ho : o.cls = .done) :
    d.runHears n o =
      if d.engine.run.state = .ending then
        ((d.withRun { d.engine.run.setEntry n .done with next := n + 1 }).endRun ⟨.done, .terminated⟩, false)
      else (d.withRun { d.engine.run.setEntry n .done with next := n + 1 }).advanceRun true := by
  simp [Device.runHears, Device.runRecordEnded, h.1, h.2, ho]

theorem endRun_goes (d : Device) (o : OutcomePair) : d.Goes (d.endRun o) :=
  ((Device.Goes.withRun d _).trans (Stakes.refl _).runHoldEnds.goes).trans (moveOwed_goes _)

theorem advanceRun_goes (d : Device) (b : Bool) : d.Goes (d.advanceRun b).1 := by
  unfold Device.advanceRun
  dsimp only
  split
  · exact (Device.Goes.withRun d _).trans (endRun_goes _ _)
  · exact .withRun d _

theorem runHears_goes (d : Device) (n : Nat) (o : OutcomePair) : d.Goes (d.runHears n o).1 := by
  by_cases hs : d.engine.run.Serves n
  · by_cases ho : o.cls = .done
    · rw [runHears_of_done hs ho]
      split
      · exact (Device.Goes.withRun d _).trans (endRun_goes _ _)
      · exact (Device.Goes.withRun d _).trans (advanceRun_goes _ _)
    · rw [runHears_of_failed hs ho]
      exact (Device.Goes.withRun d _).trans (endRun_goes _ _)
  · rw [runHears_of_other hs]
    exact .refl d

/-! ### RUN_ENDED (R136, R137) -/

theorem runEnded_of_eq {run : RunList} (h : d.RunEnded run o) (hr : e.engine.run = d.engine.run) (hn : e.link.notices = d.link.notices) :
    e.RunEnded run o := by
  unfold Device.RunEnded at *
  rw [hr, hn]
  exact h

theorem runEnded_moveOwed {run : RunList} (hrun : d.power.state = .run) (h : d.RunEnded run o) : d.moveOwed.RunEnded run o := by
  obtain ⟨heq, ⟨hmark, hnotice⟩ | ⟨hmark, hfull⟩⟩ := h
  · rw [moveOwed_eq_moved hrun]
    have hself : { d.engine.run with mark := .queued } = d.engine.run := by rw [← hmark]
    have hsame : d.moved.engine.run = d.engine.run := by simpa [Device.moved, hmark] using hself
    refine ⟨by rw [hsame]; exact heq, .inl ⟨by rw [hsame]; exact hmark, ?_⟩⟩
    rw [hsame]
    exact List.mem_append_left _ hnotice
  · rw [moveOwed_eq_moved hrun, moved_of_full hfull]
    exact ⟨heq, .inr ⟨hmark, hfull⟩⟩

/-- R136, R159: a run that ends leaves its RUN_ENDED queued, or owed with the queue full. -/
theorem endRun_runEnded (hrun : d.power.state = .run) (o : OutcomePair) : (d.endRun o).RunEnded d.engine.run o := by
  have hstakes := (Stakes.refl (d.withRun (d.engine.run.finish o))).runHoldEnds
  generalize hf : (d.withRun (d.engine.run.finish o)).runHoldEnds = f at hstakes
  have hrunf : f.engine.run = d.engine.run.finish o := by rw [hstakes.eq]; rfl
  have hpower : f.power.state = .run := by rw [hstakes.eq]; exact hrun
  have hend : d.endRun o = f.moved := by rw [Device.endRun, hf, moveOwed_eq_moved hpower]
  have howed : f.owedNotices = owedFrom 0 f.engine.table ++ [f.runEndedOwed] := by
    simp [Device.owedNotices, hrunf, RunList.finish]
  rw [hend]
  by_cases hfit : f.owedNotices.length ≤ 8 - f.link.notices.length
  · have hmark : f.moved.engine.run = { d.engine.run.finish o with mark := .queued } := by
      simp [Device.moved, hfit, hrunf, RunList.finish]
    refine ⟨by rw [hmark]; rfl, .inl ⟨by rw [hmark], ?_⟩⟩
    have hnotice : f.runEndedOwed ∈ f.moved.link.notices := by
      show _ ∈ _ ++ List.take _ _
      rw [List.take_of_length_le hfit, howed]
      simp
    have hvalue : f.runEndedOwed = (
        { kind := .runEnded, outcome := o, slot := none, tag := none, values := f.moved.engine.run.endValues, station := 0 } : Notice) := by
      rw [hmark, Device.runEndedOwed, hrunf]
      rfl
    exact hvalue ▸ hnotice
  · have hmark : f.moved.engine.run = d.engine.run.finish o := by
      simp [Device.moved, hfit, hrunf, RunList.finish]
    refine ⟨by rw [hmark]; rfl, .inr ⟨by rw [hmark]; rfl, ?_⟩⟩
    show 8 ≤ (_ ++ List.take _ _).length
    simp only [List.length_append, List.length_take]
    omega

end Sys2Proof.Machine
end

section
/-! PROOF. The end of a record as a whole (R111, R126): the record ENDED and told, its run and its stake, and everything else as it was; then
REPORT SETDOWN, REPORT LIFT, RECOVER and CANCEL (R100, R103, R107, R120, R122). -/

namespace Sys2Proof.Machine

variable {s : State} {d e : Device} {i : Nat} {r : Record} {o : OutcomePair} {v : Nat}

/-! ## Raising the notice -/

theorem modRecord_eq (d : Device) (i : Nat) (f : Record → Record) :
    d.modRecord i f = { d with engine := { d.engine with table := (d.modRecord i f).engine.table } } := by
  unfold Device.modRecord
  split <;> rfl

theorem modRecord_run (d : Device) (i : Nat) (f : Record → Record) : (d.modRecord i f).engine.run = d.engine.run := by rw [modRecord_eq]
theorem modRecord_link (d : Device) (i : Nat) (f : Record → Record) : (d.modRecord i f).link = d.link := by rw [modRecord_eq]
theorem modRecord_power (d : Device) (i : Nat) (f : Record → Record) : (d.modRecord i f).power = d.power := by rw [modRecord_eq]

/-- A raised notice changes the run list by its mark alone. -/
theorem raise_run (d : Device) (i : Nat) (k : NoticeKind) (o : OutcomePair) (v : List Byte) :
    (d.raise i k o v).engine.run = { d.engine.run with mark := (d.raise i k o v).engine.run.mark } := by
  unfold Device.raise
  rw [moveOwed_run, modRecord_run]

/-- A run that has ended stays so while notices are raised. -/
theorem runEnded_raise {run : RunList} {o' : OutcomePair} (hrun : d.power.state = .run) (h : d.RunEnded run o') (k : NoticeKind)
    (o : OutcomePair) (v : List Byte) : (d.raise i k o v).RunEnded run o' := by
  refine runEnded_moveOwed ?_ (runEnded_of_eq h (modRecord_run ..) (congrArg _ (modRecord_link ..)))
  rw [modRecord_power]
  exact hrun

/-! ## A giver record (R111) -/

/-- The record of a giver that has ended with an outcome and an end value. -/
def Record.giverEnded (r : Record) (o : OutcomePair) (value : Nat) : Record :=
  { r with
    state := .giver .ended, outcome := some o, endValue := value, endCollected := false, request := none, frozenKey := none,
    setdownOwed := false, bindFrame := none, setdownFrame := none }

/-- R111: the record ENDED, its run told and its stake released, before ENDED is raised in it. -/
def Device.giverGone (d : Device) (i : Nat) (r : Record) (o : OutcomePair) (v : Nat) : Device :=
  let m := (d.left i (r.giverEnded o v)).runHears r.ordinal o
  m.1.recordStakeEnds i m.2

theorem giverGone_goes (d : Device) (i : Nat) (r : Record) (o : OutcomePair) (v : Nat) :
    (d.left i (r.giverEnded o v)).Goes (d.giverGone i r o v) :=
  (runHears_goes _ _ _).trans (recordStakeEnds_stakes _ _ _).goes

theorem giverEnded_not_opening : ¬(r.giverEnded o v).Opening := by simp [Record.Opening, Record.giverEnded]

theorem giverGone_record (hr : d.recordAt i = some r) : (d.giverGone i r o v).HasRecord i (r.giverEnded o v) :=
  (giverGone_goes d i r o v).record i _ giverEnded_not_opening (Bool.and_false _) (hasRecord_self (left_recordAt hr _))

theorem endGiver_eq (hr : d.recordAt i = some r) :
    d.endGiver i o v = (d.giverGone i r o v).raise i .ended o (bytesOfNat16 v) := by
  have hgone : d.endGiver i o v = (d.giverGone i r o v).raiseEnded i := by
    have hleft : (d.setSlot i (some (r.giverEnded o v))).leaveTurn r.tag = d.left i (r.giverEnded o v) := setSlot_left d i _
    simp only [Device.endGiver, hr, Device.giverGone, Device.runHears]
    rw [← hleft]
    rfl
  obtain ⟨q, hq, hqr⟩ := giverGone_record (o := o) (v := v) hr
  rw [hgone, raiseEnded_of_record hq, hqr]
  rfl

/-- What the end of a record leaves: the record ENDED, its notice told, and the accounts, the station's state and the queued frames kept. -/
structure Device.Ended (d e : Device) (i : Nat) (ended : Record) (n : Notice) : Prop where
  record : e.HasRecord i ended
  tells : e.tells i n
  accounts : e.accounts = d.accounts
  peers : e.peers = d.peers
  queued : ∀ x ∈ d.line.queue, x.sender ≠ .relay → x ∈ e.line.queue

theorem raise_hasRecord {k : NoticeKind} {w : List Byte} (hc : (r.isEnded && r.endCollected) = false) (h : d.HasRecord i r) :
    (d.raise i k o w).HasRecord i r ∧ (d.raise i k o w).tells i (r.notice i k o w) := by
  obtain ⟨q, hq, hqr⟩ := h
  have hcq : (q.isEnded && q.endCollected) = false := by rw [hqr]; exact hc
  have told := raise_toldOf k o w hq hcq
  have htells := told.tells
  obtain ⟨q', hq', hqq, -⟩ := told
  refine ⟨⟨q', hq', by rw [hqq, hqr]⟩, ?_⟩
  rw [hqr] at htells
  exact htells

theorem endGiver_ended (hr : d.recordAt i = some r) :
    d.Ended (d.endGiver i o v) i (r.giverEnded o v) (r.notice i .ended o (bytesOfNat16 v)) := by
  have hgoes := giverGone_goes d i r o v
  obtain ⟨hrec, htells⟩ := raise_hasRecord (o := o) (k := .ended) (w := bytesOfNat16 v) (Bool.and_false _)
    (giverGone_record (o := o) (v := v) hr)
  rw [endGiver_eq hr]
  refine ⟨hrec, htells, ?_, ?_, fun x hx hs => ?_⟩
  · rw [raise_accounts, hgoes.accounts]
    rfl
  · rw [raise_peers, hgoes.peers]
    rfl
  · rw [raise_line]
    exact hgoes.queued x hx hs

/-! ### Its run -/

theorem recordStakeEnds_run (d : Device) (i : Nat) (g : Bool) :
    (d.recordStakeEnds i g).engine.run = d.engine.run ∧ (d.recordStakeEnds i g).link = d.link ∧
      (d.recordStakeEnds i g).power = d.power := by
  have h := (recordStakeEnds_stakes d i g).eq
  exact ⟨by rw [h], by rw [h], by rw [h]⟩

/-- R131: the end of a record that is not the run's ACTIVE entry leaves the run alone. -/
theorem endGiver_run_of_other (hr : d.recordAt i = some r) (h : ¬d.engine.run.Serves r.ordinal) :
    (d.endGiver i o v).engine.run = { d.engine.run with mark := (d.endGiver i o v).engine.run.mark } := by
  have hgone : (d.giverGone i r o v).engine.run = d.engine.run := by
    unfold Device.giverGone
    rw [(recordStakeEnds_run _ _ _).1, runHears_of_other (d := d.left i _) h]
    rfl
  rw [endGiver_eq hr, raise_run, hgone]

/-- A run that the end of a record ends. -/
theorem endGiver_runEnded {run : RunList} {o' : OutcomePair} (hrun : d.power.state = .run) (hr : d.recordAt i = some r)
    (h : ((d.left i (r.giverEnded o v)).runHears r.ordinal o).1.RunEnded run o') : (d.endGiver i o v).RunEnded run o' := by
  rw [endGiver_eq hr]
  have hpower := (giverGone_goes d i r o v).power
  refine runEnded_raise (by rw [hpower]; exact hrun) (runEnded_of_eq h ?_ ?_) ..
  · exact (recordStakeEnds_run _ _ _).1
  · rw [Device.giverGone, (recordStakeEnds_run _ _ _).2.1]

/-- R132: the record of the ACTIVE entry that ends other than DONE takes the run with it. -/
theorem endGiver_run_of_failed (hrun : d.power.state = .run) (hr : d.recordAt i = some r) (h : d.engine.run.Serves r.ordinal)
    (ho : o.cls ≠ .done) :
    (d.endGiver i o v).RunEnded { d.engine.run with entries := d.engine.run.entriesWith r.ordinal .failed } o := by
  refine endGiver_runEnded hrun hr ?_
  rw [runHears_of_failed (d := d.left i _) h ho]
  exact endRun_runEnded (d := (d.left i _).withRun _) hrun o

/-! ### Its stake -/

/-- The claims, the Line Port and who waits for a cell are as they were. -/
structure Device.SameStakes (d e : Device) : Prop where
  claims : e.claims = d.claims
  line : e.line = d.line
  peers : e.peers = d.peers
  waits : ∀ c p j, e.waitsOn c p j = d.waitsOn c p j
  record : ∀ j q, (q.isEnded && q.endCollected) = false → d.HasRecord j q → e.HasRecord j q

theorem Device.SameStakes.refl (d : Device) : d.SameStakes d := ⟨rfl, rfl, rfl, fun _ _ _ => rfl, fun _ _ _ h => h⟩

theorem Device.SameStakes.trans {a b c : Device} (h : a.SameStakes b) (k : b.SameStakes c) : a.SameStakes c :=
  ⟨k.claims.trans h.claims, k.line.trans h.line, k.peers.trans h.peers, fun c p j => (k.waits c p j).trans (h.waits c p j),
    fun j q hc hq => k.record j q hc (h.record j q hc hq)⟩

theorem withRun_sameStakes (d : Device) (x : RunList) : d.SameStakes (d.withRun x) :=
  ⟨rfl, rfl, rfl, fun _ _ _ => rfl, fun _ _ _ h => h⟩

theorem moveOwed_sameStakes (d : Device) : d.SameStakes d.moveOwed :=
  ⟨moveOwed_claims, moveOwed_line, moveOwed_peers, moveOwed_waitsOn d, fun _ _ hc h => moveOwed_hasRecord hc h⟩

theorem claimOfUse_congr {d e : Device} (h : e.claims = d.claims) (u : StakeUse) : e.claimOfUse u = d.claimOfUse u := by
  unfold Device.claimOfUse
  rw [h]

/-- R68: a run that holds no cell ends without touching a stake. -/
theorem endRun_sameStakes (h : d.claimOfUse .runHold = none) (o : OutcomePair) : d.SameStakes (d.endRun o) := by
  have hnone : (d.withRun (d.engine.run.finish o)).claimOfUse .runHold = none := h
  have hhold : (d.withRun (d.engine.run.finish o)).runHoldEnds = d.withRun (d.engine.run.finish o) := by
    simp [Device.runHoldEnds, hnone]
  rw [Device.endRun, hhold]
  exact (withRun_sameStakes d _).trans (moveOwed_sameStakes _)

theorem withRun_endRun_sameStakes (x : RunList) (h : d.claimOfUse .runHold = none) (o : OutcomePair) :
    d.SameStakes ((d.withRun x).endRun o) := (withRun_sameStakes d x).trans (endRun_sameStakes (d := d.withRun x) h o)

theorem advanceRun_of_ends (b : Bool) (h : d.engine.run.advanced.verdict = .ends o) :
    d.advanceRun b = ((d.withRun d.engine.run.advanced).endRun o, false) := by
  simp [Device.advanceRun, h]

theorem advanceRun_of_goesOn (b : Bool) (h : d.engine.run.advanced.verdict = .goesOn) :
    d.advanceRun b = (d.withRun { d.engine.run.advanced with
      state := .awaitingNext, timer := if b then some 0 else d.engine.run.advanced.timer }, true) := by
  simp [Device.advanceRun, h]

theorem advanceRun_sameStakes {b : Bool} (h : d.claimOfUse .runHold = none ∨ (d.advanceRun b).2 = true) :
    d.SameStakes (d.advanceRun b).1 := by
  cases hv : d.engine.run.advanced.verdict with
  | ends o =>
    rw [advanceRun_of_ends b hv] at h ⊢
    exact withRun_endRun_sameStakes _ (h.resolve_right (by simp)) o
  | goesOn =>
    rw [advanceRun_of_goesOn b hv]
    exact withRun_sameStakes d _

/-- R131: the run touches no stake when it goes on, or holds none. -/
theorem runHears_sameStakes {n : Nat}
    (h : ¬d.engine.run.Serves n ∨ d.claimOfUse .runHold = none ∨ (d.runHears n o).2 = true) : d.SameStakes (d.runHears n o).1 := by
  by_cases hs : d.engine.run.Serves n
  · have h := h.resolve_left (not_not_intro hs)
    by_cases ho : o.cls = .done
    · rw [runHears_of_done hs ho] at h ⊢
      by_cases hend : d.engine.run.state = .ending
      · rw [if_pos hend] at h ⊢
        exact withRun_endRun_sameStakes _ (h.resolve_right (by simp)) _
      · rw [if_neg hend] at h ⊢
        exact (withRun_sameStakes d _).trans (advanceRun_sameStakes (d := d.withRun { d.engine.run.setEntry n .done with next := n + 1 }) h)
    · rw [runHears_of_failed hs ho] at h ⊢
      exact withRun_endRun_sameStakes _ (h.resolve_right (by simp)) _
  · rw [runHears_of_other hs]
    exact .refl d

/-- With no other record waiting for a cell, nobody waits once this record has ended. -/
theorem left_waitsOn {ended : Record} {c : Cell} {p : RequestStatus → Bool} (hr : d.recordAt i = some r)
    (hend : ended.state = .giver .ended) (h : ∀ j, j ≠ i → d.waitsOn c p j = false) (j : Nat) :
    (d.left i ended).waitsOn c p j = false := by
  by_cases hj : j = i
  · subst hj
    simp [Device.waitsOn, recordIs_of_record (left_recordAt hr ended), hend]
  · rw [← h j hj]
    have hsame : (d.left i ended).recordAt j = d.recordAt j := recordAt_setSlot_of_ne d _ (Ne.symm hj)
    simp [Device.waitsOn, Device.recordIs, hsame]

theorem not_waitsOn {c : Cell} {j : Nat} (h : ∀ q, d.recordAt j = some q → ¬q.WaitsFor c) : d.waitsOn c isOwnUse j = false := by
  rw [← Bool.not_eq_true, waitsOn_ownUse_iff]
  rintro ⟨q, hq, hw⟩
  exact h q hq hw

theorem endGiver_claims_eq (hr : d.recordAt i = some r) :
    (d.endGiver i o v).claims = (d.giverGone i r o v).claims ∧ (d.endGiver i o v).line = (d.giverGone i r o v).line := by
  rw [endGiver_eq hr]
  exact ⟨raise_claims .., raise_line ..⟩

/-- R62, R66: the stake of a record that ends, with nobody waiting for its cell, when the run does not go on. -/
theorem endGiver_stake (hr : d.recordAt i = some r)
    (hrun : ((d.left i (r.giverEnded o v)).runHears r.ordinal o).2 = false)
    (h : ¬d.engine.run.Serves r.ordinal ∨ d.claimOfUse .runHold = none) :
    (d.claimOfUse (.slot i) = none → (d.endGiver i o v).claims = d.claims ∧ (d.endGiver i o v).line = d.line) ∧
    ∀ x, d.claimOfUse (.slot i) = some x →
      (d.peers.state ≠ .active ∧ x.phase ≠ .contested ∨ ∀ j q, j ≠ i → d.recordAt j = some q → ¬q.WaitsFor x.cell) →
      (x.phase ≠ .contested → (d.endGiver i o v).claims.entries = d.lingering x.cell ∧ (d.endGiver i o v).line = d.line) ∧
      (x.phase = .contested → (d.endGiver i o v).claims.entries = d.unstaked x.cell ∧
        (d.endGiver i o v).line = (d.line.offer .claimMap (.unstake { cell := x.cell, tag := x.tag })).1) := by
  obtain ⟨hclaims, hline⟩ := endGiver_claims_eq (o := o) (v := v) hr
  have hsame := runHears_sameStakes (d := d.left i (r.giverEnded o v)) (n := r.ordinal) (o := o) (h.imp_right .inl)
  rw [hclaims, hline]
  unfold Device.giverGone
  dsimp only
  rw [hrun]
  generalize ((d.left i (r.giverEnded o v)).runHears r.ordinal o).1 = f at hsame ⊢
  have hfclaims : f.claims = d.claims := hsame.claims
  have hfline : f.line = d.line := hsame.line
  refine ⟨fun hnone => ?_, fun x hx hw => ⟨fun hphase => ?_, fun hphase => ?_⟩⟩
  · rw [recordStakeEnds_of_none ((claimOfUse_congr hfclaims _).trans hnone)]
    exact ⟨hfclaims, hfline⟩
  all_goals have hfx := (claimOfUse_congr hfclaims (.slot i)).trans hx
  · rw [recordStakeEnds_of_nobody hfx hphase]
    · refine ⟨?_, hfline⟩
      rw [lingerStake_entries, Device.lingering, Device.held, hfclaims]
      rfl
    · rw [hsame.peers]
      refine hw.imp And.left fun hw j => ?_
      rw [hsame.waits]
      exact left_waitsOn hr rfl (fun j hj => not_waitsOn fun q hq => hw j q hj hq) j
  · have hw := hw.resolve_left fun hw => hw.2 hphase
    rw [recordStakeEnds_of_contested hfx hphase, dropStake_line, hfline, dropStake_entries, Device.unstaked, hfclaims]
    · exact ⟨rfl, rfl⟩
    · intro j
      rw [hsame.waits]
      exact left_waitsOn hr rfl (fun j hj => not_waitsOn fun q hq => hw j q hj hq) j

theorem runHears_of_not_done {n : Nat} (ho : o.cls ≠ .done) : (d.runHears n o).2 = false := by
  by_cases hs : d.engine.run.Serves n
  · rw [runHears_of_failed hs ho]
  · rw [runHears_of_other hs]

/-! ## A taker record (R126) -/

/-- R126: the E that the end of a taker record returns: that of its shadow. -/
def Device.shadowE (d : Device) (i : Nat) (r : Record) : Nat := if r.state = .taker .ready then d.slotE i else 0

/-- R126: the shadow is gone, the record is ENDED and leaves its turn, and ENDED is raised in it. -/
theorem endTaker_of_record (hr : d.recordAt i = some r) :
    d.endTaker i o =
      ((d.withoutShadow i r).left i (r.takerEnded o (d.shadowE i r))).raise i .ended o (bytesOfNat16 (d.shadowE i r)) := by
  have hlt : i < (d.withoutShadow i r).engine.table.length := by
    rw [withoutShadow_eq]
    exact recordAt_lt d hr
  have hrec : ((d.withoutShadow i r).left i (r.takerEnded o (d.shadowE i r))).recordAt i = some (r.takerEnded o (d.shadowE i r)) :=
    recordAt_setSlot_self _ _ hlt
  have hleft := setSlot_left (d.withoutShadow i r) i (r.takerEnded o (d.shadowE i r))
  calc d.endTaker i o
      = (((d.withoutShadow i r).setSlot i (some (r.takerEnded o (d.shadowE i r)))).leaveTurn
          (r.takerEnded o (d.shadowE i r)).tag).raiseEnded i := by
        simp only [Device.endTaker, hr]
        rfl
    _ = _ := by
        rw [hleft, raiseEnded_of_record hrec]
        rfl

theorem endTaker_record (hr : d.recordAt i = some r) :
    (d.endTaker i o).HasRecord i (r.takerEnded o (d.shadowE i r)) := by
  rw [endTaker_of_record hr]
  refine (raise_hasRecord (Bool.and_false _) (hasRecord_self ?_)).1
  refine recordAt_setSlot_self _ _ ?_
  rw [withoutShadow_eq]
  exact recordAt_lt d hr

theorem endTaker_run (hr : d.recordAt i = some r) :
    (d.endTaker i o).engine.run = { d.engine.run with mark := (d.endTaker i o).engine.run.mark } := by
  rw [endTaker_of_record hr, raise_run, withoutShadow_eq]
  rfl

end Sys2Proof.Machine
end

section
/-! PROOF. REPORT LIFT, REPORT SETDOWN, RECOVER and CANCEL (R100, R103, R107, R120 to R122). -/

namespace Sys2Proof.Machine

variable {s : State} {d e : Device} {i : Nat} {r : Record} {a : Account} {o : OutcomePair} {v : Nat}

/-! ## REPORT LIFT (R120, R121) -/

theorem moveAccount_of_account {p q : AccountPos} (ha : d.accountAt p = some a) (loc : Location) :
    d.moveAccount p q loc = (d.setAccount p none).setAccount q (some { a with location := loc }) := by
  simp [Device.moveAccount, ha]

theorem slotE_of_account (ha : d.accountAt (.slot i) = some a) : d.slotE i = a.e := by simp [Device.slotE, ha, accountE]

/-- R120: with room the LIFTED joins the queue and the record awaits its end. -/
theorem sendLifted_of_room (h : d.canSend) (hr : d.recordAt i = some r) :
    d.sendLifted i = { d with
      line := d.sent .engine (.lifted { tag := r.tag, taker := d.line.station, bin := r.bin }),
      engine := d.tableWith i { r with lifted := .awaited, liftedFrame := some d.line.seqCounter } } := by
  simp only [Device.sendLifted, hr]
  rw [offer_of_room (d := d.setSlot i _) h .engine rfl]
  exact modRecord_setSlot (d := d.withLine (d.sent .engine (.lifted { tag := r.tag, taker := d.line.station, bin := r.bin }))) hr _ _

/-- R4, R121: in MUTE the LIFTED is owed. -/
theorem sendLifted_of_mute (h : d.line.mode = .mute) (hr : d.recordAt i = some r) :
    d.sendLifted i = d.setSlot i (some { r with lifted := .owed, liftedFrame := none }) := by
  simp only [Device.sendLifted, hr]
  rw [offer_of_mute (d := d.setSlot i _) h]
  exact modRecord_setSlot hr _ _

/-- R120: a taker record that has lifted its bin. -/
def Record.liftedDone (r : Record) (e : Nat) : Record :=
  { r with state := .taker .ended, outcome := some outcomeDone, endValue := e, endCollected := false }

/-- R120: the shadow has moved to H. -/
def Accounts.lifted (x : Accounts) (i : Nat) (a : Account) : Accounts :=
  { hoist := some { a with location := .hoist }, slots := x.slots.set i none }

theorem takerLift_eq (ha : d.accountAt (.slot i) = some a) :
    d.takerLift i r = ((d.withAccounts (d.accounts.lifted i a)).left i (r.liftedDone a.e)).sendLifted i := by
  have hmove : d.moveAccount (.slot i) .hoist .hoist = d.withAccounts (d.accounts.lifted i a) := moveAccount_of_account ha _
  have hleft := setSlot_left (d.withAccounts (d.accounts.lifted i a)) i (r.liftedDone a.e)
  rw [← hleft, ← hmove]
  simp only [Device.takerLift, slotE_of_account ha]
  rfl

/-- Settles O27. -/
theorem reportLiftCompletesTheTaker : Obligations.ReportLiftCompletesTheTaker := by
  intro s g q i r hs hconf hslot hr
  have hrecord (l : DriveLink) (f : Nat → Record → Device × Reply) : (s.withLink l).withRecord ⟨g, q⟩ f = f i r :=
    withRecord_of_record (d := s.withLink l) hconf hslot hr f
  refine ⟨fun hended => ?_, fun a hready hhoist hpos ha => ?_⟩
  · refine request_refused hs (.reportLift ⟨g, q⟩) fun l => (hrecord l _).trans ?_
    rw [hended]
  · intro lifted moved
    have hperform (l : DriveLink) (hl : l.position = s.link.position) : (s.withLink l).perform (.reportLift ⟨g, q⟩) =
        (((((s.withLink l).withAccounts moved).left i (r.liftedDone a.e)).sendLifted i), okay (bytesOfNat16 a.e)) := by
      refine (hrecord l _).trans ?_
      rw [hready]
      simp only [withLink_accounts, hhoist, Option.isSome_none, Bool.false_eq_true, if_false, withLink_link, hl, hpos, not_true,
        takerLift_eq (d := s.withLink l) ha, slotE_of_account (d := s.withLink l) ha, ne_eq]
      rfl
    have hrec (l : DriveLink) : (((s.withLink l).withAccounts moved).left i (r.liftedDone a.e)).recordAt i = some (r.liftedDone a.e) :=
      left_recordAt (d := (s.withLink l).withAccounts moved) hr _
    have hwrite (l : DriveLink) (q : Record) (hq : q.tag = r.tag) :
        (((s.withLink l).withAccounts moved).left i (r.liftedDone a.e)).setSlot i (some q) =
          ((s.withLink l).withAccounts moved).left i q := left_setSlot _ i _ hq
    refine ⟨fun hsend => ?_, fun hmute => ?_⟩
    · refine request_done_at hs (.reportLift ⟨g, q⟩) rfl fun l hl => ?_
      rw [hperform l hl, sendLifted_of_room (d := ((s.withLink l).withAccounts moved).left i _) hsend (hrec l)]
      have hengine := congrArg Device.engine (hwrite l
        { r.liftedDone a.e with lifted := .awaited, liftedFrame := some s.line.seqCounter } rfl)
      exact congrArg (fun x => (({ s.withLink l with accounts := moved, line := _, engine := x } : Device), okay _)) hengine
    · refine request_done_at hs (.reportLift ⟨g, q⟩) rfl fun l hl => ?_
      rw [hperform l hl, sendLifted_of_mute (d := ((s.withLink l).withAccounts moved).left i _) hmute (hrec l)]
      exact congrArg (fun d => (d, okay _)) (hwrite l { r.liftedDone a.e with lifted := .owed, liftedFrame := none } rfl)

/-! ## REPORT SETDOWN (R76, R100) -/

/-- R100, R101: with room the SETDOWN joins the queue, with the E of the slot's account. -/
theorem sendSetdown_of_room (h : d.canSend) (hr : d.recordAt i = some r) (hp : r.state = .giver .placed) :
    d.sendSetdown i = { d with
      line := d.sent .engine (.setdown { tag := r.tag, cell := r.cell, bin := r.bin, e := BitVec.ofNat 16 (d.slotE i) }),
      engine := d.tableWith i { r with setdownOwed := false, setdownFrame := some d.line.seqCounter } } := by
  simp only [Device.sendSetdown, hr]
  rw [offer_of_room h .engine rfl]
  dsimp only
  rw [modRecord_withLine _ hr, if_pos hp]
  rfl

/-- R100: a record whose bin is on the cell. -/
def Record.setDown (r : Record) (g : GiverState) : Record :=
  { r with state := .giver g, placed := true, bindFrame := none, setdownFrame := none }

/-- R76, R100: the hoist account has moved to the record's slot. -/
def Accounts.setDown (x : Accounts) (i : Nat) (a : Account) : Accounts :=
  { hoist := none, slots := x.slots.set i (some { a with location := .cell }) }

/-- R54: the own stake on a cell is PLACED. -/
def ClaimMap.placedOn (m : ClaimMap) (c : Cell) : ClaimMap :=
  { m with entries := m.entries.map fun y => if y.own.isSome && y.cell == c then { y with phase := .placed } else y }

theorem placeStake_of_claim {x : Claim} (h : d.claimOfUse (.slot i) = some x) :
    d.placeStake i = d.withClaims (d.claims.placedOn x.cell) := by
  simp only [Device.placeStake, h]
  rfl

/-- Settles O23. -/
theorem reportSetdownPutsTheBinOnTheCell : Obligations.ReportSetdownPutsTheBinOnTheCell := by
  intro s g q i r a x hs hconf hslot hr hpos ha hbin hlen hx hcell moved place placed
  let down (l : DriveLink) (st : GiverState) : Device :=
    (((s.withLink l).withAccounts moved).setSlot i (some (r.setDown st))).withClaims (s.claims.placedOn r.cell)
  have hdown (l : DriveLink) (st : GiverState) :
      ((((s.withLink l).moveAccount .hoist (.slot i) .cell).setSlot i (some (r.setDown st))).placeStake i) = down l st := by
    have hmove : (s.withLink l).moveAccount .hoist (.slot i) .cell = (s.withLink l).withAccounts moved :=
      moveAccount_of_account (p := .hoist) (d := s.withLink l) ha _
    rw [hmove, placeStake_of_claim (d := ((s.withLink l).withAccounts moved).setSlot i _) hx, hcell]
    rfl
  have hperform (l : DriveLink) (hl : l.position = s.link.position)
      (hst : r.state = .giver .bound ∨ (r.state = .giver .unbound ∧ r.placed = false)) :
      (s.withLink l).perform (.reportSetdown ⟨g, q⟩) = ((s.withLink l).giverSetdown i r, okay (bytesOfNat16 a.e)) := by
    refine (withRecord_of_record (d := s.withLink l) hconf hslot hr _).trans ?_
    have hgood : ¬(r.state ≠ .giver .bound ∧ ¬(r.state = .giver .unbound ∧ r.placed = false)) := by tauto
    rw [if_neg hgood, if_neg (show ¬(s.withLink l).link.position ≠ r.cell from not_not_intro (hl.trans hpos))]
    simp [ha, hbin]
  refine ⟨fun hst hp => ?_, fun hst hsend => ?_⟩
  · refine request_done_at hs (.reportSetdown ⟨g, q⟩) rfl fun l hl => ?_
    rw [hperform l hl (.inr ⟨hst, hp⟩)]
    have hset : (s.withLink l).giverSetdown i r = down l .unbound := by
      rw [← hdown]
      simp [Device.giverSetdown, hst, Record.setDown]
    rw [hset]
    have hrec : r.setDown .unbound = { r with placed := true, bindFrame := none, setdownFrame := none } := by
      simp [Record.setDown, hst]
    dsimp only [down]
    rw [hrec]
    rfl
  · refine request_done_at hs (.reportSetdown ⟨g, q⟩) rfl fun l hl => ?_
    rw [hperform l hl (.inl hst)]
    have hset : (s.withLink l).giverSetdown i r = (down l .placed).sendSetdown i := by
      rw [← hdown]
      simp [Device.giverSetdown, hst, Record.setDown]
    have hrec : (down l .placed).recordAt i = some (r.setDown .placed) :=
      recordAt_setSlot_self ((s.withLink l).withAccounts moved) _ (recordAt_lt s.toDevice hr)
    have he : (down l .placed).slotE i = a.e := by
      have hacc : (down l .placed).accountAt (.slot i) = some { a with location := .cell } := by
        simp [down, Device.accountAt, moved, hlen]
      rw [slotE_of_account hacc]
    rw [hset, sendSetdown_of_room (d := down l _) hsend hrec rfl, he]
    have hengine := congrArg Device.engine (setSlot_twice (d := ((s.withLink l).withAccounts moved)) (i := i)
      (some (r.setDown .placed)) (some { r.setDown .placed with setdownOwed := false, setdownFrame := some s.line.seqCounter }))
    exact congrArg (fun x => (({ s.withLink l with accounts := moved, claims := placed, line := _, engine := x } : Device), okay _)) hengine

end Sys2Proof.Machine
end

section
/-! PROOF. RECOVER and CANCEL (R103, R104, R107, R122): the end of a record at the host's request. -/

namespace Sys2Proof.Machine

variable {s : State} {d e : Device} {i : Nat} {r : Record} {a : Account} {o : OutcomePair} {v : Nat}

/-! ## Shared by both -/

/-- A record that neither waits nor is offered stands, up to its notices, through the completion of a request. -/
theorem Device.Completes.hasRecord {ended : Record} (h : d.Completes e) (hr : d.HasRecord i ended) (hn : ¬ended.Opening) :
    e.HasRecord i ended := by
  obtain ⟨q, hq, hqr⟩ := hr
  refine ⟨q, h.record hq ?_, hqr⟩
  rw [hqr]
  exact hn

theorem accountAt_lifted (x : Accounts) (i : Nat) (a : Account) (h : d.accounts = x.lifted i a) :
    d.accountAt .hoist = some { a with location := .hoist } ∧ d.accountAt (.slot i) = none := by
  constructor
  · simp [Device.accountAt, h, Accounts.lifted]
  · rw [Device.accountAt, h]
    simp only [Accounts.lifted, List.getElem?_set]
    split
    · next b hb => split at hb <;> simp_all
    · rfl

/-- R103, R107, R122: the CANCEL to a partner, when the record has been addressed to one. -/
def Device.cancelTold (d : Device) (told : Bool) (t : Tag) (reason : Byte) : Device := if told then d.sendCancel t reason else d

theorem cancelTold_eq (d : Device) (told : Bool) (t : Tag) (reason : Byte) :
    d.cancelTold told t reason = d.withLine (d.cancelTold told t reason).line := by
  unfold Device.cancelTold
  split <;> rfl

/-- With room the CANCEL waits in the queue. -/
theorem cancelTold_queued (h : d.canSend) {told : Bool} (ht : told = true) (t : Tag) (reason : Byte) :
    ∃ y ∈ (d.cancelTold told t reason).line.queue, y.sender = .engine ∧ y.frame.body = .cancel { tag := t, reason := reason } := by
  have hline : (d.cancelTold told t reason).line = d.sent .engine (.cancel { tag := t, reason := reason }) := by
    rw [Device.cancelTold, if_pos ht]
    exact congrArg Device.line (sendAbsorbed_of_room h .engine rfl)
  rw [hline]
  exact mem_sent ..

/-! ## RECOVER (R103, R104) -/

theorem giverRecover_eq (ha : d.accountAt (.slot i) = some a) :
    d.giverRecover i r = ((d.withAccounts (d.accounts.lifted i a)).cancelTold r.addressed r.tag 2#8).endGiver i ⟨.failed, .recovered⟩ a.e := by
  have hmove : d.moveAccount (.slot i) .hoist .hoist = d.withAccounts (d.accounts.lifted i a) := moveAccount_of_account ha _
  simp only [Device.giverRecover, slotE_of_account ha, hmove]
  rfl

/-- Settles O24. -/
theorem recoverTakesTheBinBack : Obligations.RecoverTakesTheBinBack := by
  intro s g q i r hs hconf hslot hr
  have hrecord (l : DriveLink) (f : Nat → Record → Device × Reply) : (s.withLink l).withRecord ⟨g, q⟩ f = f i r :=
    withRecord_of_record (d := s.withLink l) hconf hslot hr f
  refine ⟨fun gs x hstate hended hout => ?_, fun a hstate hplaced hhoist hpos ha => ?_⟩
  · refine request_refused hs (.recover ⟨g, q⟩) fun l => (hrecord l _).trans ?_
    have hdone : r.endedDone = true := by simp [Record.endedDone, Record.isEnded, hstate, hended, hout]
    rw [hstate]
    exact if_pos hdone
  · obtain ⟨gs, hgs, hlive⟩ : ∃ gs, r.state = .giver gs ∧ gs ≠ .ended := by
      rcases hstate with h | h | h <;> exact ⟨_, h, by decide⟩
    have hperform (l : DriveLink) (hl : l.position = s.link.position) : (s.withLink l).perform (.recover ⟨g, q⟩) =
        ((s.withLink l).giverRecover i r, okay (bytesOfNat16 a.e)) := by
      have hdone : r.endedDone = false := by
        have hend : r.isEnded = false := by cases gs <;> simp_all [Record.isEnded]
        simp [Record.endedDone, hend]
      refine (hrecord l _).trans ?_
      rw [hgs]
      simp [hdone, hlive, hplaced, hhoist, hl, hpos, slotE_of_account (d := s.withLink l) ha]
    obtain ⟨l, e, hexec, he, -, -, hl⟩ := request_completes hs (.recover ⟨g, q⟩)
    rw [hperform l hl, giverRecover_eq (d := s.withLink l) ha] at he
    let b := ((s.withLink l).withAccounts (s.accounts.lifted i a)).cancelTold r.addressed r.tag 2#8
    have hb : b = _ := cancelTold_eq ((s.withLink l).withAccounts (s.accounts.lifted i a)) r.addressed r.tag 2#8
    have hbr : b.recordAt i = some r := by rw [hb]; exact hr
    have hbacc : b.accounts = s.accounts.lifted i a := by rw [hb]; rfl
    obtain ⟨hrec, -, hacc, -, hqueue⟩ := endGiver_ended (d := b) (i := i) (r := r) (o := ⟨.failed, .recovered⟩) (v := a.e) hbr
    have hacc' : e.accounts = s.accounts.lifted i a := he.accounts.trans (hacc.trans hbacc)
    obtain ⟨r', hr', hr''⟩ := he.hasRecord (i := i) hrec giverEnded_not_opening
    refine ⟨e, hexec, (accountAt_lifted _ i a hacc').1, (accountAt_lifted _ i a hacc').2, ⟨r', hr', ?_⟩, fun hadr hsend => ?_, he.result⟩
    · rw [hr'']
      exact ⟨rfl, rfl, rfl, rfl, rfl⟩
    · obtain ⟨y, hy, hsender, hbody⟩ :=
        cancelTold_queued (d := (s.withLink l).withAccounts (s.accounts.lifted i a)) hsend hadr r.tag 2#8
      have hown : y.sender ≠ .relay := by rw [hsender]; decide
      exact ⟨y, he.queued (hqueue y hy hown) hown, hsender, hbody⟩

/-! ## CANCEL (R107, R122) -/

/-- What CANCEL leaves before its completion takes its effects (R107, R122, R126). -/
structure Device.Cancelled (d e : Device) (i : Nat) (r : Record) : Prop where
  record : ∃ r', e.recordAt i = some r' ∧ r'.tag = r.tag ∧ r'.isEnded = true ∧ r'.isGiver = r.isGiver ∧
    r'.outcome = some ⟨.failed, .cancelled⟩ ∧ (r.isGiver = true → r'.request = none) ∧
    r'.endValue = if r.isGiver then accountE d.accounts.hoist
      else if r.state = .taker .ready then accountE (d.accountAt (.slot i)) else 0
  hoist : e.accounts.hoist = d.accounts.hoist
  shadow : r.state = .taker .ready → e.accountAt (.slot i) = none
  told : (r.isGiver = true → r.addressed = true) → d.canSend →
    ∃ y ∈ e.line.queue, y.sender = .engine ∧ y.frame.body = .cancel { tag := r.tag, reason := 1 }
  peers : e.peers = d.peers
  runEnded : r.isGiver = true → d.engine.run.Serves r.ordinal →
    e.RunEnded { d.engine.run with entries := d.engine.run.entriesWith r.ordinal .failed } ⟨.failed, .cancelled⟩
  runKept : ¬(r.isGiver = true ∧ d.engine.run.Serves r.ordinal) → e.engine.run = { d.engine.run with mark := e.engine.run.mark }
  claimsKept : ¬(r.isGiver = true ∧ d.engine.run.Serves r.ordinal) ∨ d.claimOfUse .runHold = none →
    r.isGiver = false ∨ d.claimOfUse (.slot i) = none → e.claims = d.claims
  stake : ¬(r.isGiver = true ∧ d.engine.run.Serves r.ordinal) ∨ d.claimOfUse .runHold = none → ∀ x, r.isGiver = true →
    d.claimOfUse (.slot i) = some x → (∀ j q, d.recordAt j = some q → j ≠ i → ¬q.WaitsFor x.cell) →
      (x.phase ≠ .contested → e.claims.entries = d.lingering x.cell) ∧
      (x.phase = .contested → e.claims.entries = d.unstaked x.cell ∧
        (d.line.mode = .normal → d.line.queue.length ≤ 6 → e.queues .claimMap (.unstake { cell := x.cell, tag := x.tag })))

/-- R107: a giver record before its set-down ends, its bin staying on the hoist. -/
theorem giverCancel_cancelled (hrun : d.power.state = .run) (hr : d.recordAt i = some r) (hg : r.isGiver = true) :
    d.Cancelled (d.giverCancel i r) i r := by
  let b := d.cancelTold r.addressed r.tag 1#8
  have hb : b = d.withLine b.line := cancelTold_eq d r.addressed r.tag 1#8
  have hbr : b.recordAt i = some r := by rw [hb]; exact hr
  have hbe : b.engine = d.engine := by rw [hb]; rfl
  have hbc : b.claims = d.claims := by rw [hb]; rfl
  have hend : d.giverCancel i r = b.endGiver i ⟨.failed, .cancelled⟩ b.hoistE := rfl
  have hvalue : b.hoistE = accountE d.accounts.hoist := by rw [hb]; rfl
  have hfailed : (⟨.failed, .cancelled⟩ : OutcomePair).cls ≠ .done := by decide
  obtain ⟨⟨q, hq, hqr⟩, -, hacc, hpeers, hqueue⟩ :=
    endGiver_ended (d := b) (i := i) (r := r) (o := ⟨.failed, .cancelled⟩) (v := b.hoistE) hbr
  rw [hend]
  have hnotready : r.state ≠ .taker .ready := by
    intro h
    simp [Record.isGiver, h] at hg
  refine ⟨⟨q, hq, ?_⟩, ?_, fun h => absurd h hnotready, fun hadr hsend => ?_, ?_, fun _ hserves => ?_, fun hnot => ?_, ?_, ?_⟩
  · rw [hqr]
    refine ⟨rfl, rfl, hg.symm, rfl, fun _ => rfl, ?_⟩
    rw [if_pos hg]
    exact hvalue
  · rw [hacc, hb]
    rfl
  · obtain ⟨y, hy, hsender, hbody⟩ := cancelTold_queued hsend (hadr hg) r.tag 1#8
    exact ⟨y, hqueue y hy (by rw [hsender]; decide), hsender, hbody⟩
  · rw [hpeers, hb]
    rfl
  · have hended := endGiver_run_of_failed (d := b) (v := b.hoistE) (by rw [hb]; exact hrun) hbr (by rw [hbe]; exact hserves) hfailed
    rw [hbe] at hended
    exact hended
  · have hkept := endGiver_run_of_other (d := b) (o := ⟨.failed, .cancelled⟩) (v := b.hoistE) hbr
      (by rw [hbe]; exact fun h => hnot ⟨hg, h⟩)
    rw [hbe] at hkept
    exact hkept
  all_goals
    intro hquiet
    have hstake := endGiver_stake (d := b) (v := b.hoistE) hbr (runHears_of_not_done hfailed)
      (by rw [hbe, claimOfUse_congr hbc]; exact hquiet.imp_left fun h hs => h ⟨hg, hs⟩)
    rw [claimOfUse_congr hbc] at hstake
  · intro hnone
    exact (hstake.1 (hnone.resolve_left (by simp [hg]))).1.trans hbc
  · intro x _ hx hw
    have hrecords (j : Nat) : b.recordAt j = d.recordAt j := recordAt_congr (congrArg Engine.table hbe) j
    obtain ⟨hlinger, hdrop⟩ := hstake.2 x hx (.inr fun j q hj hq => hw j q (by rw [← hrecords]; exact hq) hj)
    refine ⟨fun hphase => ?_, fun hphase => ?_⟩
    · rw [(hlinger hphase).1, Device.lingering, Device.held, hbc]
      rfl
    · obtain ⟨hentries, hline⟩ := hdrop hphase
      refine ⟨by rw [hentries, Device.unstaked, hbc]; rfl, fun hnormal hlen => ?_⟩
      have hroom : b.canSend := by
        have hcases : b = d ∨ b = d.sendCancel r.tag 1#8 := by
          show d.cancelTold _ _ _ = d ∨ d.cancelTold _ _ _ = _
          unfold Device.cancelTold
          split
          · exact .inr rfl
          · exact .inl rfl
        rcases hcases with h | h
        · rw [h]
          exact ⟨hnormal, by simp only [Config.queueSize]; omega⟩
        · have hsend : d.canSend := ⟨hnormal, by simp only [Config.queueSize]; omega⟩
          rw [h, Device.sendCancel, sendAbsorbed_of_room hsend .engine rfl]
          refine ⟨(joinTail_setting _ _).mode_eq.trans hnormal, ?_⟩
          simp only [withLine_line, Device.sent, joinTail_queue, List.length_append, List.length_singleton, Config.queueSize]
          omega
      have hsent : (b.line.offer .claimMap (.unstake { cell := x.cell, tag := x.tag })).1 =
          b.sent .claimMap (.unstake { cell := x.cell, tag := x.tag }) :=
        congrArg Prod.fst (offer_room hroom.1 hroom.2 .claimMap _ rfl)
      obtain ⟨y, hy, hsender, hbody⟩ := mem_sent b .claimMap (.unstake { cell := x.cell, tag := x.tag })
      exact ⟨y, by rw [hline, hsent]; exact hy, hsender, hbody⟩

/-- R122: a taker record ends, its shadow given up. -/
theorem takerCancel_cancelled (hr : d.recordAt i = some r) (hg : r.isGiver = false) : d.Cancelled (d.takerCancel i r) i r := by
  let b := d.sendCancel r.tag 1#8
  have hend : d.takerCancel i r = b.endTaker i ⟨.failed, .cancelled⟩ := rfl
  have hbr : b.recordAt i = some r := hr
  obtain ⟨q, hq, hqr⟩ := endTaker_record (o := ⟨.failed, .cancelled⟩) hbr
  obtain ⟨-, -, -, -, -, hacc, hline, hclaims, hpeers⟩ := endTaker_ends ⟨.failed, .cancelled⟩ hbr
  have hnot : ¬r.isGiver = true := by simp [hg]
  rw [hend]
  refine ⟨⟨q, hq, ?_⟩, ?_, fun hready => ?_, fun _ hsend => ?_, hpeers, fun h => absurd h hnot, fun _ => endTaker_run hbr, fun _ _ => hclaims,
    fun _ x h => absurd h hnot⟩
  · rw [hqr]
    refine ⟨rfl, rfl, hg.symm, rfl, fun h => absurd h hnot, ?_⟩
    rw [if_neg hnot]
    rfl
  · rw [hacc, Device.withoutShadow]
    split <;> rfl
  · rw [accountAt_congr hacc, withoutShadow_of_ready hready, accountAt_removeAccount_slot]
  · rw [hline]
    exact cancelTold_queued (told := true) hsend rfl r.tag 1#8

/-- Settles O25. -/
theorem cancelEndsTheRecord : Obligations.CancelEndsTheRecord := by
  intro s g q i r hs hconf hslot hr
  have hperform (l : DriveLink) : (s.withLink l).perform (.cancel ⟨g, q⟩) =
      if r.isEnded then (s.withLink l).refuse .wrongState
      else if r.isGiver then
        if r.placed then (s.withLink l).refuse .wrongState else ((s.withLink l).giverCancel i r, okay [])
      else ((s.withLink l).takerCancel i r, okay []) := withRecord_of_record (d := s.withLink l) hconf hslot hr _
  refine ⟨fun hrefused => ?_, fun hlive hplaced => ?_⟩
  · refine request_refused hs (.cancel ⟨g, q⟩) fun l => ?_
    rw [hperform]
    rcases hrefused with h | ⟨hg, hp⟩
    · rw [if_pos h]
    · rw [if_pos hg, if_pos hp, ite_self]
  · obtain ⟨l, e, hexec, he, hkept, -⟩ := request_completes hs (.cancel ⟨g, q⟩)
    obtain ⟨f, hf, hcancelled⟩ : ∃ f, (s.withLink l).perform (.cancel ⟨g, q⟩) = (f, okay []) ∧ (s.withLink l).Cancelled f i r := by
      by_cases hg : r.isGiver = true
      · refine ⟨_, ?_, giverCancel_cancelled (d := s.withLink l) hs.1 hr hg⟩
        rw [hperform, if_neg (by simp [hlive]), if_pos hg, if_neg (by simp [hplaced hg])]
      · refine ⟨_, ?_, takerCancel_cancelled (d := s.withLink l) hr (by simpa using hg)⟩
        rw [hperform, if_neg (by simp [hlive]), if_neg hg]
    rw [hf] at he hkept
    obtain ⟨⟨r', hr', htag, hended, hgiver, hout, hrequest, hvalue⟩, hhoist, hshadow, htold, hpeers, hrunEnded, hrunKept, hclaims, hstake⟩ :=
      hcancelled
    have hnot : ¬r'.Opening := by
      intro hopen
      rcases hopen with h | h | h <;> simp [Record.isEnded, h] at hended
    refine ⟨e, hexec, ⟨r', he.record hr' hnot, htag, hended, hgiver, hout, hrequest, hvalue⟩, ?_, fun hready => ?_, fun hadr hsend => ?_,
      he.result.1, he.result.2, fun hlapsed => ?_⟩
    · rw [he.accounts]
      exact hhoist
    · rw [accountAt_congr he.accounts]
      exact hshadow hready
    · obtain ⟨y, hy, hsender, hbody⟩ := htold hadr hsend
      exact ⟨y, he.queued hy (by rw [hsender]; decide), hsender, hbody⟩
    · obtain ⟨p, rfl⟩ := hkept (by rw [hpeers]; exact hlapsed)
      exact ⟨fun hours => hrunEnded hours.1 hours.2, hrunKept, fun hquiet => ⟨hclaims hquiet, hstake hquiet⟩⟩

end Sys2Proof.Machine
end

section
/-! PROOF. Every command keeps a sound part sound: the blocks. What each elementary change must meet so that the part stays sound
(`Device.Sound`): a change of the claim map's entries, of a record, of an account, of a timer. -/

namespace Sys2Proof.Machine

/-! ## The handover table: lists with one slot written -/

section Lists

variable {α β : Type} {f : α → Option β} {l : List α} {i : Nat} {a : α}

theorem filterMap_set_eq {b : α} (hb : l[i]? = some b) (hf : f a = f b) : (l.set i a).filterMap f = l.filterMap f := by
  induction l generalizing i with
  | nil => rfl
  | cons x l ih =>
    cases i with
    | zero =>
      obtain rfl : x = b := by simpa using hb
      simp [List.filterMap_cons, hf]
    | succ i => simp [List.filterMap_cons, ih (i := i) (by simpa using hb)]

theorem mem_filterMap_set {b : β} (h : b ∈ (l.set i a).filterMap f) : f a = some b ∨ b ∈ l.filterMap f := by
  obtain ⟨x, hx, hfx⟩ := List.mem_filterMap.mp h
  rcases List.mem_or_eq_of_mem_set hx with hx | rfl
  · exact .inr (List.mem_filterMap.mpr ⟨x, hx, hfx⟩)
  · exact .inl hfx

theorem nodup_filterMap_set (h : (l.filterMap f).Nodup) (ha : ∀ b, f a = some b → b ∉ l.filterMap f) :
    ((l.set i a).filterMap f).Nodup := by
  induction l generalizing i with
  | nil => exact h
  | cons x l ih =>
    have htail : (l.filterMap f).Nodup := h.sublist ((List.sublist_cons_self x l).filterMap f)
    have ha' : ∀ b, f a = some b → b ∉ l.filterMap f :=
      fun b hb hm => ha b hb (((List.sublist_cons_self x l).filterMap f).subset hm)
    cases i with
    | zero =>
      rw [List.set_cons_zero, List.filterMap_cons]
      split
      · exact htail
      · next b hb => exact List.nodup_cons.mpr ⟨ha' b hb, htail⟩
    | succ i =>
      rw [List.set_cons_succ, List.filterMap_cons]
      split
      · exact ih htail ha'
      · next b hb =>
        refine List.nodup_cons.mpr ⟨fun hm => ?_, ih htail ha'⟩
        rcases mem_filterMap_set hm with he | hm
        · exact ha b he (by simp [hb])
        · rw [List.filterMap_cons, hb] at h
          exact (List.nodup_cons.mp h).1 hm

end Lists

theorem slotOf_eq_none_iff {d : Device} {t : Tag} :
    d.slotOf t = none ↔ t ∉ d.engine.table.filterMap fun x => x.map fun r => r.tag := by
  simp only [Device.slotOf, List.findIdx?_eq_none_iff, List.mem_filterMap, Option.map_eq_some_iff, not_exists, not_and]
  refine ⟨fun h x hx r hr ht => ?_, fun h x hx => ?_⟩
  · have := h x hx
    simp [hr, ht] at this
  · cases x with
    | none => rfl
    | some r => simpa using h _ hx r rfl

/-- R89: the slot that is found holds a record of the tag. -/
theorem recordAt_of_slotOf {d : Device} {t : Tag} {i : Nat} (h : d.slotOf t = some i) : ∃ r, d.recordAt i = some r ∧ r.tag = t := by
  obtain ⟨hi, ht, -⟩ := List.findIdx?_eq_some_iff_getElem.mp h
  cases hx : d.engine.table[i] with
  | none => simp [hx] at ht
  | some r => exact ⟨r, (recordAt_eq d i r).mpr (List.getElem?_eq_some_iff.mpr ⟨hi, hx⟩), by simpa [hx] using ht⟩

/-! ## Entries of the claim map -/

/-- R60, R67: the settle and linger counts of an entry are 1 or 2. -/
def Claim.CountsSound (x : Claim) : Prop := ∀ o ∈ x.own, (∀ n ∈ o.settle, 1 ≤ n ∧ n ≤ 2) ∧ ∀ n ∈ o.linger, 1 ≤ n ∧ n ≤ 2

/-- A changed entry stands in the same place, own or heard as before, its counts in their range. -/
structure Claim.Keeps (x y : Claim) : Prop where
  cell : y.cell = x.cell
  claimant : y.claimant = x.claimant
  own : y.own.isSome = x.own.isSome
  counts : x.CountsSound → y.CountsSound

theorem Claim.Keeps.refl (x : Claim) : x.Keeps x := ⟨rfl, rfl, rfl, id⟩

/-- A change of entries that is one of the own entries on a cell. -/
theorem Claim.keeps_ite {b : Bool} {x y : Claim} (h : b = true → x.Keeps y) : x.Keeps (if b then y else x) := by
  cases b
  · exact .refl x
  · exact h rfl

/-- A sound map but for the refresh ages of its entries. -/
structure ClaimMap.Shaped (m : ClaimMap) (own : Station) : Prop where
  size : m.entries.length ≤ Config.claimMapSize
  ordered : m.entries.Pairwise fun x y => claimRank x.cell x.claimant < claimRank y.cell y.claimant
  ours : ∀ x ∈ m.entries, x.own.isSome = true ↔ x.claimant = own
  limit : m.entries.countP (fun x => x.own.isSome) ≤ Config.ownStakeLimit
  counts : ∀ x ∈ m.entries, x.CountsSound
  watches : m.watches.length = Config.watchCount

theorem ClaimMap.sound_iff {m : ClaimMap} {own : Station} :
    m.Sound own ↔ m.Shaped own ∧ ∀ x ∈ m.entries, x.age < Config.claimAge :=
  ⟨fun h => ⟨⟨h.size, h.ordered, h.ours, h.limit, h.counts, h.watches⟩, h.ages⟩,
    fun ⟨h, ha⟩ => ⟨h.size, h.ordered, h.ours, h.limit, ha, h.counts, h.watches⟩⟩

section Entries

variable {m : ClaimMap} {own : Station}

/-- Entries may go, and those that stay may change where they stand. -/
theorem ClaimMap.Shaped.filter_map (h : m.Shaped own) (p : Claim → Bool) {f : Claim → Claim} (hf : ∀ x : Claim, x.Keeps (f x)) :
    ({ m with entries := (m.entries.filter p).map f } : ClaimMap).Shaped own := by
  have hsub : (m.entries.filter p).Sublist m.entries := List.filter_sublist
  refine ⟨?_, ?_, ?_, ?_, ?_, h.watches⟩
  · simpa using hsub.length_le.trans h.size
  · refine List.pairwise_map.mpr ((h.ordered.sublist hsub).imp fun {x y} hxy => ?_)
    rw [(hf x).cell, (hf x).claimant, (hf y).cell, (hf y).claimant]
    exact hxy
  · intro y hy
    obtain ⟨x, hx, rfl⟩ := List.mem_map.mp hy
    rw [(hf x).own, (hf x).claimant]
    exact h.ours x (hsub.subset hx)
  · rw [List.countP_map]
    refine le_trans (le_of_eq (List.countP_congr fun x _ => ?_)) (hsub.countP_le.trans h.limit)
    rw [Function.comp_apply, (hf x).own]
  · intro y hy
    obtain ⟨x, hx, rfl⟩ := List.mem_map.mp hy
    exact (hf x).counts (h.counts x (hsub.subset hx))

/-- In an ordered map an entry of the place and kind of one that stands there replaces it. -/
theorem length_insertClaim_of_mem {c x : Claim} {l : List Claim}
    (h : l.Pairwise fun x y => claimRank x.cell x.claimant < claimRank y.cell y.claimant) (hx : x ∈ l) (hcell : c.cell = x.cell)
    (hclaimant : c.claimant = x.claimant) (hown : c.own.isSome = x.own.isSome) : (insertClaim c l).length = l.length := by
  induction l with
  | nil => cases hx
  | cons y l ih =>
    obtain ⟨hy, hl⟩ := List.pairwise_cons.mp h
    unfold insertClaim
    rcases List.mem_cons.mp hx with rfl | hx
    · rw [if_neg (by rw [hcell, hclaimant]; omega), if_pos ⟨hcell, hclaimant, hown⟩]
      rfl
    · have hlt := hy x hx
      rw [← hcell, ← hclaimant] at hlt
      rw [if_neg (by omega)]
      split
      · rfl
      · simp [ih hl hx]

theorem countP_own_insertClaim (c : Claim) (l : List Claim) :
    (insertClaim c l).countP (fun x => x.own.isSome) ≤ l.countP (fun x => x.own.isSome) + if c.own.isSome then 1 else 0 := by
  induction l with
  | nil => simp [insertClaim, List.countP_cons]
  | cons y l ih =>
    unfold insertClaim
    split
    · simp [List.countP_cons]
    · split
      · next he => simp only [List.countP_cons, he.2.2]; omega
      · simp only [List.countP_cons]; omega

/-- A new or rewritten entry: it has room or its place is taken by one of its kind, and it is the own number's exactly when it is own. -/
theorem ClaimMap.Shaped.insert (h : m.Shaped own) {c : Claim}
    (hroom : m.entries.length < Config.claimMapSize ∨
      ∃ x ∈ m.entries, c.cell = x.cell ∧ c.claimant = x.claimant ∧ c.own.isSome = x.own.isSome)
    (hours : c.own.isSome = true ↔ c.claimant = own)
    (hlimit : c.own.isSome = true → m.entries.countP (fun x => x.own.isSome) < Config.ownStakeLimit) (hcounts : c.CountsSound) :
    ({ m with entries := insertClaim c m.entries } : ClaimMap).Shaped own := by
  refine ⟨?_, insertClaim_ordered h.ordered fun x hx _ hcl => ?_, ?_, ?_, ?_, h.watches⟩
  · rcases hroom with hlt | ⟨x, hx, hcell, hclaimant, hown⟩
    · exact (length_insertClaim c m.entries).trans hlt
    · exact (length_insertClaim_of_mem h.ordered hx hcell hclaimant hown).trans_le h.size
  · rw [Bool.eq_iff_iff, h.ours x hx, hours, hcl]
  · intro x hx
    rcases mem_insertClaim hx with rfl | hx
    · exact hours
    · exact h.ours x hx
  · refine (countP_own_insertClaim c m.entries).trans ?_
    have := h.limit
    split
    · next hc => exact hlimit hc
    · exact this
  · intro x hx
    rcases mem_insertClaim hx with rfl | hx
    · exact hcounts
    · exact h.counts x hx

end Entries

/-! ## Records -/

section Records

variable {r q : Record}

/-- In a state without a window the timers need only be within their bounds. -/
theorem Record.sound_of_windowless (ht : q.timer ≤ 6) (ho : q.offers ≤ 3) (hn : q.NoticesSound) (h1 : q.state ≠ .giver .offering)
    (h2 : q.state ≠ .taker .invited) (h3 : q.state ≠ .taker .agreed) : q.Sound :=
  ⟨ht, ho, fun h => absurd h h1, fun h => absurd h (not_or.mpr ⟨h2, h3⟩), hn⟩

/-- A record that leaves its window keeps its timer and offer-send count. -/
theorem Record.Sound.leaves (h : r.Sound) (ht : q.timer = r.timer := by rfl) (ho : q.offers = r.offers := by rfl)
    (hn : q.notices = r.notices := by rfl) (h1 : q.state ≠ .giver .offering := by simp)
    (h2 : q.state ≠ .taker .invited := by simp) (h3 : q.state ≠ .taker .agreed := by simp) : q.Sound := by
  obtain ⟨htimer, hoffers, -, -, hnotices⟩ := h
  exact Record.sound_of_windowless (ht ▸ htimer) (ho ▸ hoffers) (by unfold Record.NoticesSound; rw [hn]; exact hnotices) h1 h2 h3

/-- A record whose offer-send count and timer are reset is sound in any state. -/
theorem Record.Sound.reset (h : r.Sound) (ht : q.timer = 0 := by rfl) (ho : q.offers = 0 := by rfl)
    (hn : q.notices = r.notices := by rfl) : q.Sound := by
  obtain ⟨-, -, -, -, hnotices⟩ := h
  refine ⟨by omega, by omega, fun _ => .inl ⟨ho, ht⟩, fun _ => by omega, ?_⟩
  unfold Record.NoticesSound
  rw [hn]
  exact hnotices

theorem mem_addPending {p x : PendingNotice} {l : List PendingNotice} (h : x ∈ addPending p l) : x = p ∨ x ∈ l := by
  induction l with
  | nil => exact .inl (List.mem_singleton.mp h)
  | cons q l ih =>
    unfold addPending at h
    split_ifs at h
    · exact List.mem_cons.mp h
    · exact (List.mem_cons.mp h).imp_right (List.mem_cons_of_mem _)
    · rcases List.mem_cons.mp h with rfl | h
      · exact .inr List.mem_cons_self
      · exact (ih h).imp_right (List.mem_cons_of_mem _)

/-- R92: a raised notice takes its place in the order of the set. -/
theorem addPending_ordered {p : PendingNotice} {l : List PendingNotice}
    (h : l.Pairwise fun p q => p.kind.rank < q.kind.rank) : (addPending p l).Pairwise fun p q => p.kind.rank < q.kind.rank := by
  induction l with
  | nil => exact List.pairwise_singleton ..
  | cons q l ih =>
    obtain ⟨hq, hl⟩ := List.pairwise_cons.mp h
    unfold addPending
    split_ifs with hlt heq
    · refine List.pairwise_cons.mpr ⟨fun x hx => ?_, h⟩
      rcases List.mem_cons.mp hx with rfl | hx
      · exact hlt
      · exact hlt.trans (hq x hx)
    · exact List.pairwise_cons.mpr ⟨fun x hx => heq ▸ hq x hx, hl⟩
    · refine List.pairwise_cons.mpr ⟨fun x hx => ?_, ih hl⟩
      rcases mem_addPending hx with rfl | hx
      · omega
      · exact hq x hx

theorem Record.Sound.addNotice (h : r.Sound) {p : PendingNotice} (hk : IsRecordNotice p.kind) :
    ({ r with notices := addPending p r.notices } : Record).Sound := by
  obtain ⟨htimer, hoffers, hoffering, hwindow, hkinds, hordered⟩ := h
  refine ⟨htimer, hoffers, hoffering, hwindow, fun x hx => ?_, addPending_ordered hordered⟩
  rcases mem_addPending hx with rfl | hx
  · exact hk
  · exact hkinds x hx

end Records

/-! ## The part after one change -/

variable {d : Device}

namespace Device.Sound

theorem withLine (h : d.Sound) {l : LinePort} (hl : l.Sound) (hst : l.station = d.line.station) : (d.withLine l).Sound := by
  refine ⟨hl, ?_, ?_, h.accounts, h.engine, h.notices, h.backup, h.blank⟩
  · show d.peers.Sound l.station
    rw [hst]
    exact h.peers
  · show d.claims.Sound l.station
    rw [hst]
    exact h.claims

theorem offer (h : d.Sound) (s : Sender) (b : Body) (hs : s ≠ .relay := by decide) : (d.offer s b).1.Sound :=
  h.withLine (offer_sound h.line s b hs) (offer_setting s b).station

theorem sendAbsorbed (h : d.Sound) (s : Sender) (b : Body) (hs : s ≠ .relay := by decide) : (d.sendAbsorbed s b).Sound := h.offer s b hs

theorem withFlags (h : d.Sound) (f : SummaryFlags) : (d.withLink { d.link with flags := f }).Sound :=
  ⟨h.line, h.peers, h.claims, h.accounts, h.engine, h.notices, h.backup, h.blank⟩

theorem queueNotice (h : d.Sound) (n : Notice) (hroom : d.link.notices.length < Config.noticeQueueSize) : (d.queueNotice n).Sound := by
  refine ⟨h.line, h.peers, h.claims, h.accounts, h.engine, ?_, h.backup, h.blank⟩
  show (d.link.notices ++ [n]).length ≤ _
  simpa using hroom

theorem pushNotice (h : d.Sound) (n : Notice) : (d.pushNotice n).Sound := by
  unfold Device.pushNotice
  split
  · next hroom => exact h.queueNotice n hroom
  · exact h.withFlags _

/-! ### The Handover Engine -/

theorem withRun (h : d.Sound) {r : RunList} (hsize : r.entries.length ≤ Config.runSize)
    (htimer : ∀ n ∈ r.timer, n < Config.serviceWindow) : (d.withRun r).Sound :=
  ⟨h.line, h.peers, h.claims, h.accounts, { h.engine with runSize := hsize, runTimer := htimer }, h.notices, h.backup, h.blank⟩

theorem withAdoption (h : d.Sound) {a : Adoption} (ht : ∀ n ∈ a.timer, 1 ≤ n ∧ n ≤ 8) : (d.withAdoption a).Sound :=
  ⟨h.line, h.peers, h.claims, h.accounts, { h.engine with adoption := ht }, h.notices, h.backup, h.blank⟩

theorem withCeding (h : d.Sound) {c : Ceding} (ha : c.attempts ≤ Config.cedeAttempts) : (d.withCeding c).Sound :=
  ⟨h.line, h.peers, h.claims, h.accounts, { h.engine with attempts := ha }, h.notices, h.backup, h.blank⟩

theorem withTagCounter (h : d.Sound) (n : Byte) : (d.withEngine { d.engine with tagCounter := n }).Sound :=
  ⟨h.line, h.peers, h.claims, h.accounts,
    ⟨h.engine.slots, h.engine.records, h.engine.tags, h.engine.runSize, h.engine.runTimer, h.engine.adoption, h.engine.attempts⟩,
    h.notices, h.backup, h.blank⟩

theorem record (h : d.Sound) {i : Nat} {r : Record} (hr : d.recordAt i = some r) : r.Sound :=
  h.engine.records _ (List.mem_of_getElem? ((recordAt_eq d i r).mp hr)) r rfl

/-- A slot is written with no record, or with a sound one whose tag no other slot carries. -/
theorem setSlot (h : d.Sound) (i : Nat) {x : Option Record} (hx : ∀ r ∈ x, r.Sound)
    (htags : ((d.engine.table.set i x).filterMap fun x => x.map fun r => r.tag).Nodup) : (d.setSlot i x).Sound := by
  refine ⟨h.line, h.peers, h.claims, h.accounts,
    ⟨?_, ?_, htags, h.engine.runSize, h.engine.runTimer, h.engine.adoption, h.engine.attempts⟩, h.notices, h.backup, h.blank⟩
  · show (List.set _ _ _).length = _
    rw [List.length_set]
    exact h.engine.slots
  · intro y hy r hr
    rcases List.mem_or_eq_of_mem_set hy with hy | rfl
    · exact h.engine.records y hy r hr
    · exact hx r hr

theorem freeSlot (h : d.Sound) (i : Nat) : (d.setSlot i none).Sound :=
  h.setSlot i (fun _ hr => nomatch hr) (nodup_filterMap_set h.engine.tags fun _ hb => nomatch hb)

/-- A record is rewritten under its tag. -/
theorem rewrite (h : d.Sound) {i : Nat} {r q : Record} (hr : d.recordAt i = some r) (hq : q.Sound) (ht : q.tag = r.tag := by rfl) :
    (d.setSlot i (some q)).Sound := by
  refine h.setSlot i (fun x hx => Option.some.inj hx ▸ hq) ?_
  rw [filterMap_set_eq ((recordAt_eq d i r).mp hr) (by simp [ht])]
  exact h.engine.tags

theorem newRecord (h : d.Sound) (i : Nat) {q : Record} (hq : q.Sound) (ht : d.slotOf q.tag = none) : (d.setSlot i (some q)).Sound :=
  h.setSlot i (fun x hx => Option.some.inj hx ▸ hq)
    (nodup_filterMap_set h.engine.tags fun b hb => by
      obtain rfl : q.tag = b := by simpa using hb
      exact slotOf_eq_none_iff.mp ht)

theorem modRecord (h : d.Sound) (i : Nat) {f : Record → Record} (hf : ∀ r, r.Sound → (f r).Sound)
    (ht : ∀ r, (f r).tag = r.tag := by intro _; rfl) : (d.modRecord i f).Sound := by
  unfold Device.modRecord
  split
  · next r hr => exact h.rewrite hr (hf r (h.record hr)) (ht r)
  · exact h

/-! ### The Exposure Accountant -/

theorem setAccount (h : d.Sound) (p : AccountPos) {a : Option Account} (ha : ∀ x ∈ a, x.e ≤ 65535 ∧ x.wait ≤ 65535) :
    (d.setAccount p a).Sound := by
  cases p with
  | hoist =>
    exact ⟨h.line, h.peers, h.claims, ⟨h.accounts.positions, ha, h.accounts.slots⟩, h.engine, h.notices, h.backup, h.blank⟩
  | slot n =>
    refine ⟨h.line, h.peers, h.claims, ⟨?_, h.accounts.hoist, fun y hy x hx => ?_⟩, h.engine, h.notices, h.backup, h.blank⟩
    · show (List.set _ _ _).length = _
      rw [List.length_set]
      exact h.accounts.positions
    · rcases List.mem_or_eq_of_mem_set hy with hy | rfl
      · exact h.accounts.slots y hy x hx
      · exact ha x hx

theorem account (h : d.Sound) {p : AccountPos} {a : Account} (ha : d.accountAt p = some a) : a.e ≤ 65535 ∧ a.wait ≤ 65535 := by
  cases p with
  | hoist => exact h.accounts.hoist a ha
  | slot n => exact h.accounts.slots _ (List.mem_of_getElem? ((accountAt_slot_eq_some_iff d).mp ha)) a rfl

theorem removeAccount (h : d.Sound) (p : AccountPos) : (d.removeAccount p).Sound := h.setAccount p fun _ hx => nomatch hx

/-! ### The Claim Map -/

/-- Before CONFIGURE there is no entry, and none comes where there was none. -/
theorem withEntries (h : d.Sound) {es : List Claim} (hs : ({ d.claims with entries := es } : ClaimMap).Shaped d.line.station)
    (ha : ∀ x ∈ es, x.age < Config.claimAge) (hb : d.peers.state = .unconfigured → es = []) : (d.withEntries es).Sound :=
  ⟨h.line, h.peers, ClaimMap.sound_iff.mpr ⟨hs, ha⟩, h.accounts, h.engine, h.notices, h.backup,
    fun hu => ⟨(h.blank hu).1, hb hu⟩⟩

theorem shaped (h : d.Sound) : d.claims.Shaped d.line.station := (ClaimMap.sound_iff.mp h.claims).1

theorem filter_map (h : d.Sound) (p : Claim → Bool) {f : Claim → Claim} (hf : ∀ x : Claim, x.Keeps (f x))
    (ha : ∀ x : Claim, x.age < Config.claimAge → (f x).age < Config.claimAge) : (d.withEntries ((d.claims.entries.filter p).map f)).Sound := by
  refine h.withEntries (h.shaped.filter_map p hf) (fun y hy => ?_) fun hu => ?_
  · obtain ⟨x, hx, rfl⟩ := List.mem_map.mp hy
    exact ha x (h.claims.ages x (List.mem_of_mem_filter hx))
  · simp [(h.blank hu).2]

theorem filterEntries (h : d.Sound) (p : Claim → Bool) : (d.withEntries (d.claims.entries.filter p)).Sound := by
  simpa using h.filter_map p Claim.Keeps.refl fun _ => id

theorem modOwn (h : d.Sound) (c : Cell) {f : Claim → Claim} (hf : ∀ x : Claim, x.own.isSome = true → x.Keeps (f x))
    (ha : ∀ x : Claim, (f x).age = x.age := by intro _; rfl) : (d.modOwn c f).Sound := by
  unfold Device.modOwn
  have key := h.filter_map (fun _ => true) (f := fun x => if x.own.isSome && x.cell == c then f x else x)
    (fun x => Claim.keeps_ite fun hc => hf x (by simp only [Bool.and_eq_true] at hc; exact hc.1))
    (fun x hx => by split; exacts [(ha x).trans_lt hx, hx])
  simpa using key

end Device.Sound

end Sys2Proof.Machine
end

section
/-! PROOF. Every command keeps a sound part sound: the shared operations, in the order of the model's files. -/

namespace Sys2Proof.Machine

variable {d : Device}

/-! ## Entries of the claim map -/

/-- R60, R67: the counts of an own stake are 1 or 2. -/
theorem Claim.keeps_of_some {x y : Claim} {o : OwnStake} (hx : x.own.isSome = true)
    (ho : (∀ n ∈ o.settle, 1 ≤ n ∧ n ≤ 2) ∧ ∀ n ∈ o.linger, 1 ≤ n ∧ n ≤ 2) (hown : y.own = some o := by rfl)
    (hcell : y.cell = x.cell := by rfl) (hclaimant : y.claimant = x.claimant := by rfl) : x.Keeps y := by
  refine ⟨hcell, hclaimant, by rw [hown, hx]; rfl, fun _ => ?_⟩
  unfold Claim.CountsSound
  rw [hown]
  exact fun o' ho' => Option.some.inj ho' ▸ ho

theorem Claim.keeps_of_map {x y : Claim} (g : OwnStake → OwnStake)
    (hg : ∀ o : OwnStake, (∀ n ∈ o.settle, 1 ≤ n ∧ n ≤ 2) ∧ (∀ n ∈ o.linger, 1 ≤ n ∧ n ≤ 2) →
      (∀ n ∈ (g o).settle, 1 ≤ n ∧ n ≤ 2) ∧ ∀ n ∈ (g o).linger, 1 ≤ n ∧ n ≤ 2)
    (hown : y.own = x.own.map g := by rfl) (hcell : y.cell = x.cell := by rfl) (hclaimant : y.claimant = x.claimant := by rfl) :
    x.Keeps y := by
  refine ⟨hcell, hclaimant, by rw [hown, Option.isSome_map], fun hx => ?_⟩
  unfold Claim.CountsSound
  rw [hown]
  intro o' ho'
  obtain ⟨o, ho, rfl⟩ := Option.map_eq_some_iff.mp ho'
  exact hg o (hx o ho)

/-- A change of an entry that leaves its own stake as it is. -/
theorem Claim.keeps_of_eq {x y : Claim} (hown : y.own = x.own := by rfl) (hcell : y.cell = x.cell := by rfl)
    (hclaimant : y.claimant = x.claimant := by rfl) : x.Keeps y :=
  Claim.keeps_of_map id (fun _ => id) (by rw [hown]; simp) hcell hclaimant

theorem length_le_countP_add {α : Type} {p q : α → Bool} {l : List α} (h : ∀ x ∈ l, p x = true ∨ q x = true) :
    l.length ≤ l.countP p + l.countP q := by
  induction l with
  | nil => simp
  | cons x l ih =>
    have := ih fun y hy => h y (List.mem_cons_of_mem _ hy)
    have hx := h x List.mem_cons_self
    simp only [List.length_cons, List.countP_cons]
    split_ifs <;> simp_all <;> omega

theorem recordAt_modRecord_self (i : Nat) (f : Record → Record) : (d.modRecord i f).recordAt i = (d.recordAt i).map f := by
  unfold Device.modRecord
  split
  · next r hr => rw [recordAt_setSlot_self d _ (recordAt_lt d hr), hr]; rfl
  · next hr => rw [hr]; rfl

theorem setSlot_setSlot (d : Device) (i : Nat) (x y : Option Record) : (d.setSlot i x).setSlot i y = d.setSlot i y := by
  simp [Device.setSlot, Device.withTable, Device.withEngine]

/-- A slot written with the record it holds is as it was. -/
theorem setSlot_self {i : Nat} {r : Record} (hr : d.recordAt i = some r) : d.setSlot i (some r) = d := by
  have hget := (recordAt_eq d i r).mp hr
  have : d.engine.table.set i (some r) = d.engine.table := List.ext_getElem? fun j => by
    rw [List.getElem?_set]
    split
    · next hj => subst hj; rw [if_pos (List.getElem?_eq_some_iff.mp hget).1]; exact hget.symm
    · rfl
  simp [Device.setSlot, Device.withTable, Device.withEngine, this]

/-! ## The runs of a station -/

@[simp] theorem setEntry_length (r : RunList) (n : Nat) (x : EntryState) : (r.setEntry n x).entries.length = r.entries.length := by
  simp [RunList.setEntry]

@[simp] theorem setEntry_timer (r : RunList) (n : Nat) (x : EntryState) : (r.setEntry n x).timer = r.timer := rfl

theorem skipWithdrawn_keeps (n : Nat) (r : RunList) :
    (skipWithdrawn n r).entries.length = r.entries.length ∧ (skipWithdrawn n r).timer = r.timer := by
  induction n generalizing r with
  | zero => exact ⟨rfl, rfl⟩
  | succ n ih =>
    unfold skipWithdrawn
    split
    · split
      · simpa using ih { r.setEntry r.next .skipped with next := r.next + 1 }
      · exact ⟨rfl, rfl⟩
    · exact ⟨rfl, rfl⟩

namespace Device.Sound

theorem foldl {α : Type} {f : Device → α → Device} (hf : ∀ e a, e.Sound → (f e a).Sound) (h : d.Sound) (l : List α) :
    (l.foldl f d).Sound := by
  induction l generalizing d with
  | nil => exact h
  | cons a l ih => exact ih (hf d a h)

theorem forSlots {f : Nat → Device → Device} (hf : ∀ i e, e.Sound → (f i e).Sound) (h : d.Sound) : (forSlots f d).Sound :=
  foldl (f := fun d i => f i d) (fun e i => hf i e) h slotList

/-! ## Notices (R92, R159) -/

theorem moveOne (h : d.Sound) (hroom : d.link.notices.length < Config.noticeQueueSize) : d.moveOne.Sound := by
  rcases moveOne_cases d with ⟨j, q, p, rest, hq, hn, hm⟩ | ⟨-, hm⟩ | hm <;> rw [hm]
  · have hqueued := h.queueNotice (recordNotice j q.tag p) hroom
    split
    · exact hqueued.freeSlot j
    · obtain ⟨htimer, hoffers, hoffering, hwindow, hkinds, hordered⟩ := h.record hq
      rw [hn] at hkinds hordered
      exact hqueued.rewrite (r := q) hq
        ⟨htimer, hoffers, hoffering, hwindow, fun x hx => hkinds x (List.mem_cons_of_mem _ hx), (List.pairwise_cons.mp hordered).2⟩
  · exact (h.queueNotice _ hroom).withRun h.engine.runSize h.engine.runTimer
  · exact h

theorem moveOwedN (h : d.Sound) (n : Nat) : (moveOwedN n d).Sound := by
  induction n generalizing d with
  | zero => exact h
  | succ n ih =>
    unfold Machine.moveOwedN
    split
    · next hc =>
      simp only [Bool.and_eq_true, decide_eq_true_eq] at hc
      exact ih (h.moveOne hc.1)
    · exact h

theorem moveOwed (h : d.Sound) : d.moveOwed.Sound := by
  unfold Device.moveOwed
  split
  · exact h.moveOwedN _
  · exact h

theorem raise (h : d.Sound) (i : Nat) (k : NoticeKind) (o : OutcomePair) (v : List Byte) (hk : IsRecordNotice k := by decide) :
    (d.raise i k o v).Sound :=
  (h.modRecord i fun _ hr => hr.addNotice hk).moveOwed

theorem raisePartnerLost (h : d.Sound) (i : Nat) (x : Detail) (v : Byte) : (d.raisePartnerLost i x v).Sound := h.raise ..

theorem raiseCustody (h : d.Sound) (i : Nat) : (d.raiseCustody i).Sound := h.raise ..

theorem raiseEnded (h : d.Sound) (i : Nat) : (d.raiseEnded i).Sound := by
  unfold Device.raiseEnded
  split
  · exact h.raise ..
  · exact h

/-! ## The Exposure Accountant -/

theorem spentCheck (h : d.Sound) (p : AccountPos) : (d.spentCheck p).Sound := by
  unfold Device.spentCheck
  split
  · next a ha =>
    have hspent := (h.setAccount p (a := some { a with spent := true }) (by rintro _ ⟨⟩; exact h.account (p := p) (a := a) ha)).withFlags
      { d.link.flags with budget := true }
    split
    · split
      · exact Device.Sound.pushNotice (by simpa using hspent) _
      · exact Device.Sound.raise (by simpa using hspent) ..
    · exact h
  · exact h

theorem createAccount (h : d.Sound) (p : AccountPos) (b : BinId) (c : BinClass) {n : Nat} (hn : n ≤ 65535) (l : Location) :
    (d.createAccount p b c n l).Sound :=
  Device.Sound.spentCheck (h.setAccount p (by rintro _ ⟨⟩; exact ⟨hn, Nat.zero_le _⟩)) p

theorem moveAccount (h : d.Sound) (p q : AccountPos) (l : Location) : (d.moveAccount p q l).Sound := by
  unfold Device.moveAccount
  split
  · next a ha => exact (h.removeAccount p).setAccount q (by rintro _ ⟨⟩; exact h.account (p := p) (a := a) ha)
  · exact h

theorem clearWait (h : d.Sound) : d.clearWait.Sound := by
  unfold Device.clearWait
  split
  · next a ha => exact h.setAccount .hoist (by rintro _ ⟨⟩; exact ⟨(h.accounts.hoist a ha).1, Nat.zero_le _⟩)
  · exact h

theorem charged (h : d.Sound) {p : AccountPos} {a : Account} (ha : d.accountAt p = some a) (n : Nat) :
    (d.setAccount p (some (a.charged n))).Sound :=
  h.setAccount p (by rintro _ ⟨⟩; exact ⟨Nat.min_le_left .., (h.account ha).2⟩)

theorem accountingSecond (h : d.Sound) (o : List AccountPos) : (d.accountingSecond o).Sound := by
  have hcounted : ((orderBy o allPositions).foldl (fun d p => d.countPosition p) d).Sound := by
    refine foldl (fun e p he => ?_) h _
    unfold Device.countPosition
    split
    · next a ha => exact (he.charged ha 1).spentCheck p
    · exact he
  unfold Device.accountingSecond Device.countWait
  split
  · next a ha =>
    split
    · exact hcounted.setAccount .hoist (by rintro _ ⟨⟩; exact ⟨(hcounted.accounts.hoist a ha).1, Nat.min_le_left ..⟩)
    · exact hcounted
  · exact hcounted

theorem chargeDowntime (h : d.Sound) (n : Nat) : (d.chargeDowntime n).Sound := by
  refine foldl (fun e p he => ?_) h _
  unfold Device.chargePosition
  split
  · next a ha => exact (he.charged ha n).spentCheck p
  · exact he

/-! ## Heard entries and eviction (R50 to R52) -/

theorem removeOwn (h : d.Sound) (c : Cell) : (d.removeOwn c).Sound := h.filterEntries _

theorem clearRival (h : d.Sound) (c : Cell) (st : Station) : (d.clearRival c st).Sound :=
  h.modOwn c fun _ _ => Claim.keeps_of_map (fun o => if o.rival = some st then { o with rival := none } else o) fun o ho => by
    split <;> exact ho

theorem removeHeard (h : d.Sound) (c : Cell) (st : Station) : (d.removeHeard c st).Sound := (h.filterEntries _).clearRival c st

theorem writeHeard (h : d.Sound) {c : Cell} {st : Station} (t : Tag) (k : Nat) (p : Phase) (hc : d.peers.state ≠ .unconfigured)
    (hst : st ≠ d.line.station)
    (hroom : d.claims.entries.length < Config.claimMapSize ∨
      ∃ x ∈ d.claims.entries, c = x.cell ∧ st = x.claimant ∧ x.own = none) : (d.writeHeard c st t k p).Sound := by
  let x : Claim := { cell := c, claimant := st, tag := t, key := k, phase := p, age := 0, own := none }
  have hwritten : (d.withEntries (insertClaim x d.claims.entries)).Sound := by
    refine h.withEntries (h.shaped.insert (c := x)
      (hroom.imp_right fun ⟨y, hy, hcell, hclaimant, hown⟩ => ⟨y, hy, hcell, hclaimant, by rw [hown]⟩)
      (Iff.intro (fun hn => nomatch hn) fun he => absurd he hst) (fun hn => nomatch hn) (fun _ hn => nomatch hn)) (fun y hy => ?_)
      fun hu => absurd hu hc
    · rcases mem_insertClaim hy with rfl | hy
      · exact Nat.zero_lt_succ 7
      · exact h.claims.ages y hy
  unfold Device.writeHeard
  split
  · exact hwritten
  · exact hwritten.clearRival c st

theorem withFreeCount (h : d.Sound) (n : Nat) : ({ d with freeCount := n } : Device).Sound :=
  ⟨h.line, h.peers, h.claims, h.accounts, h.engine, h.notices, h.backup, h.blank⟩

theorem evict (h : d.Sound) (s : Option Station) : (d.evict s).1.Sound := by
  unfold Device.evict
  split
  · exact h
  · exact h.removeHeard ..
  · exact (h.removeHeard _ _).withFreeCount _

theorem makeRoom (h : d.Sound) (s : Option Station) : (d.makeRoom s).1.Sound := by
  unfold Device.makeRoom
  split
  · exact h
  · exact h.evict s

end Device.Sound

/-! ## Room in the claim map (R50) -/

@[simp] theorem clearRival_length (c : Cell) (st : Station) :
    (d.clearRival c st).claims.entries.length = d.claims.entries.length := List.length_map ..

theorem removeHeard_length_lt {x : Claim} (hx : x ∈ d.claims.entries) (hown : x.own = none) :
    (d.removeHeard x.cell x.claimant).claims.entries.length < d.claims.entries.length := by
  refine lt_of_eq_of_lt (clearRival_length _ _) ?_
  exact List.length_filter_lt_length_iff_exists.mpr ⟨x, hx, by simp [hown]⟩

theorem mem_evictionTies {l : List Claim} {x : Claim} (h : x ∈ evictionTies l) : x ∈ l :=
  List.mem_of_mem_filter (List.mem_of_mem_filter h)

theorem evictionTies_ne_nil {l : List Claim} (hl : l ≠ []) : evictionTies l ≠ [] := by
  obtain ⟨x, hx, hm⟩ := maxNat_mem (fun x : Claim => x.age) hl
  have ho : (l.filter fun x => x.age == maxNat (l.map (·.age))) ≠ [] :=
    List.ne_nil_of_mem (List.mem_filter.mpr ⟨hx, by simpa using hm⟩)
  obtain ⟨y, hy, hn⟩ := maxNat_mem (fun x : Claim => x.claimant.toNat) ho
  exact List.ne_nil_of_mem (List.mem_filter.mpr ⟨hy, by simpa using hn⟩)

/-- R50: an eviction takes one heard entry, when there is one it may take. -/
theorem evict_cases (d : Device) {s : Option Station} (hne : d.evictable s ≠ []) :
    ∃ x ∈ d.claims.entries, x.own = none ∧ some x.claimant ≠ s ∧
      (d.evict s).1.claims = (d.removeHeard x.cell x.claimant).claims ∧ (d.evict s).2 = [x.cell] := by
  have hmem {x : Claim} (hx : x ∈ evictionTies (d.evictable s)) : x ∈ d.claims.entries ∧ x.own = none ∧ some x.claimant ≠ s := by
    obtain ⟨hx, hp⟩ := List.mem_filter.mp (mem_evictionTies hx)
    exact ⟨hx, by simpa using hp⟩
  unfold Device.evict
  split
  · next hties => exact absurd hties (evictionTies_ne_nil hne)
  · next x hties =>
    obtain ⟨hx, hown, hs⟩ := hmem (hties ▸ List.mem_singleton.mpr rfl)
    exact ⟨x, hx, hown, hs, rfl, rfl⟩
  · next x y rest hties =>
    have hget (n : Nat) : (x :: y :: rest).getD (n % (x :: y :: rest).length) x ∈ x :: y :: rest := by
      rw [List.getD_eq_getElem _ _ (Nat.mod_lt _ (by simp))]
      exact List.getElem_mem _
    obtain ⟨hx, hown, hs⟩ := hmem (by rw [hties]; exact hget (Config.evictionTie d.freeCount ((x :: y :: rest).map (·.cell))))
    exact ⟨_, hx, hown, hs, rfl, rfl⟩

/-- R49, R50, R54: at most four entries are own, so that with few entries shielded a full map has one to give up. -/
theorem evictable_ne_nil (h : d.Sound) {s : Option Station} (hfull : Config.claimMapSize ≤ d.claims.entries.length)
    (hs : d.claims.entries.countP (fun x => x.own.isNone && some x.claimant == s) ≤ 4) : d.evictable s ≠ [] := by
  intro hnil
  have hall : ∀ x ∈ d.claims.entries, x.own.isSome = true ∨ (x.own.isNone && some x.claimant == s) = true := by
    intro x hx
    have := List.filter_eq_nil_iff.mp hnil x hx
    cases hown : x.own <;> simp_all
  have hle := length_le_countP_add hall
  have hlimit : d.claims.entries.countP (fun x => x.own.isSome) ≤ 4 := h.claims.limit
  have : 48 ≤ d.claims.entries.length := hfull
  omega

/-- R50: with few entries shielded there is room for one more. -/
theorem makeRoom_length (h : d.Sound) {s : Option Station}
    (hs : d.claims.entries.countP (fun x => x.own.isNone && some x.claimant == s) ≤ 4) :
    (d.makeRoom s).1.claims.entries.length < Config.claimMapSize := by
  unfold Device.makeRoom
  split
  · assumption
  · next hfull =>
    obtain ⟨x, hx, hown, -, he, -⟩ := evict_cases d (evictable_ne_nil h (Nat.le_of_not_lt hfull) hs)
    rw [he]
    exact (removeHeard_length_lt hx hown).trans_le h.claims.size

theorem makeRoom_length_none (h : d.Sound) : (d.makeRoom none).1.claims.entries.length < Config.claimMapSize :=
  makeRoom_length h (le_of_eq_of_le (List.countP_eq_zero.mpr fun x _ => by simp) (Nat.zero_le 4))

/-- The number of own entries: what heard entries do leaves it. -/
theorem removeHeard_ownCount (c : Cell) (st : Station) : (d.removeHeard c st).ownCount = d.ownCount := by
  simp only [Device.ownCount, Device.ownClaims, ← List.countP_eq_length_filter]
  simp only [Device.removeHeard, Device.clearRival, Device.modOwn, Device.withEntries, withClaims_claims, List.countP_map,
    List.countP_filter]
  refine List.countP_congr fun x _ => ?_
  cases hown : x.own <;> simp [hown]
  split <;> simp [hown]

theorem makeRoom_ownCount (s : Option Station) : (d.makeRoom s).1.ownCount = d.ownCount := by
  unfold Device.makeRoom
  split
  · rfl
  · by_cases hne : d.evictable s = []
    · unfold Device.evict
      rw [hne]
      rfl
    · obtain ⟨x, -, -, -, he, -⟩ := evict_cases d hne
      simp only [Device.ownCount, Device.ownClaims, he]
      exact removeHeard_ownCount x.cell x.claimant

theorem ownCount_eq_countP (d : Device) : d.ownCount = d.claims.entries.countP fun x => x.own.isSome :=
  List.countP_eq_length_filter.symm

end Sys2Proof.Machine
end

section
/-! PROOF. Requests that shorten a run (R133, R134), and those that make a giver record: POST HANDOVER (R93) and NEXT ENTRY (R129). -/

namespace Sys2Proof.Machine

variable {s : State} {d : Device} {i : Nat} {r : Record} {o : OutcomePair}

/-! ## The end of a run with room for its notice (R68, R136) -/

theorem owingSlot_of_canNotify (h : d.canNotify) : d.owingSlot = none := by
  have howes : d.owes = false := h.2.1
  simp only [Device.owes, Bool.or_eq_false_iff, Option.isSome_eq_false_iff, Option.isNone_iff_eq_none] at howes
  exact howes.1

/-- R68: the run hold lingers, when no request waits for it. -/
theorem runHoldEnds_of_noneStaking (h : d.noneStaking) : d.runHoldEnds = d.withEntries d.holdLingers := by
  unfold Device.runHoldEnds Device.holdLingers
  cases d.claimOfUse .runHold with
  | none => rfl
  | some x => exact retryReleased_of_noneStaking (d := d.lingerStake x.cell) h x.cell

/-- R136, R159: with nobody waiting and room for a notice, a run ends, its hold lingers and RUN_ENDED is queued. -/
theorem endRun_of_room (hs : d.noneStaking) (hn : d.canNotify) (o : OutcomePair) :
    d.endRun o = { d with
      engine := { d.engine with run := d.runOver o },
      claims := { d.claims with entries := d.holdLingers },
      link := d.notified
        { kind := .runEnded, outcome := o, slot := none, tag := none, values := (d.runOver o).endValues, station := 0 } } := by
  let f := (d.withRun (d.engine.run.finish o)).withEntries d.holdLingers
  have hhold : (d.withRun (d.engine.run.finish o)).runHoldEnds = f := runHoldEnds_of_noneStaking hs
  have hnone : f.owingSlot = none := owingSlot_of_canNotify (d := d) hn
  have hmove := moveOne_of_run hnone rfl
  have hquiet := (owes_eq_false.mp hn.2.1).1
  have hdone : f.moveOne.Settled := by
    refine .inl (owes_eq_false.mpr ⟨fun i r hr => hquiet i r ?_, ?_⟩) <;> rw [hmove] at *
    · exact hr
    · exact fun h => nomatch h
  have howes : f.owes = true := by simp [Device.owes, show f.engine.run.mark = .owed from rfl]
  rw [Device.endRun, hhold, moveOwed_once (d := f) hn.1 hn.2.2 howes hdone, hmove]
  rfl

/-- R133: what END RUN answers in each state of the run. -/
theorem endRun_answers (s : State) (hs : s.ready) (hconf : s.peers.state ≠ .unconfigured) :
    (s.engine.run.state ≠ .awaitingNext → s.engine.run.state ≠ .inEntry →
      exec .endRun s = .next (s.answered s.toDevice ⟨⟨.refused, .wrongState⟩, []⟩)) ∧
    (s.engine.run.state = .inEntry →
      exec .endRun s = .next (s.answered
        { s.toDevice with engine := { s.engine with run := { s.engine.run with state := .ending } } } ⟨⟨.done, .ok⟩, []⟩)) ∧
    (s.engine.run.state = .awaitingNext → s.noneStaking → s.canNotify →
      exec .endRun s = .next (s.answered (s.endRun ⟨.done, .terminated⟩) ⟨⟨.done, .ok⟩, []⟩)) := by
  have hperform (l : DriveLink) : (s.withLink l).perform .endRun =
      match s.engine.run.state with
      | .awaitingNext => ((s.withLink l).endRun ⟨.done, .terminated⟩, okay [])
      | .inEntry => ((s.withLink l).withRun { s.engine.run with state := .ending }, okay [])
      | _ => (s.withLink l).refuse .wrongState := by
    show Device.reqEndRun _ = _
    unfold Device.reqEndRun
    rw [if_neg (by simp [configured_withLink hconf l])]
    rfl
  refine ⟨fun h1 h2 => request_refused hs .endRun fun l => ?_, fun h => request_done hs .endRun rfl fun l => ?_, fun h hnone hnotify =>
    request_told hs .endRun fun g st => ?_⟩
  · rw [hperform]
    split
    · exact absurd ‹_› h1
    · exact absurd ‹_› h2
    · rfl
  · rw [hperform, h]
    rfl
  · rw [hperform, h]
    dsimp only
    rw [endRun_of_room (d := s.withLink (s.link.asking g st)) hnone hnotify, endRun_of_room hnone hnotify]
    rfl

/-! ## Withdrawing an entry (R131, R134) -/

section Withdraw

variable {run : RunList} {n : Nat} {x : RunEntry}

theorem entry_of_some (hn : n ≠ 0) (h : run.entries[n - 1]? = some x) : run.entry n = some x := by
  simp [RunList.entry, hn, h]

theorem entry_setEntry_self {y : EntryState} (hn : n ≠ 0) (h : run.entries[n - 1]? = some x) :
    (run.setEntry n y).entry n = some { x with state := y } := by
  simp [RunList.entry, hn, RunList.setEntry, h]

theorem setEntry_twice (run : RunList) (n : Nat) (y z : EntryState) : (run.setEntry n y).setEntry n z = run.setEntry n z := by
  simp only [RunList.setEntry, List.modify_modify_eq]
  rfl

/-- The entry behind one that is rewritten. -/
theorem entry_setEntry_succ {y : RunEntry} {z : EntryState} (hn : n ≠ 0) (h : run.entries[n]? = some y) :
    (run.setEntry n z).entry (n + 1) = some y := by
  have hne : n - 1 ≠ n := by omega
  simp [RunList.entry, RunList.setEntry, h, hne]

theorem verdict_of_waiting (h : run.entry run.next = some x) (hx : x.state = .waiting) : run.verdict = .goesOn := by
  simp [RunList.verdict, h, hx]

/-- R131: a withdrawn entry at the next ordinal is SKIPPED with the skip flag, and the run stops at a waiting one behind it. -/
theorem advanced_skips (hn : n ≠ 0) (hnext : run.next = n) (hskip : run.skip = true) (h : run.entry n = some x) (hx : x.state = .withdrawn)
    {y : RunEntry} (hy : run.entries[n]? = some y) (hwait : y.state = .waiting) :
    run.advanced = { run.setEntry n .skipped with next := n + 1 } := by
  have hsecond : ({ run.setEntry n .skipped with next := n + 1 } : RunList).entry (n + 1) = some y := entry_setEntry_succ hn hy
  have hlen : 0 < run.entries.length := (Nat.zero_le _).trans_lt (List.getElem?_eq_some_iff.mp hy).1
  obtain ⟨k, hk⟩ : ∃ k, run.entries.length = k + 1 := ⟨run.entries.length - 1, by omega⟩
  unfold RunList.advanced
  rw [hk, skipWithdrawn, hnext, h]
  simp only [hx, hskip, and_self, if_true]
  rw [skipWithdrawn]
  simp only [hsecond, hwait, reduceCtorEq, false_and, if_false]

/-- R131: an entry at the next ordinal that is not withdrawn, or the end of the list, stops the run where it stands. -/
theorem advanced_stays (h : ∀ x, run.entry run.next = some x → ¬(x.state = .withdrawn ∧ run.skip = true)) : run.advanced = run := by
  unfold RunList.advanced
  rw [skipWithdrawn]
  split
  · next x hx => rw [if_neg (h x hx)]
  · rfl

/-- R131: without the skip flag the run meets the withdrawn entry where it stands. -/
theorem advanced_meets (hskip : run.skip = false) (h : run.entry run.next = some x) (hx : x.state = .withdrawn) :
    run.advanced = run ∧ run.verdict = .ends ⟨.failed, .withdrawnMet⟩ :=
  ⟨advanced_stays fun _ _ hw => by simp [hskip] at hw, by simp [RunList.verdict, h, hx]⟩

end Withdraw

theorem runOver_entries (d : Device) (o : OutcomePair) : ∀ x ∈ (d.runOver o).entries, x.state ≠ .waiting := by
  intro x hx
  obtain ⟨y, -, rfl⟩ := List.mem_map.mp hx
  split
  · simp
  · assumption

/-- Settles O30. -/
theorem runsEndAndEntriesAreWithdrawn : Obligations.RunsEndAndEntriesAreWithdrawn := by
  refine ⟨fun s hs hconf => ?_, fun s ordinal x hs hconf => ?_⟩
  · obtain ⟨hrefused, hending, hend⟩ := endRun_answers s hs hconf
    refine ⟨hrefused, hending, fun h hnone hnotify => ?_⟩
    rw [hend h hnone hnotify, endRun_of_room hnone hnotify]
  · have hperform (l : DriveLink) : (s.withLink l).perform (.withdrawEntry ordinal) =
        if s.engine.run.state = .none ∨ s.engine.run.state = .ended then (s.withLink l).refuse .wrongState
        else
          match s.engine.run.entry ordinal.toNat with
          | none => (s.withLink l).refuse .badParam
          | some x =>
            if x.state ≠ .waiting ∨ ordinal.toNat < s.engine.run.next then (s.withLink l).refuse .wrongState
            else
              let d := (s.withLink l).withRun (s.engine.run.setEntry ordinal.toNat .withdrawn)
              let d := if s.engine.run.state = .awaitingNext ∧ ordinal.toNat = s.engine.run.next then (d.advanceRun false).1 else d
              (d, okay [byteOf d.engine.run.state.code, byteOf d.engine.run.next]) := by
      show Device.reqWithdrawEntry _ _ = _
      unfold Device.reqWithdrawEntry
      dsimp only
      rw [if_neg (by simp [configured_withLink hconf l])]
      rfl
    refine ⟨fun hidle => request_refused hs (.withdrawEntry ordinal) fun l => by rw [hperform, if_pos hidle], fun h1 h2 h0 hx => ?_⟩
    intro entriesWith
    have hn : ordinal.toNat ≠ 0 := fun h => h0 (BitVec.eq_of_toNat_eq h)
    have hentry := entry_of_some hn hx
    have hlive : ¬(s.engine.run.state = .none ∨ s.engine.run.state = .ended) := by tauto
    refine ⟨fun hpast => ?_, fun hwait hle hfar => ?_, fun hwait hnext hstate hskip y hy hywait => ?_,
      fun hwait hnext hstate hskip hnone hnotify => ?_⟩
    · refine request_refused hs (.withdrawEntry ordinal) fun l => ?_
      rw [hperform, if_neg hlive, hentry]
      exact if_pos hpast
    all_goals have hopen : ¬(x.state ≠ .waiting ∨ ordinal.toNat < s.engine.run.next) := by simp [hwait]; omega
    · refine request_done hs (.withdrawEntry ordinal) rfl fun l => ?_
      rw [hperform, if_neg hlive, hentry]
      dsimp only
      rw [if_neg hopen, if_neg (fun h => hfar.elim (fun hf => hf h.1) fun hf => by omega)]
      rfl
    · refine request_done hs (.withdrawEntry ordinal) rfl fun l => ?_
      have hadv : (s.engine.run.setEntry ordinal.toNat .withdrawn).advanced = _ :=
        advanced_skips (run := s.engine.run.setEntry ordinal.toNat .withdrawn) hn hnext hskip (entry_setEntry_self hn hx) rfl
          (entry_setEntry_succ hn hy) hywait
      rw [setEntry_twice] at hadv
      have hgoes : ((s.withLink l).withRun (s.engine.run.setEntry ordinal.toNat .withdrawn)).engine.run.advanced.verdict = .goesOn := by
        show (s.engine.run.setEntry ordinal.toNat .withdrawn).advanced.verdict = _
        rw [hadv]
        exact verdict_of_waiting (entry_setEntry_succ hn hy) hywait
      rw [hperform, if_neg hlive, hentry]
      dsimp only
      rw [if_neg hopen, if_pos ⟨hstate, hnext.symm⟩, advanceRun_of_goesOn false hgoes]
      have hrun : ((s.withLink l).withRun (s.engine.run.setEntry ordinal.toNat .withdrawn)).engine.run.advanced =
          { s.engine.run.setEntry ordinal.toNat .skipped with next := ordinal.toNat + 1 } := hadv
      have hsame : ({ s.engine.run with entries := entriesWith .skipped, next := ordinal.toNat + 1 } : RunList) =
          { s.engine.run with state := .awaitingNext, entries := entriesWith .skipped, next := ordinal.toNat + 1 } := by rw [← hstate]
      rw [hrun, hsame]
      rfl
    · let run := s.engine.run.setEntry ordinal.toNat .withdrawn
      have hmet : run.entry run.next = _ := (congrArg run.entry hnext).trans (entry_setEntry_self hn hx)
      obtain ⟨hadv, hverdict⟩ := advanced_meets (run := run) hskip hmet rfl
      have hends (l : DriveLink) : (((s.withLink l).withRun run).advanceRun false).1 =
          ((s.withLink l).withRun run).endRun ⟨.failed, .withdrawnMet⟩ := by
        rw [advanceRun_of_ends (o := ⟨.failed, .withdrawnMet⟩)]
        · show (((s.withLink l).withRun run).withRun run.advanced).endRun _ = _
          rw [hadv]
          rfl
        · show run.advanced.verdict = _
          rw [hadv, hverdict]
      have hroom (g : List Byte) (st : Byte) :=
        endRun_of_room (d := (s.withLink (s.link.asking g st)).withRun run) hnone hnotify ⟨.failed, .withdrawnMet⟩
      have hself := endRun_of_room (d := s.withRun run) hnone hnotify ⟨.failed, .withdrawnMet⟩
      have hordinal : BitVec.ofNat 8 ordinal.toNat = ordinal := by simp
      refine ⟨(s.withRun run).endRun ⟨.failed, .withdrawnMet⟩, request_told hs (.withdrawEntry ordinal) fun g st => ?_, ?_⟩
      · rw [hperform, if_neg hlive, hentry]
        dsimp only
        rw [if_neg hopen, if_pos ⟨hstate, hnext.symm⟩, hends, hroom, hself]
        refine congrArg (Prod.mk _) (congrArg okay ?_)
        show [byteOf 4, byteOf s.engine.run.next] = [4, ordinal]
        rw [hnext, byteOf, byteOf, hordinal]
        rfl
      · rw [hself]
        exact ⟨rfl, rfl, hnext, rfl, runOver_entries (s.withRun run) _, rfl, rfl, _, List.mem_append_right _ (List.mem_singleton.mpr rfl),
          rfl, rfl⟩

end Sys2Proof.Machine
end

section
/-! PROOF. The requests that make a giver record: POST HANDOVER (R91, R93, R55, R56) and NEXT ENTRY (R129). -/

namespace Sys2Proof.Machine

variable {s : State} {d : Device} {i : Nat} {r : Record} {a : Account}

/-! ## A free tag (R91) -/

theorem slotOf_eq_none {t : Tag} : d.slotOf t = none ↔ ∀ j r, d.recordAt j = some r → r.tag ≠ t := by
  rw [slotOf_eq_none_iff]
  simp only [List.mem_filterMap, Option.map_eq_some_iff, not_exists, not_and]
  constructor
  · intro h j r hr ht
    exact h _ (List.mem_of_getElem? ((recordAt_eq d j r).mp hr)) r rfl ht
  · intro h x hx r hr ht
    obtain ⟨j, hj⟩ := List.mem_iff_getElem?.mp hx
    exact h j r ((recordAt_eq d j r).mpr (by rw [hj, hr])) ht

/-- While the sequence found is taken, all those tried were. -/
theorem slotOf_of_findSeq {n : Nat} {q : Byte} (h : d.slotOf ⟨d.own, findSeq d n q⟩ ≠ none) (k : Nat) (hk : k < n) :
    d.slotOf ⟨d.own, q + BitVec.ofNat 8 k⟩ ≠ none := by
  induction n generalizing q k with
  | zero => omega
  | succ n ih =>
    have htaken : ¬(d.slotOf ⟨d.own, q⟩).isNone = true := by
      intro hfree
      rw [findSeq, if_pos hfree] at h
      exact h (Option.isNone_iff_eq_none.mp hfree)
    rw [findSeq, if_neg htaken] at h
    cases k with
    | zero => simpa using htaken
    | succ k =>
      have hnext : q + 1#8 + BitVec.ofNat 8 k = q + BitVec.ofNat 8 (k + 1) := by
        rw [BitVec.add_assoc, BitVec.add_comm 1#8, ← BitVec.ofNat_add]
      rw [← hnext]
      exact ih h k (by omega)

/-- R91: the table's 16 records leave one of 17 sequences free. -/
theorem slotOf_newTag (h : d.engine.table.length ≤ 16) : d.slotOf d.newTag = none := by
  by_contra hne
  have htaken (k : Fin 17) : ∃ j : Fin 16, ∃ r, d.recordAt j = some r ∧
      r.tag = ⟨d.own, d.engine.tagCounter + BitVec.ofNat 8 k⟩ := by
    obtain ⟨j, hj⟩ := Option.ne_none_iff_exists'.mp (slotOf_of_findSeq hne k k.isLt)
    obtain ⟨r, hr, ht⟩ := recordAt_of_slotOf hj
    exact ⟨⟨j, (recordAt_lt d hr).trans_le h⟩, r, hr, ht⟩
  choose f r hr ht using htaken
  have hinj : Function.Injective f := by
    intro k m hkm
    have hsame : r k = r m := Option.some.inj ((hr k).symm.trans (by rw [hkm]; exact hr m))
    have hseq : d.engine.tagCounter + BitVec.ofNat 8 k = d.engine.tagCounter + BitVec.ofNat 8 m :=
      congrArg Tag.seq ((ht k).symm.trans (hsame ▸ ht m))
    have hnat := congrArg BitVec.toNat hseq
    simp only [BitVec.toNat_add, BitVec.toNat_ofNat] at hnat
    exact Fin.ext (by omega)
  have := Fintype.card_le_of_injective f hinj
  simp at this

/-- R91: a counter that no record carries is the new record's sequence. -/
theorem newTag_of_free (h : ∀ j r, d.recordAt j = some r → r.tag ≠ ⟨d.line.station, d.engine.tagCounter⟩) :
    d.newTag = ⟨d.line.station, d.engine.tagCounter⟩ := by
  have hfree : (d.slotOf ⟨d.own, d.engine.tagCounter⟩).isNone = true := Option.isNone_iff_eq_none.mpr (slotOf_eq_none.mpr h)
  have hseq : findSeq d (Config.slotCount + 1) d.engine.tagCounter = d.engine.tagCounter := by rw [findSeq, if_pos hfree]
  rw [Device.newTag, hseq]
  rfl

/-! ## The record made (R93, R129) -/

theorem freeSlot_lt (h : d.freeSlot = some i) : i < d.engine.table.length := (List.findIdx?_eq_some_iff_getElem.mp h).1

/-- R80, R93: the part with a new record, the tag counter past its tag and the staking wait at 0. -/
def Device.made (d : Device) (i : Nat) (q : Record) (a : Account) : Device :=
  { d with
    engine := { d.tableWith i q with tagCounter := q.tag.seq + 1#8 },
    accounts := { d.accounts with hoist := some { a with wait := 0 } } }

theorem made_recordAt (h : i < d.engine.table.length) (q : Record) : (d.made i q a).recordAt i = some q :=
  recordAt_setSlot_self d (some q) h

theorem made_setSlot (d : Device) (i : Nat) (q : Record) (a : Account) {q' : Record} (h : q'.tag = q.tag) :
    (d.made i q a).setSlot i (some q') = d.made i q' a := by
  simp [Device.made, Device.setSlot, Device.withTable, Device.withEngine, Device.tableWith, h]

/-- R93: the record made is PENDING outside ACTIVE, and is tried at once in ACTIVE. -/
theorem createGiver_eq (ha : d.accounts.hoist = some a) (b : Account) (c : Cell) (taker : Station) (n : Nat) :
    d.createGiver i b c taker n =
      if d.isActive then (d.made i (Record.new d.newTag (.giver .pending) taker b.bin b.cls c n) a).enterStaking i
      else d.made i (Record.new d.newTag (.giver .pending) taker b.bin b.cls c n) a := by
  have hmade : Device.clearWait ((d.withEngine { d.engine with tagCounter := d.newTag.seq + 1#8 }).setSlot i
      (some (Record.new d.newTag (.giver .pending) taker b.bin b.cls c n))) =
        d.made i (Record.new d.newTag (.giver .pending) taker b.bin b.cls c n) a := by
    simp only [Device.clearWait, setSlot_accounts, withEngine_accounts, ha]
    rfl
  unfold Device.createGiver
  dsimp only
  rw [hmade]
  rfl

theorem createGiver_of_not_active (ha : d.accounts.hoist = some a) (hidle : d.peers.state ≠ .active) (b : Account) (c : Cell)
    (taker : Station) (n : Nat) :
    d.createGiver i b c taker n = d.made i (Record.new d.newTag (.giver .pending) taker b.bin b.cls c n) a := by
  rw [createGiver_eq ha, if_neg (by simpa [Device.isActive] using hidle)]

theorem createGiver_of_active (ha : d.accounts.hoist = some a) (hi : i < d.engine.table.length) (hactive : d.peers.state = .active)
    (b : Account) (c : Cell) (taker : Station) (n : Nat) :
    d.createGiver i b c taker n = attempt 17 i (d.made i (Record.new d.newTag (.giver .staking) taker b.bin b.cls c n) a) := by
  rw [createGiver_eq ha, if_pos (by simpa [Device.isActive] using hactive)]
  have hpending := made_recordAt (a := a) hi (Record.new d.newTag (.giver .pending) taker b.bin b.cls c n)
  exact congrArg (attempt 17 i) ((modRecord_of_record hpending _).trans (made_setSlot _ _ _ _ rfl))

/-! ## A staking attempt (R56) -/

/-- The heard claims on a cell. -/
def Device.rivals (d : Device) (c : Cell) : List Claim := d.claims.entries.filter fun x => x.own.isNone && x.cell == c

section Attempt

variable (n : Nat) (hr : d.recordAt i = some r) (hst : r.state = .giver .staking) (ha : d.peers.state = .active)

include hr hst ha

theorem attempt_of_own {x : Claim} (hx : d.ownClaim r.cell = some x) :
    attempt (n + 1) i d = if mayTake r x then d.passStake r.cell i r.tag else d.setRequest i .ownUse := by
  simp [attempt, hr, hst, Device.isActive, ha, hx]

variable (hown : d.ownClaim r.cell = none) (hlimit : d.ownCount < 4)

include hown hlimit

theorem attempt_of_blocked (hb : ∃ x ∈ d.rivals r.cell, x.phase ≠ .contested) : attempt (n + 1) i d = d.setRequest i .blocked := by
  have hany : ((d.claims.entries.filter fun x => x.own.isNone && x.cell == r.cell).any fun x => x.phase != .contested) = true := by
    obtain ⟨x, hx, hp⟩ := hb
    exact List.any_eq_true.mpr ⟨x, hx, by simpa using hp⟩
  have hlim : ¬Config.ownStakeLimit ≤ d.ownCount := by simpa [Config.ownStakeLimit] using hlimit
  simp only [attempt, hr, hst, Device.isActive, ha, hown, hlim, hany, if_true, if_false, beq_self_eq_true, and_self]

/-- R56, step 6: a free cell is staked. -/
theorem attempt_of_free (hfree : d.rivals r.cell = []) (hroom : (d.stakeCell i r (d.recordKey r)).2 = []) :
    attempt (n + 1) i d = (d.stakeCell i r (d.recordKey r)).1 := by
  have hnone : (d.claims.entries.filter fun x => x.own.isNone && x.cell == r.cell) = [] := hfree
  have hlim : ¬Config.ownStakeLimit ≤ d.ownCount := by simpa [Config.ownStakeLimit] using hlimit
  simp [attempt, hr, hst, Device.isActive, ha, hown, hlim, hnone, hroom]

end Attempt

/-- R56: a stake made with room in the map and in the queue. -/
theorem stakeCell_of_room (hr : d.recordAt i = some r) (hmap : d.claims.entries.length < 48) (hsend : d.canSend) (key : Nat) :
    d.stakeCell i r key = ({ d with
      line := d.sent .claimMap (.stake { cell := r.cell, tag := r.tag, key := BitVec.ofNat 16 key }),
      engine := d.tableWith i { r with frozenKey := some key, request := some .contesting },
      claims := { d.claims with
        entries := insertClaim
          { cell := r.cell, claimant := d.line.station, tag := r.tag, key := key, phase := .contested, age := 0,
            own := some { use := .slot i, outcome := some (.awaited d.line.seqCounter), settle := none, linger := none, rival := none } }
          d.claims.entries } }, []) := by
  have hroom : d.makeRoom none = (d, []) := if_pos hmap
  unfold Device.stakeCell
  rw [hroom]
  dsimp only
  rw [modRecord_of_record hr, offer_of_room (d := d.setSlot i _) hsend .claimMap rfl]
  rfl

theorem ownClaim_eq_none {c : Cell} (h : ∀ x ∈ d.claims.entries, x.own ≠ none → x.cell ≠ c) : d.ownClaim c = none := by
  rw [Device.ownClaim, List.find?_eq_none]
  intro x hx
  simpa [Option.isSome_iff_ne_none] using h x hx

/-- K of an account that has not waited is its slack (R81). -/
theorem recordKey_of_fresh (h : d.accounts.hoist = some { a with wait := 0 }) (hbin : a.bin = r.bin) : d.recordKey r = a.slack := by
  simp only [Device.recordKey, h, hbin, if_true]
  show Account.slack { a with wait := 0 } - min Config.creditMax (0 / 2) = _
  simp only [Nat.zero_div, Nat.min_zero, Nat.sub_zero]
  rfl

/-! ## POST HANDOVER (R93) -/

/-- R93: the checks of POST HANDOVER pass. -/
theorem perform_postHandover (hconf : s.peers.state ≠ .unconfigured) (ha : s.accounts.hoist = some a) (hfree : ¬s.offersBin a.bin)
    (hi : s.freeSlot = some i) {row col taker : Byte} (hrow : row.toNat < 64) (hcol : col.toNat < 64) (htaker : taker.toNat ≤ 31)
    (hother : taker ≠ s.line.station) (l : DriveLink) :
    (s.withLink l).perform (.postHandover ⟨row, col⟩ taker) =
      ((s.withLink l).createGiver i a ⟨row, col⟩ taker 0, okay (slotTagBytes i s.newTag)) := by
  have hgives : (s.withLink l).givesBin a.bin = false := Bool.eq_false_iff.mpr (mt (givesBin_iff _ _).mp hfree)
  have hgood : (s.withLink l).takerBad taker = false :=
    Bool.eq_false_iff.mpr fun h => ((takerBad_iff _ _).mp h).elim (Nat.not_lt.mpr htaker) hother
  have hgrid : (⟨row, col⟩ : Cell).onGrid = true := by simp [Cell.onGrid, hrow, hcol]
  have hslot : (s.withLink l).freeSlot = some i := hi
  show Device.reqPostHandover _ _ _ = _
  unfold Device.reqPostHandover
  simp only [configured_withLink hconf l, withLink_accounts, ha, hslot, hgives, hgood, hgrid, Bool.not_true, Bool.false_eq_true, if_false]
  rfl

/-- Settles O20. -/
theorem postHandoverOutsideActiveIsPending : Obligations.PostHandoverOutsideActiveIsPending := by
  intro s row col taker a i hs hconf hidle ha hfree hi hlen hrow hcol htaker hother
  refine ⟨s.newTag, rfl, slotOf_eq_none.mp (slotOf_newTag hlen), fun h => congrArg Tag.seq (newTag_of_free h),
    request_done hs (.postHandover ⟨row, col⟩ taker) rfl fun l => ?_⟩
  rw [perform_postHandover hconf ha hfree hi hrow hcol htaker hother, createGiver_of_not_active (d := s.withLink l) ha hidle]
  rfl

/-- Settles O21. -/
theorem postHandoverInActiveStakes : Obligations.PostHandoverInActiveStakes := by
  intro s row col taker a i hs hactive ha hfree hi htag hrow hcol htaker hother hown hlimit t new reply
  have hconf : s.peers.state ≠ .unconfigured := by simp [hactive]
  have hlt := freeSlot_lt hi
  have hnew : s.newTag = t := newTag_of_free htag
  let m (l : DriveLink) : Device := (s.withLink l).made i new a
  have hrec (l : DriveLink) : (m l).recordAt i = some new := made_recordAt (d := s.withLink l) hlt new
  have hperform (l : DriveLink) : (s.withLink l).perform (.postHandover ⟨row, col⟩ taker) = (attempt 17 i (m l), reply) := by
    have hnewl : (s.withLink l).newTag = t := hnew
    rw [perform_postHandover hconf ha hfree hi hrow hcol htaker hother, createGiver_of_active (d := s.withLink l) ha hlt hactive, hnewl,
      hnew]
    rfl
  have hnone (l : DriveLink) : (m l).ownClaim new.cell = none := ownClaim_eq_none (d := m l) hown
  refine ⟨fun hclear hroom hsend => ?_, fun hheld => ?_⟩
  · refine request_done hs (.postHandover ⟨row, col⟩ taker) rfl fun l => ?_
    have hrivals : (m l).rivals new.cell = [] := by
      rw [Device.rivals, List.filter_eq_nil_iff]
      intro x hx
      simp [hclear x hx, new, Record.new]
    have hkey : (m l).recordKey new = a.slack := recordKey_of_fresh (d := m l) rfl rfl
    have hstake := stakeCell_of_room (d := m l) (hrec l) hroom hsend a.slack
    rw [hperform, attempt_of_free 16 (hrec l) rfl hactive (hnone l) hlimit hrivals (by rw [hkey, hstake]), hkey, hstake]
    have hengine := congrArg Device.engine (made_setSlot (s.withLink l) i new a
      (q' := { new with frozenKey := some a.slack, request := some .contesting }) rfl)
    exact congrArg (fun x => (({ s.withLink l with
      accounts := _, claims := _, line := _, engine := x } : Device), reply)) hengine
  · refine request_done hs (.postHandover ⟨row, col⟩ taker) rfl fun l => ?_
    obtain ⟨x, hx, hcell, hphase⟩ := hheld
    have hheard : x.own = none := by
      by_contra hne
      exact hown x hx hne hcell
    have hblocked : ∃ x ∈ (m l).rivals new.cell, x.phase ≠ .contested :=
      ⟨x, List.mem_filter.mpr ⟨hx, by simp [hheard, hcell, new, Record.new]⟩, hphase⟩
    rw [hperform, attempt_of_blocked 16 (hrec l) rfl hactive (hnone l) hlimit hblocked]
    refine congrArg (fun d => (d, reply)) ?_
    exact (modRecord_of_record (hrec l) _).trans (made_setSlot (s.withLink l) i new a rfl)

/-! ## NEXT ENTRY (R129) -/

/-- Settles O29. -/
theorem nextEntryHandsTheEntryOver : Obligations.NextEntryHandsTheEntryOver := by
  intro s ordinal hs hconf
  refine ⟨fun h => ?_, fun h hne => ?_, fun a x i hstate hnext h0 hx ha => ⟨fun hwrong => ?_, fun hbin hcls hfree hi htag => ?_⟩⟩
  · exact request_refused hs (.nextEntry ordinal) fun l => by
      simp [Device.perform, Device.reqNextEntry, configured_withLink hconf l, h]
  · exact request_refused hs (.nextEntry ordinal) fun l => by
      simp [Device.perform, Device.reqNextEntry, configured_withLink hconf l, h, hne]
  all_goals
    have hn : ordinal.toNat ≠ 0 := fun h => h0 (BitVec.eq_of_toNat_eq h)
    have hentry := entry_of_some hn hx
  · exact request_refused hs (.nextEntry ordinal) fun l => by
      simp only [Device.perform, Device.reqNextEntry, configured_withLink hconf l, withLink_engine, withLink_accounts, hstate, hnext, ha,
        Bool.not_true, Bool.false_eq_true, if_false, not_true, ne_eq]
      rw [← hnext, hentry]
      exact if_pos hwrong
  · intro t run waits reply
    have hlt := freeSlot_lt hi
    have hnew : s.newTag = t := newTag_of_free htag
    let b (l : DriveLink) : Device := (s.withLink l).withRun run
    have hperform (l : DriveLink) : (s.withLink l).perform (.nextEntry ordinal) =
        ((b l).createGiver i a s.engine.run.cell x.taker ordinal.toNat, reply) := by
      have hgives : (s.withLink l).givesBin a.bin = false := Bool.eq_false_iff.mpr (mt (givesBin_iff _ _).mp hfree)
      have hslot : (s.withLink l).freeSlot = some i := hi
      show Device.reqNextEntry _ _ = _
      unfold Device.reqNextEntry
      simp only [configured_withLink hconf l, withLink_engine, withLink_accounts, hstate, hnext, ha,
        Bool.not_true, Bool.false_eq_true, if_false, not_true, ne_eq]
      rw [← hnext, hentry]
      simp only [hbin, hcls, not_true, or_self, if_false, hslot]
      rw [hbin] at hgives
      simp only [hgives, Bool.false_eq_true, if_false]
      have hreply : okay (slotTagBytes i (s.withLink l).newTag) = reply := congrArg (fun t => okay (slotTagBytes i t)) hnew
      rw [hreply]
      rfl
    have hnewb (l : DriveLink) : (b l).newTag = t := hnew
    refine ⟨fun hidle => request_done hs (.nextEntry ordinal) rfl fun l => ?_, fun y hactive hsend hy huse =>
      request_done hs (.nextEntry ordinal) rfl fun l => ?_⟩
    · rw [hperform, createGiver_of_not_active (d := b l) ha hidle, hnewb]
      rfl
    · let c := s.engine.run.cell
      let staking := Record.new t (.giver .staking) x.taker a.bin a.cls c ordinal.toNat
      let new := Record.new t (.giver .offering) x.taker a.bin a.cls c ordinal.toNat
      let m : Device := (b l).made i staking a
      let p : Device := (b l).made i new a |>.withEntries (s.passing c i t)
      have htake : mayTake staking y = true := by simp [mayTake, huse, staking, Record.new, hn]
      have hpass : m.passStake c i t = p.queueOffer i := by
        have hrec : (m.withEntries (s.passing c i t)).recordAt i = some staking := made_recordAt (d := b l) (a := a) hlt staking
        refine (enterOffering_of_active hrec hactive).trans (congrArg (Device.queueOffer · i) ?_)
        exact congrArg (Device.withEntries · (s.passing c i t)) (made_setSlot (b l) i staking a (q' := new) rfl)
      have hoffer : p.queueOffer i = _ := queueOffer_of_room (d := p) hsend (made_recordAt (d := b l) (a := a) hlt new)
      have hslack : p.recordSlack i new = a.slack :=
        recordSlack_of_account (a := { a with wait := 0 }) rfl rfl rfl
      have hordinal : byteOf ordinal.toNat = ordinal := by simp [byteOf]
      have hbody : p.offerBody i new = .offer
          { tag := t, bin := a.bin, cls := byteOf a.cls.code, slack := BitVec.ofNat 16 a.slack, cell := c, taker := x.taker,
            placed := 0, ordinal := ordinal } := by
        rw [Device.offerBody, hslack]
        exact congrArg (fun o => Body.offer { tag := t, ordinal := o, .. }) hordinal
      rw [hperform, createGiver_of_active (d := b l) ha hlt hactive, hnewb,
        attempt_of_own 16 (made_recordAt (d := b l) (a := a) hlt staking) rfl hactive (x := y) hy, if_pos htake]
      refine congrArg (fun d => (d, reply)) (hpass.trans (hoffer.trans ?_))
      rw [hbody]
      have hengine := congrArg Device.engine (made_setSlot (b l) i new a (q' := { new with offers := 1, addressed := true }) rfl)
      exact congrArg (fun x => ({ s.withLink l with accounts := waits, claims := _, line := _, engine := x } : Device)) hengine

end Sys2Proof.Machine
end

section
/-! PROOF. The windows of a record, of the run, of an adoption and of an open turn run out (R96, R115, R117, R130, R140, R144). -/

namespace Sys2Proof.Machine

variable {s : State} {d e : Device} {i : Nat} {r : Record} {o : OutcomePair} {v : Nat}

/-! ## An expiry that is due -/

theorem whenDue_of_due {p : Device → Bool} {f : Device → Device} (hrun : s.power.state = .run) (h : p s.toDevice = true) :
    act (whenDue p f) s = .next (s.after (f s.toDevice)) := by
  have hf : whenDue p f s.toDevice = f s.toDevice := if_pos (by simp [Device.running, hrun, h])
  exact congrArg (fun d => Host.Outcome.next (s.after d)) hf

/-! ## Room for a notice -/

/-- Staking and offering raise no notice. -/
theorem Stakes.canNotify (h : Stakes d e) (hn : d.canNotify) : e.canNotify := by
  induction h with
  | refl => exact hn
  | entries _ _ ih => exact ih
  | slot hr hadv _ ih => exact canNotify_setSlot ih hr (by rw [hadv.rest])
  | send _ _ _ _ _ ih => exact ih
  | free _ _ ih => exact ih

/-- R92, R159: the end of a giver record that no run serves, with room for its notice. -/
theorem endGiver_link (hr : d.recordAt i = some r) (h : ¬d.engine.run.Serves r.ordinal) (hn : d.canNotify) :
    (d.endGiver i o v).link = d.notified (r.notice i .ended o (bytesOfNat16 v)) := by
  have hgone : d.giverGone i r o v = (d.left i (r.giverEnded o v)).recordStakeEnds i false := by
    rw [Device.giverGone, runHears_of_other (d := d.left i _) h]
  have hstakes := recordStakeEnds_stakes (d.left i (r.giverEnded o v)) i false
  have hleft : (d.left i (r.giverEnded o v)).canNotify := canNotify_setSlot (q := r.giverEnded o v) hn hr rfl
  have hrec := hstakes.record_of_not_opening (left_recordAt hr _) giverEnded_not_opening
  rw [endGiver_eq hr, hgone, raise_of_room (hstakes.canNotify hleft) hrec (Bool.and_false _), hstakes.eq]
  rfl

/-! ## The offer window (R96) -/

theorem offerTick_of_record (hr : d.recordAt i = some r) (hs : r.state = .giver .offering) (h1 : 1 ≤ r.offers) :
    d.offerTick i =
      if r.timer + 1 = Config.offerSecond ∧ r.offers = 1 ∨ r.timer + 1 = Config.offerThird ∧ r.offers = 2 then
        (d.setSlot i (some { r with timer := r.timer + 1 })).queueOffer i
      else if r.timer + 1 = Config.offerWindow ∧ r.offers = 3 then
        (d.setSlot i (some { r with timer := r.timer + 1 })).offerWindowExpires i
      else d.setSlot i (some { r with timer := r.timer + 1 }) := by
  simp only [Device.offerTick, hr, hs, h1, and_self, if_true]
  split
  · next h => rw [if_pos (.inl h)]
  · next h => simp [h]

/-- R96: the window of three OFFERs runs out. -/
theorem offerTick_of_third (hr : d.recordAt i = some r) (hs : r.state = .giver .offering) (ht : r.timer = 5) (ho : r.offers = 3) :
    d.offerTick i =
      if r.placed then ((d.setSlot i (some (Record.unbound { r with timer := 6 }))).raisePartnerLost i .partnerMissing 0#8)
      else (d.setSlot i (some { r with timer := 6 })).endGiver i ⟨.failed, .partnerMissing⟩ d.hoistE := by
  rw [offerTick_of_record hr hs (by omega), ht, ho, if_neg (by decide), if_pos (by decide)]
  simp only [Device.offerWindowExpires, recordAt_setSlot_self d _ (recordAt_lt d hr), setSlot_twice]
  rfl

theorem raisePartnerLost_of_room {q : Record} {x : Detail} {n : Byte} (hn : d.canNotify) (hr : d.recordAt i = some r)
    (hq : q.notices = r.notices) (hend : q.isEnded = false) :
    (d.setSlot i (some q)).raisePartnerLost i x n =
      { d with engine := d.tableWith i q, link := d.notified (q.notice i .partnerLost ⟨.upset, x⟩ [n]) } := by
  unfold Device.raisePartnerLost
  rw [raise_of_room (canNotify_setSlot hn hr hq) (recordAt_setSlot_self d _ (recordAt_lt d hr)) (by simp [hend])]
  rfl

/-! ## The end of a taker record with room for its notice (R126) -/

theorem endTaker_of_room (hn : d.canNotify) (hr : d.recordAt i = some r) :
    d.endTaker i o = { d with
      accounts := (d.withoutShadow i r).accounts, engine := d.leftWith i (r.takerEnded o (d.shadowE i r)),
      link := d.notified (r.notice i .ended o (bytesOfNat16 (d.shadowE i r))) } := by
  let q := r.takerEnded o (d.shadowE i r)
  let e : Device := { d with accounts := (d.withoutShadow i r).accounts, engine := d.leftWith i q }
  have he : (d.withoutShadow i r).left i q = e := by rw [withoutShadow_eq]; rfl
  have hnotify : e.canNotify := canNotify_setSlot (q := q) hn hr rfl
  rw [endTaker_of_record hr, he, raise_of_room hnotify (recordAt_setSlot_self d _ (recordAt_lt d hr)) (Bool.and_false _)]
  rfl

theorem endTaker_of_room_before_ready (hn : d.canNotify) (hr : d.recordAt i = some r) (hs : r.state ≠ .taker .ready) :
    d.endTaker i o = { d with
      engine := d.leftWith i (r.takerEnded o 0), link := d.notified (r.notice i .ended o [0, 0]) } := by
  have hv : d.shadowE i r = 0 := if_neg hs
  rw [endTaker_of_room hn hr, withoutShadow_of_not_ready hs, hv]
  rfl

/-- A record whose timer has counted, ended: the slot is written once. -/
theorem endTaker_of_counted {t : Nat} (hn : d.canNotify) (hr : d.recordAt i = some r) (hs : r.state ≠ .taker .ready) :
    (d.setSlot i (some { r with timer := t })).endTaker i o = { d with
      engine := d.leftWith i (({ r with timer := t } : Record).takerEnded o 0), link := d.notified (r.notice i .ended o [0, 0]) } := by
  have hrec := recordAt_setSlot_self d (some { r with timer := t }) (recordAt_lt d hr)
  rw [endTaker_of_room_before_ready (canNotify_setSlot (q := { r with timer := t }) hn hr rfl) hrec hs]
  have hengine : (d.setSlot i (some { r with timer := t })).leftWith i (({ r with timer := t } : Record).takerEnded o 0) =
      d.leftWith i (({ r with timer := t } : Record).takerEnded o 0) := by
    simp only [Device.leftWith, Device.tableWith, Device.setSlot, Device.withTable, Device.withEngine, List.set_set]
    rfl
  rw [hengine]
  rfl

theorem answerTick_of_last (hr : d.recordAt i = some r) (hs : r.state = .taker .invited) (ht : r.timer = 3) :
    d.answerTick i = (Device.sendDecline (d.setSlot i (some { r with timer := 4 })) r.tag 2#8).endTaker i ⟨.refused, .noAnswer⟩ := by
  simp [Device.answerTick, hr, hs, ht, Config.answerWindow]

theorem agreedTick_of_last (hr : d.recordAt i = some r) (hs : r.state = .taker .agreed) (hf : r.agreeFrame = none) (ht : r.timer = 3) :
    d.agreedTick i = (d.setSlot i (some { r with timer := 4 })).endTaker i ⟨.failed, .partnerMissing⟩ := by
  simp [Device.agreedTick, hr, hs, hf, ht, Config.agreedWindow]

/-- Settles O39. -/
theorem recordWindowsRunOut : Obligations.RecordWindowsRunOut := by
  intro s i r hrun hr
  have hlt := recordAt_lt s.toDevice hr
  have hwindow (hs : r.state = .giver .offering) (ht : r.timer = 5) (ho : r.offers = 3) :
      exec (.offerWindowExpiry i) s = .next (s.after (s.offerTick i)) :=
    whenDue_of_due hrun (by simp [recordIs_of_record hr, offeringAt, hs, ht, ho])
  have hended (hs : r.state = .giver .offering) (ht : r.timer = 5) (ho : r.offers = 3) (hp : r.placed = false) :
      s.offerTick i = (s.setSlot i (some { r with timer := 6 })).endGiver i ⟨.failed, .partnerMissing⟩ s.hoistE := by
    rw [offerTick_of_third hr hs ht ho, hp, if_neg (by simp)]
  have hcount : (s.setSlot i (some { r with timer := 6 })).recordAt i = some { r with timer := 6 } := recordAt_setSlot_self _ _ hlt
  have hvalue : s.hoistE = accountE s.accounts.hoist := rfl
  refine ⟨fun a hs hdue hsend ha hbin => ?_, fun hs ht ho hp hn => ?_, fun hs ht ho hp hord hn => ?_, fun hs ht ho hp => ?_,
    fun hs ht hsend hn => ?_, fun hs hf ht hn => ?_⟩
  · let q : Record := { r with timer := r.timer + 1 }
    have htick : s.offerTick i = (s.setSlot i (some q)).queueOffer i := by
      rw [offerTick_of_record hr hs (by omega), if_pos]
      simp only [Config.offerSecond, Config.offerThird]
      omega
    have hslack : (s.setSlot i (some q)).recordSlack i q = a.slack := recordSlack_of_account hs ha hbin
    refine (whenDue_of_due hrun ?_).trans (congrArg (fun d => Host.Outcome.next (s.after d)) (htick.trans ?_))
    · rcases hdue with ⟨ht, ho⟩ | ⟨ht, ho⟩ <;> simp [recordIs_of_record hr, offeringAt, hs, ht, ho]
    · rw [queueOffer_of_room (d := s.setSlot i (some q)) hsend (recordAt_setSlot_self _ _ hlt), Device.offerBody, hslack, flagByte_eq]
      exact congrArg (fun x => ({ s.toDevice with line := _, engine := x } : Device))
        (congrArg Device.engine (setSlot_twice (d := s.toDevice) (i := i) (some q) (some { q with offers := r.offers + 1, addressed := true })))
  · have hthird := offerTick_of_third hr hs ht ho
    rw [if_pos hp] at hthird
    have htold := hthird.trans (raisePartnerLost_of_room (q := Record.unbound { r with timer := 6 }) hn hr rfl rfl)
    exact (hwindow hs ht ho).trans (congrArg (fun d => Host.Outcome.next (s.after d)) htold)
  · have hser : ¬(s.setSlot i (some { r with timer := 6 })).engine.run.Serves ({ r with timer := 6 } : Record).ordinal := fun h => h.1 hord
    obtain ⟨⟨q, hq, hqr⟩, -, hacc, hpeers, -⟩ := endGiver_ended (o := ⟨.failed, .partnerMissing⟩) (v := s.hoistE) hcount
    refine ⟨_, q, hwindow hs ht ho, ?_⟩
    rw [hended hs ht ho hp, endGiver_link hcount hser (canNotify_setSlot hn hr rfl)]
    exact ⟨hq, by rw [hqr]; rfl, by rw [hqr]; rfl, by rw [hqr]; rfl, by rw [hqr]; rfl, hacc, hpeers, rfl⟩
  · obtain ⟨⟨q, hq, hqr⟩, htells, hacc, hpeers, -⟩ := endGiver_ended (o := ⟨.failed, .partnerMissing⟩) (v := s.hoistE) hcount
    refine ⟨_, q, hwindow hs ht ho, ?_⟩
    rw [hended hs ht ho hp]
    refine ⟨hq, by rw [hqr]; rfl, by rw [hqr]; rfl, by rw [hqr]; rfl, by rw [hqr]; rfl, htells, hacc, hpeers, fun hours => ?_,
      fun hnot => ?_, fun hquiet x hx hphase hwait => ?_⟩
    · exact endGiver_run_of_failed (d := s.setSlot i (some { r with timer := 6 })) (r := { r with timer := 6 }) hrun hcount hours (by decide)
    · exact endGiver_run_of_other (d := s.setSlot i (some { r with timer := 6 })) (r := { r with timer := 6 }) hcount hnot
    · have hstake := endGiver_stake (d := s.setSlot i (some { r with timer := 6 })) (v := s.hoistE) hcount
        (runHears_of_not_done (o := ⟨.failed, .partnerMissing⟩) (by decide)) hquiet
      refine (hstake.2 x hx (.inr fun j q' hj hq' => hwait j q' ?_)).1 hphase
      rwa [recordAt_setSlot_of_ne _ _ (Ne.symm hj)] at hq'
  · refine (whenDue_of_due hrun (by simp [recordIs_of_record hr, hs, ht])).trans
      (congrArg (fun d => Host.Outcome.next (s.after d)) ?_)
    rw [answerTick_of_last hr hs ht, Device.sendDecline, sendAbsorbed_of_room (d := s.setSlot i _) hsend .engine rfl]
    exact endTaker_of_counted (d := s.withLine _) hn hr (by simp [hs])
  · refine (whenDue_of_due hrun (by simp [recordIs_of_record hr, hs, hf, ht])).trans
      (congrArg (fun d => Host.Outcome.next (s.after d)) ?_)
    rw [agreedTick_of_last hr hs hf ht, endTaker_of_counted hn hr (by simp [hs])]
    simp [Record.takerEnded, hf]

/-! ## The run and the adoption (R130, R140) -/

theorem serviceTick_of_last (ht : d.engine.run.timer = some 11) (hs : d.engine.run.state = .awaitingNext) :
    d.serviceTick = d.endRun ⟨.failed, .overrun⟩ := by
  simp [Device.serviceTick, ht, hs, Config.serviceWindow]

theorem endAdoption_of_room (hn : d.link.notices.length < Config.noticeQueueSize) (o : OutcomePair) :
    d.endAdoption o = { d with
      engine := { d.engine with adoption := { d.engine.adoption with phase := .none, timer := none, frame := none } },
      link := d.notified (plainNotice .adoptionEnded o [byteOf d.engine.adoption.arrived.length] d.engine.adoption.target) } := by
  refine (pushNotice_of_room ?_ _).trans rfl
  exact hn

theorem adoptionTick_of_last (ht : d.engine.adoption.timer = some 1) :
    d.adoptionTick = d.endAdoption (if d.engine.adoption.arrived = [] then ⟨.failed, .nothingCeded⟩ else ⟨.done, .ok⟩) := by
  simp only [Device.adoptionTick, ht, le_refl, if_true, Device.adoptionExpires, List.isEmpty_iff]
  rfl

/-! ## An open turn (R144, R145) -/

section Turn

variable {t : Tag}

theorem tagCedable_of_record (ht : d.slotOf t = some i) (hr : d.recordAt i = some r) : d.tagCedable t = r.cedable := by
  simp only [Device.tagCedable, ht, recordIs_of_record hr]

/-- R144: with room the CEDE of the turn's record joins the queue. -/
theorem queueCede_of_room (h : d.canSend) (ht : d.slotOf t = some i) (hr : d.recordAt i = some r) :
    d.queueCede t = { d with
      engine := { d.engine with ceding := { d.engine.ceding with attempts := d.engine.ceding.attempts + 1 } },
      line := d.sent .engine (.cede
        { adopter := d.engine.ceding.adopter.getD 0#8, flags := if (tagsAfter t d.engine.ceding.tags).isEmpty then 3#8 else 2#8,
          part := some (cedePartOf r (d.slotE i)) }) } := by
  simp only [Device.queueCede, ht, hr]
  refine (sendAbsorbed_of_room ?_ .engine rfl).trans rfl
  exact h

/-- The part with one more record stranded. -/
def Device.strandedMore (d : Device) : Device := d.withCeding { d.engine.ceding with stranded := d.engine.ceding.stranded + 1 }

theorem countStranded_of_live (ht : d.slotOf t = some i) (hr : d.recordAt i = some r) (hl : r.isEnded = false) :
    d.countStranded t = d.strandedMore := by
  simp [Device.countStranded, ht, recordIs_of_record hr, hl, Device.strandedMore]

/-- R39: without the host-returned mark the ceding ends and the station is LAPSED again. -/
theorem endCeding_of_silent (h : d.peers.hostReturned = false) :
    d.endCeding = { d with
      peers := { d.peers with state := .lapsed },
      engine := { d.engine with ceding := { d.engine.ceding with
        adopter := none, tags := [], turn := .none, attempts := 0, broken := false, frame := none } } } := by
  simp [Device.endCeding, h, Device.setStation, Device.withPeers, Device.withCeding, Device.withEngine]

theorem turnTick_of_closes (hturn : d.engine.ceding.turn = .tag t) (ht : d.slotOf t = some i) (hr : d.recordAt i = some r)
    (h : 3 ≤ d.engine.ceding.attempts ∨ d.engine.ceding.broken = true ∨ r.cedable = false) (hl : r.isEnded = false)
    (hh : d.peers.hostReturned = false) :
    d.turnCloses = true ∧ d.turnTick = Device.openNext (tagsAfter t d.engine.ceding.tags) false d.strandedMore := by
  have hnot : ¬(d.engine.ceding.attempts < Config.cedeAttempts ∧ d.engine.ceding.broken = false ∧ d.tagCedable t = true) := by
    rw [tagCedable_of_record ht hr]
    rintro ⟨ha, hb, hc⟩
    rcases h with h | h | h
    · exact absurd ha (Nat.not_lt.mpr h)
    · simp [hb] at h
    · simp [hc] at h
  constructor
  · simp only [Device.turnCloses, Device.turnRetries, hturn]
    by_contra hc
    exact hnot (by simpa [and_assoc] using hc)
  · have hclose : d.strandedMore.peers.hostReturned = false := hh
    simp only [Device.turnTick, hturn, if_neg hnot, countStranded_of_live ht hr hl, Device.closeTurn, hclose, Bool.false_eq_true, if_false]
    rfl

end Turn

/-- Settles O40. -/
theorem runAdoptionAndTurnRunOut : Obligations.RunAdoptionAndTurnRunOut := by
  intro s hrun
  refine ⟨fun ht hs hnone hn => ?_, fun ht hn => ?_, fun t i r hturn ht hr => ⟨fun adopter a hlow hwhole hsend hadopter hplaced ha => ?_,
    fun hcloses hlive hlast hsilent => ?_, fun t' rest j r' hcloses hlive hnext hsilent ht' hr' hready hsend => ?_⟩⟩
  · refine (whenDue_of_due hrun (by simp [ht])).trans (congrArg (fun d => Host.Outcome.next (s.after d)) ?_)
    rw [serviceTick_of_last ht hs, endRun_of_room hnone hn]
  · refine (whenDue_of_due hrun (by simp [ht])).trans (congrArg (fun d => Host.Outcome.next (s.after d)) ?_)
    rw [adoptionTick_of_last ht, endAdoption_of_room hn]
    rfl
  · have hcedable : s.tagCedable t = true := by rw [tagCedable_of_record ht hr]; simp [Record.cedable, hplaced]
    have hretries : s.turnRetries = true := by simp [Device.turnRetries, hturn, hlow, hwhole, hcedable, Config.cedeAttempts]
    have htick : s.turnTick = s.queueCede t := by
      simp only [Device.turnTick, hturn]
      exact if_pos ⟨hlow, hwhole, hcedable⟩
    refine (whenDue_of_due hrun hretries).trans (congrArg (fun d => Host.Outcome.next (s.after d)) (htick.trans ?_))
    rw [queueCede_of_room hsend ht hr, hadopter, slotE_of_account ha, cedePartOf, hplaced]
    simp only [List.isEmpty_iff]
    rfl
  · obtain ⟨hdue, htick⟩ := turnTick_of_closes hturn ht hr hcloses hlive hsilent
    refine (whenDue_of_due hrun hdue).trans (congrArg (fun d => Host.Outcome.next (s.after d)) (htick.trans ?_))
    rw [hlast]
    exact endCeding_of_silent (d := s.strandedMore) hsilent
  · obtain ⟨hdue, htick⟩ := turnTick_of_closes hturn ht hr hcloses hlive hsilent
    have hcedable : s.strandedMore.tagCedable t' = true := by
      rw [tagCedable_of_record (d := s.strandedMore) ht' hr']
      simp [Record.cedable, hready]
    let opened := s.strandedMore.withCeding { s.strandedMore.engine.ceding with turn := .tag t', attempts := 0, broken := false }
    have hopen : s.turnTick = opened.queueCede t' := by
      rw [htick, hnext, Device.openNext, if_pos hcedable]
      rfl
    have hqueued := queueCede_of_room (d := opened) hsend ht' hr'
    refine ⟨opened.queueCede t', (whenDue_of_due hrun hdue).trans (congrArg (fun d => Host.Outcome.next (s.after d)) hopen), ?_⟩
    rw [hqueued]
    obtain ⟨b, hb, -, hbody⟩ := mem_sent opened .engine (.cede
        { adopter := opened.engine.ceding.adopter.getD 0#8,
          flags := if (tagsAfter t' opened.engine.ceding.tags).isEmpty then 3#8 else 2#8,
          part := some (cedePartOf r' (opened.slotE j)) })
    refine ⟨rfl, rfl, rfl, rfl, rfl, b, hb, _, _, hbody, rfl, ?_⟩
    simp [cedePartOf, hready]

end Sys2Proof.Machine
end

section
/-! PROOF. Frames of the partner at a record: DECLINE and CANCEL (R98, R109, R123). -/

namespace Sys2Proof.Machine

variable {s : State} {d e : Device} {i : Nat} {r : Record} {o : Station}

/-- R29: a body that the part hears reaches its owner. -/
theorem exec_heard {b : Body} (hh : s.hears o b) (k : Bool) : act (Device.takeBody o b k) s = .next (s.after (s.dispatch o b k)) :=
  congrArg (fun d => Host.Outcome.next (s.after d)) (takeBody_of_hears hh k)

theorem concerned_of_other {t : Tag} (hs : d.slotOf t = some i) (hr : d.recordAt i = some r) (ho : r.partner ≠ o) :
    d.concerned t o = none := by
  simp [Device.concerned, hs, hr, ho]

theorem isGiver_of_giver {g : GiverState} (h : r.state = .giver g) : r.isGiver = true := by simp [Record.isGiver, h]

/-! ## A giver record freed (R98, R108, R109) -/

/-- A giver record in UNBOUND, told of the reason. -/
def Device.freed (d : Device) (i : Nat) (r : Record) (x : Detail) (v : Byte) : Device :=
  (d.setSlot i (some r.unbound)).raisePartnerLost i x v

theorem offerRepeat_idle (hr : s.recordAt i = some r) (h : r.state ≠ .giver .offering) :
    exec (.offerRepeat i) s = .next s ∧ exec (.offerWindowExpiry i) s = .next s := by
  have hat (t n : Nat) : s.recordIs i (offeringAt t n) = false := by simp [recordIs_of_record hr, offeringAt, h]
  have still {p : Device → Bool} {f : Device → Device} (hp : p s.toDevice = false) : act (whenDue p f) s = .next s := by
    simp [act, whenDue, hp]
  exact ⟨still (by simp [hat]), still (hat 5 3)⟩

/-- What a freed record is told, in a part with or without room. -/
theorem freed_spec (hr : d.recordAt i = some r) (x : Detail) (v : Byte) :
    (d.canNotify → d.freed i r x v =
      { d with
        engine := d.tableWith i r.unbound,
        link := d.notified (r.notice i .partnerLost ⟨.upset, x⟩ [v]) }) ∧
    (d.freed i r x v).HasRecord i r.unbound ∧ (d.freed i r x v).tells i (r.notice i .partnerLost ⟨.upset, x⟩ [v]) ∧
    (d.freed i r x v).line = d.line ∧ (d.freed i r x v).accounts = d.accounts ∧ (d.freed i r x v).claims = d.claims ∧
    (d.freed i r x v).peers = d.peers := by
  have hrec := recordAt_setSlot_self d (some r.unbound) (recordAt_lt d hr)
  obtain ⟨hq, htells⟩ := raise_hasRecord (k := .partnerLost) (o := ⟨.upset, x⟩) (w := [v]) (r := r.unbound) rfl (hasRecord_self hrec)
  exact ⟨fun hn => raisePartnerLost_of_room (q := r.unbound) hn hr rfl rfl, hq, htells, raise_line .., raise_accounts .., raise_claims ..,
    raise_peers ..⟩

/-! ## CANCEL at a taker (R123) -/

/-- R123: the outcome of a taker record that a CANCEL ends. -/
def cancelledOutcome (reason : Byte) : OutcomePair := ⟨.upset, if reason = 2 then .recovered else .giverCancelled⟩

theorem takerHearCancel_of_live {t : TakerState} {b : Byte} (h : r.state = .taker t) (hl : t ≠ .ended) (hb : t = .ready → b = 2) :
    d.takerHearCancel i r b = d.endTaker i (cancelledOutcome b) := by
  cases t with
  | ended => exact absurd rfl hl
  | ready =>
    obtain rfl := hb rfl
    simp [Device.takerHearCancel, h, cancelledOutcome]
  | invited | agreed | bound => simp [Device.takerHearCancel, h, cancelledOutcome]

theorem takerHearCancel_of_ready {b : Byte} (h : r.state = .taker .ready) (hb : b ≠ 2) :
    d.takerHearCancel i r b = d.raise i .partnerLost ⟨.upset, .partnerLost⟩ [b] := by
  have : (b == 2#8) = false := by simpa using hb
  simp [Device.takerHearCancel, h, this, Device.raisePartnerLost]

/-- R123: the record ended DONE. -/
def Record.DoneSo (r : Record) : Prop := ∃ k, r.outcome = some ⟨.done, k⟩

theorem takerHearCancel_of_done (h : r.state = .taker .ended) (hd : r.DoneSo) : d.takerHearCancel i r 2 = d.raiseCustody i := by
  obtain ⟨k, hk⟩ := hd
  simp [Device.takerHearCancel, h, hk]

theorem takerHearCancel_of_ended {b : Byte} (h : r.state = .taker .ended) (hb : b ≠ 2 ∨ ¬r.DoneSo) : d.takerHearCancel i r b = d := by
  simp only [Device.takerHearCancel, h]
  refine if_neg ?_
  rcases hb with hb | hb
  · have : (b == 2#8) = false := by simpa using hb
    simp [this]
  · rcases hout : r.outcome with _ | ⟨cls, detail⟩
    · simp
    · have : cls ≠ .done := fun hc => hb ⟨detail, by rw [hout, hc]⟩
      simp [this]

/-- A notice gained is queued or still owed after an owed move, freed as its record may be. -/
theorem moveOne_tells {n : Notice} (h : d.tells i n) : d.moveOne.tells i n := by
  rcases moveOne_cases d with ⟨j, x, p, rest, hx, hnotices, hm⟩ | ⟨-, hm⟩ | hm <;> rw [hm]
  · rcases h with hn | ⟨q, y, hq, hy, rfl⟩
    · exact .inl (List.mem_append_left _ hn)
    · by_cases hj : j = i
      · subst hj
        obtain rfl : q = x := Option.some.inj (hq.symm.trans hx)
        rw [hnotices] at hy
        rcases List.mem_cons.mp hy with rfl | hy
        · exact .inl (List.mem_append_right _ (List.mem_singleton.mpr rfl))
        · have hkept : rest.isEmpty = false := by simpa using List.ne_nil_of_mem hy
          refine .inr ⟨{ q with notices := rest }, y, ?_, hy, rfl⟩
          rw [hkept]
          exact recordAt_setSlot_self (d.queueNotice _) _ (recordAt_lt d hq)
      · exact .inr ⟨q, y, (recordAt_setSlot_of_ne (d.queueNotice _) _ hj).trans hq, hy, rfl⟩
  · exact h.imp_left (List.mem_append_left _)
  · exact h

theorem raise_tells {k : NoticeKind} {x : OutcomePair} {w : List Byte} (hr : d.recordAt i = some r) :
    (d.raise i k x w).tells i (r.notice i k x w) := by
  refine moveOwed_keeps (Q := fun e => e.tells i (r.notice i k x w)) (fun _ => moveOne_tells) (.inr ?_)
  simp only [Device.modRecord, hr]
  exact ⟨_, _, recordAt_setSlot_self d _ (recordAt_lt d hr), self_mem_addPending _ _, rfl⟩

/-- A notice raised in a record that it leaves as it is. -/
theorem raise_spec {k : NoticeKind} {x : OutcomePair} {w : List Byte} (hr : d.recordAt i = some r)
    (hc : (r.isEnded && r.endCollected) = false) :
    (d.canNotify → d.raise i k x w = { d with link := d.notified (r.notice i k x w) }) ∧
    (d.raise i k x w).HasRecord i r ∧ (d.raise i k x w).tells i (r.notice i k x w) ∧ (d.raise i k x w).accounts = d.accounts ∧
    (d.raise i k x w).line = d.line ∧ (d.raise i k x w).claims = d.claims ∧ (d.raise i k x w).peers = d.peers :=
  ⟨fun hn => raise_of_room hn hr hc .., (raise_hasRecord hc (hasRecord_self hr)).1, (raise_hasRecord hc (hasRecord_self hr)).2,
    raise_accounts .., raise_line .., raise_claims .., raise_peers ..⟩

/-- The clause of O52 on a freed giver record. -/
theorem exec_freed {c : Instr} {x : Detail} {v : Byte} (hr : s.recordAt i = some r)
    (hexec : exec c s = .next (s.after (s.freed i r x v))) :
    (s.canNotify →
      exec c s = .next (s.after
        { s.toDevice with
          engine := s.tableWith i
            { r with state := .giver .unbound, setdownOwed := false, bindFrame := none, setdownFrame := none },
          link := s.notified (r.notice i .partnerLost ⟨.upset, x⟩ [v]) })) ∧
    ∃ d r', exec c s = .next (s.after d) ∧ d.recordAt i = some r' ∧ r'.tag = r.tag ∧ r'.state = .giver .unbound ∧
      r'.placed = r.placed ∧ r'.partner = r.partner ∧ r'.setdownOwed = false ∧
      d.tells i (r.notice i .partnerLost ⟨.upset, x⟩ [v]) ∧
      exec (.offerRepeat i) (s.after d) = .next (s.after d) ∧ exec (.offerWindowExpiry i) (s.after d) = .next (s.after d) ∧
      d.line = s.line ∧ d.accounts = s.accounts ∧ d.claims = s.claims ∧ d.peers = s.peers := by
  obtain ⟨hroom, ⟨q, hq, hqr⟩, htells, hline, hacc, hclaims, hpeers⟩ := freed_spec hr x v
  have hidle := offerRepeat_idle (s := s.after (s.freed i r x v)) hq (by rw [hqr]; simp [Record.unbound])
  refine ⟨fun hn => hexec.trans (congrArg (fun d => Host.Outcome.next (s.after d)) (hroom hn)), _, q, hexec, hq, ?_⟩
  rw [hqr]
  exact ⟨rfl, rfl, rfl, rfl, rfl, htells, hidle.1, hidle.2, hline, hacc, hclaims, hpeers⟩

/-- Settles O52. -/
theorem declineAndCancelAreHeard : Obligations.DeclineAndCancelAreHeard := by
  intro s o i r hr freed
  refine ⟨fun b hh hslot => ?_, fun b hh hslot => ?_⟩
  · have hexec : exec (.declineHeard o b) s = .next (s.after (s.hearDecline o b)) := exec_heard hh _
    refine ⟨fun hnot => ?_, fun hs ho => exec_freed hr ?_⟩
    · rw [hexec]
      by_cases ho : r.partner = o
      · have hs : ¬r.state = .giver .offering := fun hs => hnot ⟨hs, ho⟩
        simp only [Device.hearDecline, concerned_of_partner hslot hr ho, Device.giverDecline, if_neg hs, ite_self]
        rfl
      · simp only [Device.hearDecline, concerned_of_other hslot hr ho]
        rfl
    · rw [hexec]
      simp only [Device.hearDecline, concerned_of_partner hslot hr ho, isGiver_of_giver hs, if_true, Device.giverDecline, hs]
      rfl
  · have hexec : exec (.cancelHeard o b) s = .next (s.after (s.hearCancel o b)) := exec_heard hh _
    refine ⟨fun ho => ?_, fun ho => ?_⟩
    · rw [hexec]
      simp only [Device.hearCancel, concerned_of_other hslot hr ho]
      rfl
    have hgiver {g : GiverState} (hs : r.state = .giver g) :
        exec (.cancelHeard o b) s = .next (s.after (s.giverHearCancel i r b.reason)) := by
      rw [hexec]
      simp only [Device.hearCancel, concerned_of_partner hslot hr ho, isGiver_of_giver hs, if_true]
    have htaker {t : TakerState} (hs : r.state = .taker t) :
        exec (.cancelHeard o b) s = .next (s.after (s.takerHearCancel i r b.reason)) := by
      rw [hexec]
      simp only [Device.hearCancel, concerned_of_partner hslot hr ho, isGiver_of_taker hs, Bool.false_eq_true, if_false]
    refine ⟨fun g hs => ⟨fun hg => exec_freed hr ?_, fun hg => ?_⟩, fun t hs hl hb => ?_, fun hs hb => ?_, fun hs => ⟨fun k hb hk => ?_,
      fun hnot => ?_⟩⟩
    · rw [hgiver hs, Device.giverHearCancel, if_pos (by simpa [hs] using hg)]
      rfl
    · rw [hgiver hs, Device.giverHearCancel, if_neg (by simpa [hs] using hg)]
      rfl
    · intro out v
      have hout : out = cancelledOutcome b.reason := rfl
      have hv : v = s.shadowE i r := by simp [v, Device.shadowE, hs, Device.slotE]
      have hready : r.state = .taker .ready ↔ t = .ready := by simp [hs]
      have hend := htaker hs
      rw [takerHearCancel_of_live hs hl hb] at hend
      obtain ⟨q, hq, hqr⟩ := endTaker_record (o := cancelledOutcome b.reason) hr
      obtain ⟨-, -, -, -, -, hacc, hline, hclaims, hpeers⟩ := endTaker_ends (cancelledOutcome b.reason) hr
      refine ⟨fun hn => ?_, _, q, hend, hq, ?_⟩
      · rw [hend, endTaker_of_room hn hr, hv, hout]
        by_cases ht : t = .ready
        · rw [if_pos ht, withoutShadow_of_ready (hready.mpr ht)]
          rfl
        · rw [if_neg ht, withoutShadow_of_not_ready (mt hready.mp ht)]
          rfl
      · rw [hqr]
        refine ⟨rfl, rfl, rfl, hv.symm, fun ht => ?_, fun ht => ?_, ?_, hline, hclaims, hpeers⟩
        · rw [accountAt_congr hacc, withoutShadow_of_ready (hready.mpr ht), accountAt_removeAccount_slot]
        · rw [hacc, withoutShadow_of_not_ready (mt hready.mp ht)]
        · rw [hacc, Device.withoutShadow]
          split <;> rfl
    · have htold := htaker hs
      rw [takerHearCancel_of_ready hs hb] at htold
      obtain ⟨hroom, ⟨q, hq, hqr⟩, htells, hacc, hline, hclaims, hpeers⟩ :=
        raise_spec (k := .partnerLost) (x := ⟨.upset, .partnerLost⟩) (w := [b.reason]) hr (by simp [Record.isEnded, hs])
      refine ⟨fun hn => htold.trans (congrArg (fun d => Host.Outcome.next (s.after d)) (hroom hn)), _, q, htold, hq, ?_⟩
      rw [hqr]
      exact ⟨hs, rfl, htells, hacc, hline, hclaims, hpeers⟩
    · have htold := htaker hs
      rw [hb, takerHearCancel_of_done hs ⟨k, hk⟩] at htold
      refine ⟨fun hn hc => ?_, _, htold, raise_tells hr, raise_accounts .., raise_line .., raise_claims .., raise_peers ..⟩
      exact htold.trans (congrArg (fun d => Host.Outcome.next (s.after d)) (raise_of_room hn hr (by simp [hc]) ..))
    · rw [htaker hs, takerHearCancel_of_ended hs (hnot.imp_right fun h => not_exists.mpr h)]
      rfl

end Sys2Proof.Machine
end

section
/-! PROOF. Frames of the partner at a giver record: AGREE and LIFTED, and what the end of a record by its lift makes of its run and its
stake (R62, R97, R102, R104, R106, R131). -/

namespace Sys2Proof.Machine

variable {s : State} {d e : Device} {i : Nat} {r : Record} {o : Station}

/-! ## AGREE (R97, R106) -/

theorem hearAgree_of_record {b : AgreeBody} (hs : d.slotOf b.tag = some i) (hr : d.recordAt i = some r) :
    d.hearAgree o b = if r.state = .giver .offering ∧ (r.partner = o ∨ r.partner = 0) then d.giverAgree i r o else d := by
  simp only [Device.hearAgree, hs, hr]
  rfl

/-- R97: a record bound to the taker that agreed first. -/
def Record.boundTo (r : Record) (o : Station) : Record :=
  { r with partner := o, state := if r.placed then .giver .placed else .giver .bound, bindFrame := none, setdownFrame := none }

theorem sendBind_of_room (h : d.canSend) (hr : d.recordAt i = some r) :
    d.sendBind i = { d with
      line := d.sent .engine (.bind { tag := r.tag, taker := r.partner }),
      engine := d.tableWith i { r with bindFrame := some d.line.seqCounter } } := by
  simp only [Device.sendBind, hr]
  rw [offer_of_room h .engine rfl]
  dsimp only
  rw [modRecord_withLine _ hr]
  rfl

theorem giverAgree_eq (d : Device) (i : Nat) (r : Record) (o : Station) :
    d.giverAgree i r o =
      (let e := ((d.setSlot i (some (r.boundTo o))).raise i .bound outcomeDone [o]).sendBind i
       if r.placed then e.sendSetdown i else e) := rfl

theorem boundTo_live : ((r.boundTo o).isEnded && (r.boundTo o).endCollected) = false := by
  have : (r.boundTo o).isEnded = false := by
    unfold Record.boundTo Record.isEnded
    cases r.placed <;> rfl
  rw [this, Bool.false_and]

/-- The bodies of the queued frames, oldest first. -/
def LinePort.bodies (l : LinePort) : List Body := l.queue.map fun x => x.frame.body

theorem sent_bodies (d : Device) (s : Sender) (b : Body) : (d.sent s b).bodies = d.line.bodies ++ [b] := by
  rw [LinePort.bodies, Device.sent, joinTail_queue, List.map_append]
  rfl

theorem sent_canSend {x : Sender} {b : Body} (hm : d.line.mode = .normal) (hq : d.line.queue.length + 1 < Config.queueSize) :
    (d.sent x b).mode = .normal ∧ (d.sent x b).queue.length < Config.queueSize := by
  refine ⟨(joinTail_setting _ _).mode_eq.trans hm, ?_⟩
  rw [Device.sent, joinTail_queue]
  simpa using hq

/-- R97: with room a record whose bin is not set down is BOUND, and its BIND queued. -/
theorem giverAgree_of_room (hp : r.placed = false) (hr : d.recordAt i = some r) (hsend : d.canSend) (hn : d.canNotify) :
    d.giverAgree i r o = { d with
      engine := d.tableWith i
        { r with partner := o, state := .giver .bound, bindFrame := some d.line.seqCounter, setdownFrame := none },
      line := d.sent .engine (.bind { tag := r.tag, taker := o }),
      link := d.notified { kind := .bound, outcome := ⟨.done, .ok⟩, slot := some i, tag := some r.tag, values := [o], station := o } } := by
  let q := r.boundTo o
  have hlt := recordAt_lt d hr
  let m := (d.setSlot i (some q)).withLink (d.notified (q.notice i .bound outcomeDone [o]))
  have hm : (d.setSlot i (some q)).raise i .bound outcomeDone [o] = m :=
    raise_of_room (canNotify_setSlot (q := q) hn hr rfl) (recordAt_setSlot_self d _ hlt) boundTo_live ..
  have hbind : m.sendBind i = _ := sendBind_of_room (d := m) hsend (recordAt_setSlot_self d (some q) hlt)
  rw [giverAgree_eq]
  dsimp only
  rw [if_neg (by simp [hp]), hm, hbind]
  have hq : ({ q with bindFrame := some m.line.seqCounter } : Record) =
      { r with partner := o, state := .giver .bound, bindFrame := some d.line.seqCounter, setdownFrame := none } := by
    simp [q, m, Record.boundTo, hp]
  rw [hq]
  have hengine := congrArg Device.engine (setSlot_twice (d := d) (i := i) (some q)
    (some { r with partner := o, state := .giver .bound, bindFrame := some d.line.seqCounter, setdownFrame := none }))
  exact congrArg (fun x => ({ d with engine := x, line := _, link := _ } : Device)) hengine

/-- R106: a record whose bin stands on its cell is PLACED, and a SETDOWN follows its BIND. -/
theorem giverAgree_of_placed (hp : r.placed = true) (hr : d.recordAt i = some r) (hm : d.line.mode = .normal)
    (hq : d.line.queue.length ≤ 6) :
    ∃ r', (d.giverAgree i r o).recordAt i = some r' ∧ r'.tag = r.tag ∧ r'.state = .giver .placed ∧ r'.partner = o ∧
      r'.placed = true ∧ (d.giverAgree i r o).accounts = d.accounts ∧ (d.giverAgree i r o).claims = d.claims ∧
      (d.giverAgree i r o).line.bodies = d.line.bodies ++
        [.bind { tag := r.tag, taker := o },
         .setdown { tag := r.tag, cell := r.cell, bin := r.bin, e := BitVec.ofNat 16 (accountE (d.accountAt (.slot i))) }] := by
  let e := (d.setSlot i (some (r.boundTo o))).raise i .bound outcomeDone [o]
  have hline : e.line = d.line := raise_line ..
  have hacc : e.accounts = d.accounts := raise_accounts ..
  have hclaims : e.claims = d.claims := raise_claims ..
  obtain ⟨q, hq', hqr⟩ : e.HasRecord i (r.boundTo o) :=
    (raise_hasRecord boundTo_live (hasRecord_self (recordAt_setSlot_self d _ (recordAt_lt d hr)))).1
  have hsend : e.canSend := ⟨by rw [hline]; exact hm, by rw [hline]; simp only [Config.queueSize]; omega⟩
  have hbind := sendBind_of_room hsend hq'
  have hstate : q.state = .giver .placed := by rw [hqr]; simp [Record.boundTo, hp]
  have hrec : (e.sendBind i).recordAt i = some { q with bindFrame := some e.line.seqCounter } := by
    rw [hbind]
    exact recordAt_setSlot_self e _ (recordAt_lt e hq')
  have hsend' : (e.sendBind i).canSend := by
    rw [hbind]
    exact sent_canSend hsend.1 (by rw [hline]; simp only [Config.queueSize]; omega)
  have hset := sendSetdown_of_room hsend' hrec hstate
  have heq : d.giverAgree i r o = (e.sendBind i).sendSetdown i := by
    rw [giverAgree_eq]
    exact if_pos hp
  rw [heq]
  refine ⟨_, by rw [hset]; exact recordAt_setSlot_self (e.sendBind i) _ (recordAt_lt _ hrec), ?_⟩
  have hslot : (e.sendBind i).slotE i = accountE (d.accountAt (.slot i)) := by
    have hbacc : (e.sendBind i).accounts = d.accounts := by rw [hbind]; exact hacc
    exact congrArg accountE (accountAt_congr hbacc _)
  refine ⟨by rw [hqr]; rfl, hstate, by rw [hqr]; rfl, by rw [hqr]; exact hp, by rw [hset, hbind]; exact hacc,
    by rw [hset, hbind]; exact hclaims, ?_⟩
  rw [hset, hslot]
  show (Device.sent _ _ _).bodies = _
  rw [sent_bodies, hbind]
  show (Device.sent _ _ _).bodies ++ _ = _
  rw [sent_bodies, hline, hqr, List.append_assoc]
  rfl

/-! ## LIFTED (R102, R104) -/

theorem exec_liftedHeard {b : LiftedBody} {g : GiverState} (hh : s.hears o (.lifted b)) (hs : s.slotOf b.tag = some i)
    (hr : s.recordAt i = some r) (hg : r.state = .giver g) :
    exec (.liftedHeard o b) s =
      .next (s.after (if r.partner = o then s.giverHearLifted i r b.bin else s.toDevice)) := by
  refine (exec_heard hh _).trans (congrArg (fun d => Host.Outcome.next (s.after d)) ?_)
  show s.hearLifted o b = _
  split
  · next ho => simp only [Device.hearLifted, concerned_of_partner hs hr ho, isGiver_of_giver hg, if_true]
  · next ho => simp only [Device.hearLifted, concerned_of_other hs hr ho]

theorem binOnCell_iff : r.binOnCell = true ↔
    r.placed = true ∧ (r.state = .giver .placed ∨ r.state = .giver .unbound ∨ r.state = .giver .offering) := by
  simp [Record.binOnCell, or_assoc]

/-! ## The run of a record that ends DONE (R131) -/

theorem endGiver_run_eq {x : OutcomePair} {v : Nat} (hr : d.recordAt i = some r) :
    (d.endGiver i x v).engine.run =
      { ((d.left i (r.giverEnded x v)).runHears r.ordinal x).1.engine.run with mark := (d.endGiver i x v).engine.run.mark } := by
  have hgone : (d.giverGone i r x v).engine.run = ((d.left i (r.giverEnded x v)).runHears r.ordinal x).1.engine.run :=
    (recordStakeEnds_run _ _ _).1
  rw [endGiver_eq hr, raise_run, hgone]

/-- R131: the run list with an entry DONE and the next ordinal taken up. -/
def RunList.entryDone (run : RunList) (n : Nat) : RunList := { run.setEntry n .done with next := n + 1 }

theorem entryDone_entry (run : RunList) {n : Nat} (hn : n ≠ 0) : (run.entryDone n).entry (n + 1) = run.entries[n]? := by
  have hne : n - 1 ≠ n := by omega
  simp [RunList.entryDone, RunList.entry, RunList.setEntry, hne]

section Run

variable {run : RunList} {n : Nat} {y : RunEntry}

/-- R131: after its entry the run goes on to a waiting one. -/
theorem entryDone_goesOn (hn : n ≠ 0) (hy : run.entries[n]? = some y) (hw : y.state = .waiting) :
    (run.entryDone n).advanced = run.entryDone n ∧ (run.entryDone n).verdict = .goesOn := by
  have hentry : (run.entryDone n).entry (run.entryDone n).next = some y := (entryDone_entry run hn).trans hy
  refine ⟨advanced_stays fun x hx h => ?_, verdict_of_waiting hentry hw⟩
  obtain rfl := Option.some.inj (hentry.symm.trans hx)
  simp [hw] at h

theorem entryDone_skips (hn : n ≠ 0) (hy : run.entries[n]? = some y) (hw : y.state = .withdrawn) (hskip : run.skip = true)
    {z : RunEntry} (hz : run.entries[n + 1]? = some z) (hzw : z.state = .waiting) :
    (run.entryDone n).advanced = { (run.entryDone n).setEntry (n + 1) .skipped with next := n + 2 } ∧
      (run.entryDone n).advanced.verdict = .goesOn := by
  have hne : n - 1 ≠ n + 1 := by omega
  have hz' : (run.entryDone n).entries[n + 1]? = some z := by simp [RunList.entryDone, RunList.setEntry, hne, hz]
  have hadv := advanced_skips (n := n + 1) (by omega) (show (run.entryDone n).next = _ from rfl) hskip ((entryDone_entry run hn).trans hy)
    hw hz' hzw
  refine ⟨hadv, ?_⟩
  rw [hadv]
  exact verdict_of_waiting (entry_setEntry_succ (by omega) hz') hzw

theorem entryDone_endOfList (hn : n ≠ 0) (hy : run.entries[n]? = none) :
    (run.entryDone n).advanced = run.entryDone n ∧ (run.entryDone n).verdict = .ends ⟨.done, .endOfList⟩ := by
  have hentry : (run.entryDone n).entry (run.entryDone n).next = none := (entryDone_entry run hn).trans hy
  exact ⟨advanced_stays fun x hx _ => by simp [hentry] at hx, by simp [RunList.verdict, hentry]⟩

theorem entryDone_meets (hn : n ≠ 0) (hy : run.entries[n]? = some y) (hw : y.state = .withdrawn) (hskip : run.skip = false) :
    (run.entryDone n).advanced = run.entryDone n ∧ (run.entryDone n).verdict = .ends ⟨.failed, .withdrawnMet⟩ :=
  advanced_meets (run := run.entryDone n) hskip ((entryDone_entry run hn).trans hy) hw

end Run

/-! ## The stake of a record that ends (R62) -/

section Stake

variable {x : OutcomePair} {v : Nat} {c : Claim}

/-- R62: a run that goes on holds the stake. -/
theorem endGiver_runHold (hr : d.recordAt i = some r) (hgoes : ((d.left i (r.giverEnded x v)).runHears r.ordinal x).2 = true)
    (hc : d.claimOfUse (.slot i) = some c) (hphase : c.phase ≠ .contested) :
    (d.endGiver i x v).claims.entries = d.runHolding c.cell ∧ (d.endGiver i x v).line = d.line := by
  obtain ⟨hclaims, hline⟩ := endGiver_claims_eq (o := x) (v := v) hr
  have hsame := runHears_sameStakes (d := d.left i (r.giverEnded x v)) (n := r.ordinal) (o := x) (.inr (.inr hgoes))
  rw [hclaims, hline]
  unfold Device.giverGone
  dsimp only
  rw [hgoes]
  generalize ((d.left i (r.giverEnded x v)).runHears r.ordinal x).1 = f at hsame ⊢
  have hfclaims : f.claims = d.claims := hsame.claims
  rw [recordStakeEnds_of_run ((claimOfUse_congr hfclaims _).trans hc) hphase]
  refine ⟨?_, hsame.line⟩
  rw [holdForRun_entries, Device.runHolding, Device.held, hfclaims]
  rfl

/-- Whoever else waits for a cell still waits once a record has ended. -/
theorem left_waitsOn_of_ne {ended : Record} {cell : Cell} {p : RequestStatus → Bool} {j : Nat} (hj : j ≠ i) :
    (d.left i ended).waitsOn cell p j = d.waitsOn cell p j := by
  have hsame : (d.left i ended).recordAt j = d.recordAt j := recordAt_setSlot_of_ne d _ (Ne.symm hj)
  simp [Device.waitsOn, Device.recordIs, hsame]

theorem waitingSlot_of_first {cell : Cell} {j : Nat} (hj : j < Config.slotCount) (hw : d.waitsOn cell isOwnUse j = true)
    (hfirst : ∀ k, k < j → d.waitsOn cell isOwnUse k = false) : d.waitingSlot cell = some j := by
  refine List.find?_range_eq_some.mpr ⟨hw, List.mem_range.mpr hj, fun k hk => ?_⟩
  rw [hfirst k hk]
  rfl

/-- The records of the other slots stand, up to their notices, while a notice is raised. -/
theorem raise_hasRecord_other {k : NoticeKind} {w : List Byte} {j : Nat} {q : Record} (hj : j ≠ i)
    (hc : (q.isEnded && q.endCollected) = false) (h : d.HasRecord j q) : (d.raise i k x w).HasRecord j q := by
  unfold Device.raise
  refine moveOwed_hasRecord hc ?_
  obtain ⟨q', hq', hqq⟩ := h
  refine ⟨q', ?_, hqq⟩
  unfold Device.modRecord
  split
  · exact (recordAt_setSlot_of_ne d _ (Ne.symm hj)).trans hq'
  · exact hq'

/-- R62, R56, R95: in ACTIVE a stake passes to a waiting record, whose first OFFER is queued. -/
theorem passStake_spec {j : Nat} {q : Record} {cell : Cell} {t : Tag} (hq : d.recordAt j = some q) (ha : d.peers.state = .active) :
    (d.passStake cell j t).claims.entries = d.passing cell j t ∧
      (d.passStake cell j t).recordAt j = some { q.offering with addressed := true, offers := 1 } ∧
      (d.canSend → ∃ b, (d.passStake cell j t).queues .engine (.offer b) ∧ b.tag = q.tag ∧ b.cell = q.cell ∧ b.taker = q.partner) := by
  let m := (d.withEntries (d.passing cell j t)).setSlot j (some q.offering)
  have hm : d.passStake cell j t = m.queueOffer j := enterOffering_of_active (d := d.withEntries (d.passing cell j t)) hq ha
  have hrec : m.recordAt j = some q.offering := recordAt_setSlot_self (d.withEntries _) _ (recordAt_lt d hq)
  rw [hm, queueOffer_of_record hrec]
  refine ⟨rfl, recordAt_setSlot_self m _ (recordAt_lt m hrec), fun hsend => ?_⟩
  rw [sendAbsorbed_of_room (d := m.setSlot j _) hsend .engine rfl]
  obtain ⟨y, hy, hsender, hbody⟩ := mem_sent (m.setSlot j (some { q.offering with addressed := true, offers := q.offering.offers + 1 })) .engine
    (m.offerBody j q.offering)
  exact ⟨_, ⟨y, hy, hsender, hbody⟩, rfl, rfl, rfl⟩

/-- R62: in ACTIVE the stake of a record that ends passes to the lowest slot that waits for it, when the run does not go on. -/
theorem endGiver_pass {j : Nat} {q : Record} (hr : d.recordAt i = some r) (hnot : r.state ≠ .giver .staking)
    (hrun : ((d.left i (r.giverEnded x v)).runHears r.ordinal x).2 = false)
    (h : ¬d.engine.run.Serves r.ordinal ∨ d.claimOfUse .runHold = none) (hc : d.claimOfUse (.slot i) = some c)
    (hphase : c.phase ≠ .contested) (ha : d.peers.state = .active) (hlen : d.engine.table.length = Config.slotCount)
    (hq : d.recordAt j = some q) (hw : q.WaitsFor c.cell)
    (hfirst : ∀ k p, k < j → d.recordAt k = some p → ¬p.WaitsFor c.cell) :
    (d.endGiver i x v).claims.entries = d.passing c.cell j q.tag ∧
      (∃ q', (d.endGiver i x v).recordAt j = some q' ∧ q'.tag = q.tag ∧ q'.state = .giver .offering ∧ q'.request = none) ∧
      (d.canSend → ∃ b, (d.endGiver i x v).queues .engine (.offer b) ∧ b.tag = q.tag ∧ b.cell = q.cell ∧ b.taker = q.partner) := by
  obtain ⟨hclaims, hline⟩ := endGiver_claims_eq (o := x) (v := v) hr
  have hij : j ≠ i := by
    rintro rfl
    obtain rfl := Option.some.inj (hr.symm.trans hq)
    exact hnot hw.1
  have hjlt : j < Config.slotCount := hlen ▸ recordAt_lt d hq
  have hsame := runHears_sameStakes (d := d.left i (r.giverEnded x v)) (n := r.ordinal) (o := x) (h.imp_right .inl)
  have hgone : d.giverGone i r x v = ((d.left i (r.giverEnded x v)).runHears r.ordinal x).1.recordStakeEnds i false := by
    rw [Device.giverGone, ← hrun]
  have hrec : (d.left i (r.giverEnded x v)).HasRecord j q := ⟨q, (recordAt_setSlot_of_ne d _ (Ne.symm hij)).trans hq, rfl⟩
  have hlive : (q.isEnded && q.endCollected) = false := by simp [Record.isEnded, hw.1]
  have hwaits (k : Nat) : ((d.left i (r.giverEnded x v)).runHears r.ordinal x).1.waitsOn c.cell isOwnUse k =
      (d.left i (r.giverEnded x v)).waitsOn c.cell isOwnUse k := hsame.waits ..
  generalize ((d.left i (r.giverEnded x v)).runHears r.ordinal x).1 = f at hsame hgone hwaits
  have hfclaims : f.claims = d.claims := hsame.claims
  have hfline : f.line = d.line := hsame.line
  have hfactive : f.peers.state = .active := by rw [hsame.peers]; exact ha
  obtain ⟨p, hp, hpq⟩ := hsame.record j q hlive hrec
  have hslot : f.waitingSlot c.cell = some j := by
    refine waitingSlot_of_first hjlt ?_ fun k hk => ?_
    · rw [hwaits, left_waitsOn_of_ne hij]
      exact waitsOn_ownUse_iff.mpr ⟨q, hq, hw⟩
    · rw [hwaits]
      by_cases hki : k = i
      · subst hki
        unfold Device.waitsOn
        rw [recordIs_of_record (left_recordAt hr (r.giverEnded x v))]
        rfl
      · rw [left_waitsOn_of_ne hki]
        exact not_waitsOn fun p hp => hfirst k p hk hp
  have hpass : d.giverGone i r x v = f.passStake c.cell j p.tag := by
    rw [hgone, recordStakeEnds_of_waiting ((claimOfUse_congr hfclaims _).trans hc) hphase hfactive hslot hp]
  obtain ⟨hentries, hoffering, hoffer⟩ := passStake_spec (cell := c.cell) (t := p.tag) hp hfactive
  have htag : p.tag = q.tag := by rw [hpq]
  refine ⟨?_, ?_, fun hsend => ?_⟩
  · rw [hclaims, hpass, hentries, htag, Device.passing, Device.held, hfclaims]
    rfl
  · obtain ⟨q', hq', hqq⟩ := raise_hasRecord_other (k := .ended) (x := x) (w := bytesOfNat16 v) hij (by rfl) (hasRecord_self hoffering)
    refine ⟨q', ?_, by rw [hqq]; exact htag, by rw [hqq]; rfl, by rw [hqq]; rfl⟩
    rw [endGiver_eq hr, hpass]
    exact hq'
  · obtain ⟨b, hb, hbt, hbc, hbp⟩ := hoffer (by rw [Device.canSend, hfline]; exact hsend)
    refine ⟨b, ?_, hbt.trans htag, by rw [hbc, hpq], by rw [hbp, hpq]⟩
    obtain ⟨y, hy, hyy⟩ := hb
    exact ⟨y, by rw [hline, hpass]; exact hy, hyy⟩

end Stake

/-- What the end of a record by its lift makes of the run it served (R131, R136). -/
structure RunAfterLift (run : RunList) (n : Nat) (m : Device × Bool) : Prop where
  goesOn : ∀ y, run.state = .inEntry → run.entries[n]? = some y → y.state = .waiting →
    m.2 = true ∧ m.1.engine.run = { run.entryDone n with state := .awaitingNext, timer := some 0 }
  skips : ∀ y z, run.state = .inEntry → run.entries[n]? = some y → y.state = .withdrawn → run.skip = true →
    run.entries[n + 1]? = some z → z.state = .waiting →
    m.2 = true ∧ m.1.engine.run =
      { (run.entryDone n).setEntry (n + 1) .skipped with state := .awaitingNext, timer := some 0, next := n + 2 }
  endOfList : run.state = .inEntry → run.entries[n]? = none →
    m.2 = false ∧ m.1.RunEnded (run.entryDone n) ⟨.done, .endOfList⟩
  meets : ∀ y, run.state = .inEntry → run.entries[n]? = some y → y.state = .withdrawn → run.skip = false →
    m.2 = false ∧ m.1.RunEnded (run.entryDone n) ⟨.failed, .withdrawnMet⟩
  ending : run.state = .ending → m.2 = false ∧ m.1.RunEnded (run.entryDone n) ⟨.done, .terminated⟩

theorem runHears_done {n : Nat} {x : OutcomePair} (hrun : d.power.state = .run) (h : d.engine.run.Serves n) (hx : x.cls = .done) :
    RunAfterLift d.engine.run n (d.runHears n x) := by
  let m := d.withRun (d.engine.run.entryDone n)
  have hinEntry (hs : d.engine.run.state = .inEntry) : d.runHears n x = m.advanceRun true := by
    rw [runHears_of_done h hx, if_neg (by simp [hs])]
    rfl
  have hends {z : OutcomePair} (hs : d.engine.run.state = .inEntry)
      (hend : (d.engine.run.entryDone n).advanced = d.engine.run.entryDone n ∧ (d.engine.run.entryDone n).verdict = .ends z) :
      (d.runHears n x).2 = false ∧ (d.runHears n x).1.RunEnded (d.engine.run.entryDone n) z := by
    have hverdict : m.engine.run.advanced.verdict = .ends z := (congrArg RunList.verdict hend.1).trans hend.2
    rw [hinEntry hs, advanceRun_of_ends true hverdict]
    have hrunEnded := endRun_runEnded (d := m.withRun m.engine.run.advanced) hrun z
    rw [show (m.withRun m.engine.run.advanced).engine.run = _ from hend.1] at hrunEnded
    exact ⟨rfl, hrunEnded⟩
  refine ⟨fun y hs hy hw => ?_, fun y z hs hy hw hskip hz hzw => ?_, fun hs hy => hends hs (entryDone_endOfList h.1 hy),
    fun y hs hy hw hskip => hends hs (entryDone_meets h.1 hy hw hskip), fun hs => ?_⟩
  · obtain ⟨hadv, hgoes⟩ := entryDone_goesOn h.1 hy hw
    have hverdict : m.engine.run.advanced.verdict = .goesOn := (congrArg RunList.verdict hadv).trans hgoes
    have hadv' : m.engine.run.advanced = d.engine.run.entryDone n := hadv
    rw [hinEntry hs, advanceRun_of_goesOn true hverdict, hadv']
    exact ⟨rfl, rfl⟩
  · obtain ⟨hadv, hgoes⟩ := entryDone_skips h.1 hy hw hskip hz hzw
    have hadv' : m.engine.run.advanced = _ := hadv
    rw [hinEntry hs, advanceRun_of_goesOn (d := m) true hgoes, hadv']
    exact ⟨rfl, rfl⟩
  · rw [runHears_of_done h hx, if_pos hs]
    exact ⟨rfl, endRun_runEnded (d := m) hrun _⟩

/-- The state of an entry, as the statement speaks of it. -/
theorem entryState_eq {l : List RunEntry} {n : Nat} {x : EntryState} :
    (l[n]?.map fun e => e.state) = some x ↔ ∃ y, l[n]? = some y ∧ y.state = x := by simp

/-- Settles O51. -/
theorem giversHearAgreeAndLifted : Obligations.GiversHearAgreeAndLifted := by
  intro s o i r g hr hg
  refine ⟨fun b hh hs => ?_, fun b hh hs => ?_⟩
  · have hexec : exec (.agreeHeard o b) s = .next (s.after (s.hearAgree o b)) := exec_heard hh _
    have hoffering : r.state = .giver .offering ↔ g = .offering := by simp [hg]
    refine ⟨fun hnot => ?_, fun hgo hp hplaced hsend hn => ?_, fun hgo hp hplaced hm hq => ?_⟩
    · rw [hexec, hearAgree_of_record hs hr, if_neg (by rw [hoffering]; tauto)]
      rfl
    all_goals rw [hearAgree_of_record hs hr, if_pos ⟨hoffering.mpr hgo, hp⟩] at hexec
    · rw [hexec, giverAgree_of_room hplaced hr hsend hn]
    · obtain ⟨r', hr', htag, hst, hpartner, hpl, hacc, hclaims, hbodies⟩ := giverAgree_of_placed (o := o) hplaced hr hm hq
      exact ⟨_, r', hexec, hr', htag, hst, hpartner, hpl, hacc, hclaims, hbodies⟩
  · intro onCell recovered
    have hexec := exec_liftedHeard hh hs hr hg
    have hcell : r.binOnCell = true ↔ onCell := by rw [binOnCell_iff]; simp [hg, onCell]
    have hrecovered : (r.state = .giver .ended ∧ r.outcome = some ⟨.failed, .recovered⟩) ↔ recovered := by simp [hg, recovered]
    have hapart : onCell → ¬recovered := by
      rintro ⟨-, h | h | h⟩ ⟨h', -⟩ <;> simp [h] at h'
    refine ⟨fun hnot => ?_, fun ho hc hcollected hn => ?_, fun ho hon hbin => ?_⟩
    · rw [hexec]
      split
      · next ho =>
        obtain ⟨h1, h2⟩ := hnot.resolve_left (not_not_intro ho)
        rw [Device.giverHearLifted, if_neg (mt hcell.mp h1), if_neg (mt hrecovered.mp h2)]
        rfl
      · rfl
    · have hcustody : s.giverHearLifted i r b.bin = s.raiseCustody i := by
        rcases hc with ⟨hon, hbin⟩ | hrec
        · rw [Device.giverHearLifted, if_pos (hcell.mpr hon), if_neg hbin]
        · rw [Device.giverHearLifted, if_neg (mt hcell.mp fun h => hapart h hrec), if_pos (hrecovered.mpr hrec)]
      rw [hexec, if_pos ho, hcustody, Device.raiseCustody, raise_of_room hn hr (by simp [hcollected])]
      rfl
    · let d := s.removeAccount (.slot i)
      let v := accountE (s.accountAt (.slot i))
      have hlift : s.giverHearLifted i r b.bin = d.endGiver i ⟨.done, .ok⟩ v := by
        rw [Device.giverHearLifted, if_pos (hcell.mpr hon), if_pos hbin]
        rfl
      have hdr : d.recordAt i = some r := hr
      obtain ⟨⟨q, hq, hqr⟩, htells, hacc, hpeers, -⟩ := endGiver_ended (o := ⟨.done, .ok⟩) (v := v) hdr
      have hnot : r.state ≠ .giver .staking := by
        obtain ⟨-, h | h | h⟩ := hon <;> simp [hg, h]
      have hother (h : ¬s.engine.run.Serves r.ordinal) :
          ((d.left i (r.giverEnded ⟨.done, .ok⟩ v)).runHears r.ordinal ⟨.done, .ok⟩).2 = false := by
        rw [runHears_of_other (d := d.left i _) h]
      have hours (h : s.engine.run.Serves r.ordinal) : RunAfterLift s.engine.run r.ordinal
          ((d.left i (r.giverEnded ⟨.done, .ok⟩ v)).runHears r.ordinal ⟨.done, .ok⟩) :=
        runHears_done (d := d.left i (r.giverEnded ⟨.done, .ok⟩ v)) hh.1 h rfl
      have hrunEq := endGiver_run_eq (x := ⟨.done, .ok⟩) (v := v) hdr
      refine ⟨d.endGiver i ⟨.done, .ok⟩ v, q, by rw [hexec, if_pos ho, hlift], hq, by rw [hqr]; rfl, by rw [hqr]; rfl, by rw [hqr]; rfl,
        by rw [hqr]; rfl, htells, ?_, by rw [hacc]; rfl, hpeers, ?_⟩
      · rw [accountAt_congr hacc]
        exact accountAt_removeAccount_slot s.toDevice i
      intro run ours done after goesOn skips ends
      have hgoes (h : goesOn ∨ skips) : ((d.left i (r.giverEnded ⟨.done, .ok⟩ v)).runHears r.ordinal ⟨.done, .ok⟩).2 = true := by
        rcases h with ⟨ho, hs, ha⟩ | ⟨ho, hs, ha, hskip, hnext⟩
        · obtain ⟨y, hy, hw⟩ := entryState_eq.mp ha
          exact ((hours ho).goesOn y hs hy hw).1
        · obtain ⟨y, hy, hw⟩ := entryState_eq.mp ha
          obtain ⟨z, hz, hzw⟩ := entryState_eq.mp hnext
          exact ((hours ho).skips y z hs hy hw hskip hz hzw).1
      have hstops (h : ¬ours ∨ (ends ∧ s.claimOfUse .runHold = none)) :
          ((d.left i (r.giverEnded ⟨.done, .ok⟩ v)).runHears r.ordinal ⟨.done, .ok⟩).2 = false := by
        by_cases ho : ours
        · obtain ⟨hends, -⟩ := h.resolve_left (not_not_intro ho)
          rcases ho.2 with hs | hs
          · rcases hends with hend | hnone | ⟨hw, hskip⟩
            · exact nomatch hs.symm.trans hend
            · exact ((hours ho).endOfList hs (Option.map_eq_none_iff.mp hnone)).1
            · obtain ⟨y, hy, hw⟩ := entryState_eq.mp hw
              exact ((hours ho).meets y hs hy hw hskip).1
          · exact ((hours ho).ending hs).1
        · exact hother ho
      refine ⟨fun h => endGiver_run_of_other (d := d) hdr h, fun ⟨ho, hs, ha⟩ => ?_, fun ⟨ho, hs, ha, hskip, hnext⟩ => ?_, fun ho hs ha => ?_,
        fun ho hs ha hskip => ?_, fun ho hs => ?_, fun x hx hphase => ⟨fun h => ?_, fun h => ⟨fun hw => ?_, fun j p hlen hact hp hw hfirst => ?_⟩⟩⟩
      · obtain ⟨y, hy, hw⟩ := entryState_eq.mp ha
        rw [((hours ho).goesOn y hs hy hw).2] at hrunEq
        exact hrunEq
      · obtain ⟨y, hy, hw⟩ := entryState_eq.mp ha
        obtain ⟨z, hz, hzw⟩ := entryState_eq.mp hnext
        rw [((hours ho).skips y z hs hy hw hskip hz hzw).2] at hrunEq
        exact hrunEq
      · exact endGiver_runEnded (d := d) hh.1 hdr ((hours ho).endOfList hs (Option.map_eq_none_iff.mp ha)).2
      · obtain ⟨y, hy, hw⟩ := entryState_eq.mp ha
        exact endGiver_runEnded (d := d) hh.1 hdr ((hours ho).meets y hs hy hw hskip).2
      · exact endGiver_runEnded (d := d) hh.1 hdr ((hours ho).ending hs).2
      · exact endGiver_runHold (d := d) hdr (hgoes h) hx hphase
      · exact ((endGiver_stake (d := d) hdr (hstops h) (h.imp_right And.right)).2 x hx
          (hw.imp (fun h => ⟨h, hphase⟩) fun hw j q _ hq => hw j q hq)).1 hphase
      · exact endGiver_pass (d := d) hdr hnot (hstops h) (h.imp_right And.right) hx hphase hact hlen hp hw hfirst

end Sys2Proof.Machine
end

section
/-! PROOF. The station's own expiries (R36, R37), and the ages and counts that run out (R18, R52, R60, R67). -/

namespace Sys2Proof.Machine

variable {s : State} {d e : Device} {i : Nat} {r : Record}

/-- What every step of a fold keeps, the fold keeps. -/
theorem foldl_keeps {α : Type} {Q : Device → Prop} {f : Device → α → Device} (hf : ∀ e a, Q e → Q (f e a)) (l : List α) (h : Q d) :
    Q (l.foldl f d) := by
  induction l generalizing d with
  | nil => exact h
  | cons a l ih => exact ih (hf d a h)

theorem forSlots_keeps {Q : Device → Prop} {f : Nat → Device → Device} (hf : ∀ e i, Q e → Q (f i e)) (h : Q d) : Q (forSlots f d) :=
  foldl_keeps (f := fun d i => f i d) hf slotList h

/-! ## The states of the records -/

/-- Every record of the table is in a state with a property. -/
def Device.StatesIn (p : RecState → Prop) (d : Device) : Prop := ∀ i r, d.recordAt i = some r → p r.state

section States

variable {p : RecState → Prop}

theorem Device.StatesIn.setSlot (h : d.StatesIn p) {q : Option Record} (hq : ∀ r, q = some r → p r.state) : (d.setSlot i q).StatesIn p := by
  intro j r hr
  by_cases hj : i = j
  · subst hj
    by_cases hi : i < d.engine.table.length
    · rw [recordAt_setSlot_self d q hi] at hr
      exact hq r hr
    · have hlt := recordAt_lt _ hr
      rw [show (d.setSlot i q).engine.table.length = d.engine.table.length from List.length_set ..] at hlt
      exact absurd hlt hi
  · exact h j r ((recordAt_setSlot_of_ne d q hj).symm.trans hr)

theorem Device.StatesIn.modRecord (h : d.StatesIn p) {f : Record → Record} (hf : ∀ r, p r.state → p (f r).state) :
    (d.modRecord i f).StatesIn p := by
  unfold Device.modRecord
  split
  · next r hr => exact h.setSlot fun q hq => by rw [← Option.some.inj hq]; exact hf r (h i r hr)
  · exact h

theorem Device.StatesIn.moveOwed (h : d.StatesIn p) : d.moveOwed.StatesIn p := by
  refine moveOwed_keeps (Q := Device.StatesIn p) (fun e he j r hr => ?_) h
  rcases moveOne_record e j with hsame | ⟨q, rest, hq, hmove | ⟨hnone, -⟩⟩
  · exact he j r (hsame.symm.trans hr)
  · obtain rfl := Option.some.inj (hmove.symm.trans hr)
    exact he j q hq
  · rw [hnone] at hr
    cases hr

theorem Device.StatesIn.raise (h : d.StatesIn p) (i : Nat) (k : NoticeKind) (o : OutcomePair) (v : List Byte) :
    (d.raise i k o v).StatesIn p :=
  Device.StatesIn.moveOwed (h.modRecord fun _ hr => hr)

theorem Device.StatesIn.endTaker (h : d.StatesIn p) (hp : p (.taker .ended)) (o : OutcomePair) : (d.endTaker i o).StatesIn p := by
  cases hr : d.recordAt i with
  | none => simpa [Device.endTaker, hr] using h
  | some r =>
    rw [endTaker_of_record hr]
    have hset : ((d.withoutShadow i r).setSlot i (some (r.takerEnded o (d.shadowE i r)))).StatesIn p := by
      refine Device.StatesIn.setSlot ?_ fun q hq => by rw [← Option.some.inj hq]; exact hp
      rw [withoutShadow_eq]
      exact h
    exact Device.StatesIn.raise (d := (d.withoutShadow i r).left i _) hset _ _ _ _

/-- R44: the loss of a partner leaves a record where it stands, frees it or ends it. -/
theorem Device.StatesIn.partnerLost (h : d.StatesIn p) (hu : p (.giver .unbound)) (he : p (.taker .ended)) (st : Station) :
    (d.partnerLost st).StatesIn p := by
  refine forSlots_keeps (Q := Device.StatesIn p) (fun d j h => ?_) h
  split
  · split
    · split
      · unfold Device.giverPartnerLost
        split
        · exact h.raise _ _ _ _
        · split
          · exact Device.StatesIn.raise (h.setSlot fun q hq => by rw [← Option.some.inj hq]; exact hu) _ _ _ _
          · exact h
      · unfold Device.takerPartnerLost
        split
        · exact h.raise _ _ _ _
        · exact h
        · exact h.endTaker he _
        · exact h
    · exact h
  · exact h

end States

/-! ## The station becomes ACTIVE (R94) -/

/-- Staking and offering make no record. -/
theorem Stakes.record_back {r' : Record} (h : Stakes d e) (hr : e.recordAt i = some r') :
    ∃ r, d.recordAt i = some r ∧ (r' = r ∨ r.Advances r') := by
  cases hd : d.recordAt i with
  | some r =>
    obtain ⟨q, hq, hkept⟩ := h.record hd
    obtain rfl := Option.some.inj (hr.symm.trans hq)
    exact ⟨r, rfl, hkept⟩
  | none =>
    exfalso
    induction h generalizing r' with
    | refl => simp [hd] at hr
    | entries _ _ ih => exact ih hr
    | @slot e j q q' hq _ _ ih =>
      by_cases hj : j = i
      · subst hj
        exact ih hq
      · exact ih ((recordAt_setSlot_of_ne e _ hj).symm.trans hr)
    | send _ _ _ _ _ ih => exact ih hr
    | free _ _ ih => exact ih hr

/-- A record that is not PENDING does not become so by staking and offering. -/
theorem Stakes.not_pending (h : Stakes d e) (hp : ∀ r, d.recordAt i = some r → r.state ≠ .giver .pending) :
    ∀ r, e.recordAt i = some r → r.state ≠ .giver .pending := by
  intro r hr
  obtain ⟨q, hq, rfl | hadv⟩ := h.record_back hr
  · exact hp r hq
  · rcases hadv.after with hs | hs <;> simp [hs]

/-- R94: what the station does at a slot when it becomes ACTIVE. -/
def Device.activeSlot (i : Nat) (d : Device) : Device :=
  if d.recordIs i fun r => r.state == .giver .pending then d.enterStaking i
  else if d.recordIs i fun r => r.state == .giver .offering && r.offers == 0 then d.queueOffer i
  else d

theorem engineActive_eq (d : Device) : d.engineActive = slotList.foldl (fun d i => d.activeSlot i) d := rfl

theorem Stakes.activeSlot (i : Nat) (h : Stakes d e) : Stakes d (e.activeSlot i) := by
  unfold Device.activeSlot
  split
  · next hp =>
    obtain ⟨r, hr, hp⟩ := recordIs_iff.mp hp
    exact h.enterStaking fun q hq => .inl (by obtain rfl := Option.some.inj (hr.symm.trans hq); simpa using hp)
  · split
    · next hp =>
      obtain ⟨r, hr, hp⟩ := recordIs_iff.mp hp
      simp only [Bool.and_eq_true, beq_iff_eq] at hp
      exact h.queueOffer fun q hq => by obtain rfl := Option.some.inj (hr.symm.trans hq); exact hp.1
    · exact h

theorem activeSlot_not_pending (i : Nat) (d : Device) : ∀ r, (d.activeSlot i).recordAt i = some r → r.state ≠ .giver .pending := by
  by_cases h : d.recordIs i fun r => r.state == .giver .pending
  · rw [Device.activeSlot, if_pos h]
    refine Stakes.not_pending ((Stakes.refl (d.modRecord i fun r => { r with state := .giver .staking })).stakingAttempt i) fun r hr => ?_
    obtain ⟨q, -, rfl⟩ := recordAt_modRecord hr
    simp
  · refine ((Stakes.refl d).activeSlot i).not_pending fun r hr hp => h ?_
    rw [recordIs_of_record hr, hp]
    rfl

/-- R94: each slot that the station has gone through holds no PENDING record. -/
theorem foldl_activeSlot_not_pending (l : List Nat) (hi : i ∈ l) :
    ∀ r, (l.foldl (fun d j => d.activeSlot j) d).recordAt i = some r → r.state ≠ .giver .pending := by
  induction l generalizing d with
  | nil => cases hi
  | cons j l ih =>
    by_cases hmem : i ∈ l
    · exact ih hmem
    · obtain rfl : i = j := (List.mem_cons.mp hi).resolve_right hmem
      exact (Stakes.foldl (fun k _ h => h.activeSlot k) l (.refl _)).not_pending (activeSlot_not_pending i d)

theorem becomeActive_not_pending (hlen : d.engine.table.length = Config.slotCount) :
    d.becomeActive.StatesIn (· ≠ .giver .pending) := by
  intro i r hr
  have hlt := recordAt_lt _ hr
  rw [(becomeActive_stakes d).table_length] at hlt
  refine foldl_activeSlot_not_pending (d := d.setStation .active) slotList (List.mem_range.mpr (hlen ▸ hlt)) r ?_
  rw [← engineActive_eq]
  exact hr

/-- R94: with every record ENDED nothing is staked or offered. -/
theorem becomeActive_of_ended (h : ∀ i r, d.recordAt i = some r → r.isEnded = true) : d.becomeActive = d.setStation .active := by
  rw [Device.becomeActive, engineActive_eq]
  refine foldl_keeps (Q := fun e => e = d.setStation .active) (fun e i he => ?_) slotList rfl
  subst he
  have hnot (p : Record → Bool) (hp : ∀ r, p r = true → r.isEnded = false) : (d.setStation .active).recordIs i p = false := by
    rw [← Bool.not_eq_true, recordIs_iff]
    rintro ⟨r, hr, hpr⟩
    have hend := h i r hr
    rw [hp r hpr] at hend
    cases hend
  rw [Device.activeSlot, hnot _ (fun r hr => by simp_all [Record.isEnded]), hnot _ (fun r hr => by simp_all [Record.isEnded])]
  rfl

/-! ## Join listen and host silence (R36, R37) -/

theorem joinTick_of_last (order : List Station) (hs : d.peers.state = .joining) (ht : d.peers.joinTimer = some 1) :
    d.joinTick order = d.joinExpires order := by
  simp [Device.joinTick, hs, ht]

/-- R44: what the loss of a partner leaves alone. -/
theorem partnerLost_beside (d : Device) (st : Station) : (d.partnerLost st).peers = d.peers ∧ (d.partnerLost st).accounts = d.accounts := by
  refine forSlots_keeps (Q := fun e => e.peers = d.peers ∧ e.accounts = d.accounts) (fun e j he => ?_) ⟨rfl, rfl⟩
  split
  · next r hr =>
    split
    · split
      · unfold Device.giverPartnerLost Device.raisePartnerLost
        split
        · exact ⟨(raise_peers ..).trans he.1, (raise_accounts ..).trans he.2⟩
        · split
          · exact ⟨(raise_peers ..).trans he.1, (raise_accounts ..).trans he.2⟩
          · exact he
      · unfold Device.takerPartnerLost Device.raisePartnerLost
        split
        · exact ⟨(raise_peers ..).trans he.1, (raise_accounts ..).trans he.2⟩
        · exact he
        · next t hready _ hstate =>
          obtain ⟨-, -, -, -, -, hacc, -, -, hpeers⟩ := endTaker_ends ⟨.upset, .partnerLost⟩ hr
          rw [withoutShadow_of_not_ready (by simpa [hstate] using hready)] at hacc
          exact ⟨hpeers.trans he.1, hacc.trans he.2⟩
        · exact he
    · exact he
  · exact he

theorem unheardPartners_of_ended (h : ∀ i r, d.recordAt i = some r → r.isEnded = true) : d.unheardPartners = [] := by
  have hpartner (st : Station) : d.hasPartner st = false := by
    rw [← Bool.not_eq_true, Device.hasPartner, anyRecord_iff]
    rintro ⟨r, hr, hp⟩
    obtain ⟨i, hi⟩ := List.mem_iff_getElem?.mp hr
    have hend := h i r ((recordAt_eq d i r).mpr hi)
    simp [hend] at hp
  simp [Device.unheardPartners, hpartner]

theorem orderBy_nil {α : Type} [DecidableEq α] (l : List α) : orderBy l ([] : List α) = [] := by
  induction l with
  | nil => rfl
  | cons a l ih => simpa [orderBy] using ih

/-- Settles O36. -/
theorem joinAndSilenceExpiriesChangeTheState : Obligations.JoinAndSilenceExpiriesChangeTheState := by
  refine ⟨fun s order hrun hs ht => ?_, fun s hrun ht => ?_⟩
  · let m := s.withPeers { s.peers with joinTimer := none }
    have hexec : exec (.joinListenExpiry order) s = .next (s.after (s.joinExpires order)) := by
      rw [← joinTick_of_last order hs ht]
      exact whenDue_of_due hrun (by simp [hs, ht])
    have hpeers : m.becomeActive.peers = { s.peers with state := .active, joinTimer := none } := by
      rw [(becomeActive_stakes m).eq]
      rfl
    have hacc : m.becomeActive.accounts = s.accounts := by
      rw [(becomeActive_stakes m).eq]
      rfl
    refine ⟨fun hlen => ?_, fun hend => ?_⟩
    · let Q (e : Device) : Prop := e.peers = m.becomeActive.peers ∧ e.accounts = m.becomeActive.accounts ∧
        e.StatesIn (· ≠ .giver .pending)
      have hkept : Q (s.joinExpires order) := by
        refine foldl_keeps (Q := Q) (fun e st he => ?_) _ ⟨rfl, rfl, becomeActive_not_pending (d := m) hlen⟩
        obtain ⟨h1, h2⟩ := partnerLost_beside e st
        exact ⟨h1.trans he.1, h2.trans he.2.1, he.2.2.partnerLost (by decide) (by decide) st⟩
      obtain ⟨h1, h2, h3⟩ := hkept
      exact ⟨_, hexec, h1.trans hpeers, h2.trans hacc, h3⟩
    · have hactive : m.becomeActive = m.setStation .active := becomeActive_of_ended (d := m) hend
      have hnobody : (m.setStation .active).unheardPartners = [] := unheardPartners_of_ended (d := m.setStation .active) hend
      have hjoin : s.joinExpires order = (orderBy order m.becomeActive.unheardPartners).foldl (fun d st => d.partnerLost st) m.becomeActive := rfl
      rw [hexec, hjoin, hactive, hnobody, orderBy_nil]
      rfl
  · refine (whenDue_of_due hrun (by simp [ht])).trans (congrArg (fun d => Host.Outcome.next (s.after d)) ?_)
    have htick : s.silenceTick = s.silenceExpires := by simp [Device.silenceTick, ht]
    rw [htick]
    simp only [Device.silenceExpires, withPeers_peers]
    cases s.peers.state <;> rfl

/-! ## The claim map (R52, R60, R67) -/

section Claims

variable {c : Cell} {st : Station} {x : Claim} {o : OwnStake}

theorem removeHeard_entries (d : Device) (c : Cell) (st : Station) :
    (d.removeHeard c st).claims.entries =
      (d.claims.entries.filter fun x => !(x.own.isNone && x.cell == c && x.claimant == st)).map fun x =>
        if x.own.isSome && x.cell == c then
          { x with own := x.own.map fun o => if o.rival = some st then { o with rival := none } else o }
        else x := rfl

theorem removeHeard_heardClaim (d : Device) (c : Cell) (st : Station) : (d.removeHeard c st).heardClaim c st = none := by
  rw [Device.heardClaim, removeHeard_entries, List.find?_eq_none]
  intro y hy
  obtain ⟨x, hx, rfl⟩ := List.mem_map.mp hy
  have hkept := (List.mem_filter.mp hx).2
  split
  · next hown =>
    rw [Bool.and_eq_true, Option.isSome_iff_exists] at hown
    obtain ⟨⟨o, ho⟩, -⟩ := hown
    simp [ho]
  · intro hp
    rw [hp] at hkept
    cases hkept

theorem removeHeard_mem (d : Device) (st : Station) (hx : x ∈ d.claims.entries) (hc : x.cell ≠ c) :
    x ∈ (d.removeHeard c st).claims.entries := by
  rw [removeHeard_entries, List.mem_map]
  exact ⟨x, List.mem_filter.mpr ⟨hx, by simp [hc]⟩, by simp [hc]⟩

theorem ownClaim_cell (h : d.ownClaim c = some x) : x.cell = c := by
  have hp := List.find?_some h
  simp only [Bool.and_eq_true, beq_iff_eq] at hp
  exact hp.2

/-- R60: the settle count runs out, and the stake is granted. -/
theorem settleTick_of_last (hx : d.ownClaim c = some x) (ho : x.own = some o) (hs : o.settle = some 1) :
    d.settleTick c = d.settleExpires x := by
  simp [Device.settleTick, hx, ho, hs]

theorem lingerTick_of_last (hx : d.ownClaim c = some x) (ho : x.own = some o) (hl : o.linger = some 1) :
    d.lingerTick c = d.releaseStake x := by
  simp [Device.lingerTick, hx, ho, hl]

end Claims

/-- Settles O38. -/
theorem agesSettleAndLingerRunOut : Obligations.AgesSettleAndLingerRunOut := by
  intro s hrun
  refine ⟨fun origin seq => ?_, fun row col st x hx hage hnone => ?_, fun row col x o i r a hx ho hsettle huse hr hstaking hplaced ha hbin => ?_,
    fun row col x o hx ho hlinger hnone hsend => ?_⟩
  · have hexpire : s.line.recentExpire origin seq = { s.line with
        recent := s.line.recent.filter fun p => decide (¬(p.origin = origin ∧ p.seq = seq ∧ p.age = 3)) } := by
      unfold LinePort.recentExpire
      refine congrArg (fun l => { s.line with recent := l }) (List.filter_congr fun p _ => ?_)
      rw [decide_not, Bool.not_inj_iff, Bool.eq_iff_iff, decide_eq_true_eq]
      simp [Config.recentAge, and_assoc]
    refine congrArg (fun d => Host.Outcome.next (s.after d)) ?_
    rw [whenRunning, if_pos (by simp [Device.running, hrun]), hexpire]
    rfl
  · have hages : s.claimAgesOut ⟨row, col⟩ st = s.removeHeard ⟨row, col⟩ st :=
      retryRemoved_of_noneStaking (d := s.removeHeard ⟨row, col⟩ st) hnone _
    refine ⟨s.removeHeard ⟨row, col⟩ st, ?_, removeHeard_heardClaim .., fun y hy hc => removeHeard_mem _ st hy hc, rfl, rfl, rfl, rfl, rfl⟩
    rw [← hages]
    exact whenDue_of_due hrun (by simp [hx, hage])
  · intro held new granted
    have hcell := ownClaim_cell hx
    have hplace : ownUse x = some (.slot i) := by simp [ownUse, ho, huse]
    have hexec : exec (.settleExpiry row col) s = .next (s.after ((s.withClaims granted).enterOffering i)) := by
      have hgrant : s.settleExpires x = (s.withClaims granted).enterOffering i := by
        simp only [Device.settleExpires, hplace, hcell]
        rfl
      rw [← hgrant, ← settleTick_of_last hx ho hsettle]
      exact whenDue_of_due hrun (by simp [Device.settleOf, hx, ho, hsettle])
    refine ⟨fun hidle => ?_, fun hactive hsend => ?_⟩
    · rw [hexec, enterOffering_of_not_active (d := s.withClaims granted) hr hidle]
      rfl
    · let m := (s.withClaims granted).setSlot i (some r.offering)
      have hrec : m.recordAt i = some r.offering := recordAt_setSlot_self (s.withClaims granted) _ (recordAt_lt _ hr)
      have hslack : m.recordSlack i r.offering = a.slack := by
        refine recordSlack_of_account rfl ?_ hbin
        rw [show r.offering.placed = false from hplaced]
        exact ha
      have hoffer := queueOffer_of_room (d := m) hsend hrec
      rw [Device.offerBody, hslack, flagByte_eq, if_neg (by simp [Record.offering, hplaced])] at hoffer
      rw [hexec, enterOffering_of_active (d := s.withClaims granted) hr hactive, hoffer]
      have hengine := congrArg Device.engine (setSlot_twice (d := s.withClaims granted) (i := i) (some r.offering)
        (some { r.offering with addressed := true, offers := 1 }))
      exact congrArg (fun y => Host.Outcome.next (s.after { s.toDevice with claims := granted, engine := y, line := _ })) hengine
  · have hrelease : s.releaseStake x = s.dropStake x := retryReleased_of_noneStaking (d := s.dropStake x) hnone _
    refine (whenDue_of_due hrun (by simp [Device.lingerOf, hx, ho, hlinger])).trans (congrArg (fun d => Host.Outcome.next (s.after d)) ?_)
    rw [lingerTick_of_last hx ho hlinger, hrelease, Device.dropStake, ownClaim_cell hx,
      sendAbsorbed_of_room (d := s.removeOwn ⟨row, col⟩) hsend .claimMap rfl]
    rfl

end Sys2Proof.Machine
end

section
/-! PROOF. The accounts are charged (R78 to R80, R87): one position, then all of them in any order. -/

namespace Sys2Proof.Machine

variable {s : State} {d e : Device} {i : Nat} {r : Record}

/-! ## Orders (R163) -/

section Orders

variable {α : Type} [DecidableEq α]

/-- Whatever order is preferred, every member comes once. -/
theorem orderBy_perm (l all : List α) : (orderBy l all).Perm all := by
  induction l generalizing all with
  | nil => exact .refl _
  | cons a l ih =>
    unfold orderBy
    split
    · next h => exact (List.Perm.cons a (ih _)).trans (List.perm_cons_erase h).symm
    · exact ih all

end Orders

/-! ## What a record is asked, whatever its notices -/

/-- A question that only a record that is not ENDED answers, whatever its pending-notice set. -/
structure AsksLive (p : Record → Bool) : Prop where
  live : ∀ r, r.isEnded = true → p r = false
  notices : ∀ r n, p { r with notices := n } = p r

theorem moveOwed_recordIs {p : Record → Bool} (hp : AsksLive p) (j : Nat) : d.moveOwed.recordIs j p = d.recordIs j p := by
  refine moveOwed_keeps (Q := fun e => e.recordIs j p = d.recordIs j p) (fun e he => ?_) rfl
  rw [← he]
  unfold Device.recordIs
  rcases moveOne_record e j with hsame | ⟨q, rest, hq, hmove | ⟨hgone, hend⟩⟩
  · rw [hsame]
  · rw [hq, hmove]
    exact hp.notices q rest
  · rw [hq, hgone]
    exact (hp.live q (Bool.and_eq_true_iff.mp hend).1).symm

theorem modRecord_recordIs {p : Record → Bool} {f : Record → Record} (hf : ∀ r, p (f r) = p r) (j : Nat) :
    (d.modRecord i f).recordIs j p = d.recordIs j p := by
  unfold Device.modRecord
  split
  · next r hr =>
    by_cases hj : i = j
    · subst hj
      rw [recordIs_of_record hr, recordIs_of_record (recordAt_setSlot_self d _ (recordAt_lt d hr)), hf]
    · unfold Device.recordIs
      rw [recordAt_setSlot_of_ne d _ hj]
  · rfl

theorem raise_recordIs {p : Record → Bool} (hp : AsksLive p) (i : Nat) (k : NoticeKind) (o : OutcomePair) (v : List Byte) (j : Nat) :
    (d.raise i k o v).recordIs j p = d.recordIs j p :=
  (moveOwed_recordIs hp j).trans (modRecord_recordIs (fun _ => hp.notices _ _) j)

theorem anyRecord_iff_recordIs {p : Record → Bool} : d.anyRecord p = true ↔ ∃ j, d.recordIs j p = true := by
  rw [anyRecord_iff]
  constructor
  · rintro ⟨r, hr, hp⟩
    obtain ⟨j, hj⟩ := List.mem_iff_getElem?.mp hr
    exact ⟨j, recordIs_iff.mpr ⟨r, (recordAt_eq d j r).mpr hj, hp⟩⟩
  · rintro ⟨j, hj⟩
    obtain ⟨r, hr, hp⟩ := recordIs_iff.mp hj
    exact ⟨r, List.mem_of_getElem? ((recordAt_eq d j r).mp hr), hp⟩

/-! ## One position (R78, R79) -/

/-- R79: the account once its limit is judged. -/
def Account.judged (a : Account) : Account := if a.crosses then { a with spent := true } else a

theorem accountAt_setAccount {a : Option Account} {p q : AccountPos} {b : Account} (h : d.accountAt p = some b) :
    (d.setAccount p a).accountAt q = if q = p then a else d.accountAt q := by
  cases p with
  | hoist => cases q <;> simp [Device.setAccount, Device.accountAt]
  | slot n =>
    have hn : n < d.accounts.slots.length := (List.getElem?_eq_some_iff.mp ((accountAt_slot_eq_some_iff d).mp h)).1
    cases q with
    | hoist => simp [Device.setAccount, Device.accountAt]
    | slot m =>
      simp only [Device.setAccount, Device.accountAt, withAccounts_accounts, List.getElem?_set, AccountPos.slot.injEq]
      by_cases hm : m = n
      · subst hm
        cases a <;> simp [hn]
      · simp [hm, Ne.symm hm]

/-- R79: the part once a limit is crossed, before BUDGET_SPENT is told. -/
def Device.spend (d : Device) (p : AccountPos) (a : Account) : Device :=
  let d := d.setAccount p (some { a with spent := true })
  d.withLink { d.link with flags := { d.link.flags with budget := true } }

/-- R79: BUDGET_SPENT is told by the position. -/
def Device.tellSpent (d : Device) (p : AccountPos) (a : Account) : Device :=
  match p with
  | .hoist => d.pushNotice (plainNotice .budgetSpent ⟨.done, .budgetSpent⟩ (bytesOfNat16 a.e) 0#8)
  | .slot i => d.raise i .budgetSpent ⟨.done, .budgetSpent⟩ (bytesOfNat16 a.e)

theorem spentCheck_of_crosses {p : AccountPos} {a : Account} (ha : d.accountAt p = some a) (h : a.crosses = true) :
    d.spentCheck p = (d.spend p a).tellSpent p a := by
  simp only [Device.spentCheck, ha, h, if_true]
  rfl

theorem spentCheck_of_not_crosses {p : AccountPos} {a : Account} (ha : d.accountAt p = some a) (h : a.crosses = false) :
    d.spentCheck p = d := by
  simp only [Device.spentCheck, ha, h, Bool.false_eq_true, if_false]

/-- What telling a spent budget leaves alone. -/
structure Device.ToldBudget (d e : Device) : Prop where
  beside : e = { d with engine := e.engine, link := e.link }
  budget : e.link.flags.budget = d.link.flags.budget
  records : ∀ p, AsksLive p → ∀ j, e.recordIs j p = d.recordIs j p

theorem tellSpent_told (d : Device) (p : AccountPos) (a : Account) : d.ToldBudget (d.tellSpent p a) := by
  cases p with
  | hoist =>
    have hlink : ∃ l : DriveLink, d.tellSpent .hoist a = d.withLink l ∧ l.flags.budget = d.link.flags.budget := by
      simp only [Device.tellSpent, Device.pushNotice]
      split
      · exact ⟨_, rfl, rfl⟩
      · exact ⟨_, rfl, rfl⟩
    obtain ⟨l, hl, hb⟩ := hlink
    rw [hl]
    exact ⟨rfl, hb, fun _ _ _ => rfl⟩
  | slot i => exact ⟨raise_sameBeside _ _ _ d i, congrArg SummaryFlags.budget (raise_flags d i ..), fun p hp j => raise_recordIs hp ..⟩

/-- R78 to R80, R87: what charging the accounts of some positions leaves of a part. -/
structure Device.Charged (k : Nat) (ps : List AccountPos) (d e : Device) : Prop where
  account : ∀ q, e.accountAt q = if q ∈ ps then (d.accountAt q).map fun a => (a.charged k).judged else d.accountAt q
  beside : e = { d with accounts := e.accounts, engine := e.engine, link := e.link }
  quiet : (∀ q ∈ ps, ∀ a, d.accountAt q = some a → (a.charged k).crosses = false) → e = { d with accounts := e.accounts }
  budget : e.link.flags.budget = true ↔
    d.link.flags.budget = true ∨ ∃ q ∈ ps, ∃ a, d.accountAt q = some a ∧ (a.charged k).crosses = true
  records : ∀ p, AsksLive p → ∀ j, e.recordIs j p = d.recordIs j p

theorem Device.Charged.nil (k : Nat) (d : Device) : d.Charged k [] d :=
  ⟨fun q => by simp, rfl, fun _ => rfl, by simp, fun _ _ _ => rfl⟩

theorem setAccount_beside (d : Device) (p : AccountPos) (a : Option Account) :
    d.setAccount p a = d.withAccounts (d.setAccount p a).accounts := by
  cases p <;> rfl

theorem setAccount_spend_beside (d : Device) (p : AccountPos) (x : Option Account) (a : Account) :
    (d.setAccount p x).spend p a =
      { d with accounts := ((d.setAccount p x).spend p a).accounts, link := ((d.setAccount p x).spend p a).link } := by
  cases p <;> rfl

theorem chargePosition_charged (k : Nat) (d : Device) (p : AccountPos) : d.Charged k [p] (d.chargePosition k p) := by
  cases ha : d.accountAt p with
  | none =>
    have hsame : d.chargePosition k p = d := by simp [Device.chargePosition, ha]
    rw [hsame]
    refine ⟨fun q => ?_, rfl, fun _ => rfl, ?_, fun _ _ _ => rfl⟩
    · split
      · next h => rw [List.mem_singleton.mp h, ha]; rfl
      · rfl
    · simp [ha]
  | some a =>
    let m := d.setAccount p (some (a.charged k))
    have hm : m.accountAt p = some (a.charged k) := (accountAt_setAccount ha).trans (if_pos rfl)
    have hbeside : m = d.withAccounts m.accounts := setAccount_beside ..
    have hcharge : d.chargePosition k p = m.spentCheck p := by simp only [Device.chargePosition, ha, m]
    by_cases hc : (a.charged k).crosses = true
    · let n := m.spend p (a.charged k)
      have htold := tellSpent_told n p (a.charged k)
      rw [hcharge, spentCheck_of_crosses hm hc]
      have hnacc : n.accounts = (m.setAccount p (some (a.charged k).judged)).accounts := by
        rw [Account.judged, if_pos hc]
        rfl
      have hnb : n = { d with accounts := n.accounts, link := n.link } := setAccount_spend_beside ..
      have hrest := htold.beside
      have hacc : (n.tellSpent p (a.charged k)).accounts = n.accounts := by rw [hrest]
      refine ⟨fun q => ?_, ?_, fun h => ?_, ?_, fun P hP j => (htold.records P hP j).trans ?_⟩
      · rw [accountAt_congr hacc, accountAt_congr hnacc, accountAt_setAccount hm, accountAt_setAccount ha]
        by_cases hq : q = p
        · subst hq
          simp [ha]
        · simp [hq]
      · rw [hrest, hnb]
      · have := h p (List.mem_singleton.mpr rfl) a ha
        rw [this] at hc
        cases hc
      · have hflag : (n.tellSpent p (a.charged k)).link.flags.budget = true := by rw [htold.budget]; rfl
        exact iff_of_true hflag (.inr ⟨p, List.mem_singleton.mpr rfl, a, ha, hc⟩)
      · rw [hnb]
        rfl
    · have hc : (a.charged k).crosses = false := by simpa using hc
      rw [hcharge, spentCheck_of_not_crosses hm hc]
      refine ⟨fun q => ?_, by rw [hbeside]; rfl, fun _ => by rw [hbeside]; rfl, ?_, fun P _ j => by rw [hbeside]; rfl⟩
      · rw [accountAt_setAccount ha]
        by_cases hq : q = p
        · subst hq
          simp [ha, Account.judged, hc]
        · simp [hq]
      · have hflag : m.link.flags = d.link.flags := by rw [hbeside]; rfl
        rw [hflag]
        simp [ha, hc]

theorem Device.Charged.trans {k : Nat} {ps qs : List AccountPos} {a b c : Device} (h : a.Charged k ps b) (g : b.Charged k qs c)
    (hd : ∀ q ∈ ps, q ∉ qs) : a.Charged k (ps ++ qs) c := by
  have hother (q : AccountPos) (hq : q ∈ qs) : b.accountAt q = a.accountAt q := by
    rw [h.account, if_neg fun hp => hd q hp hq]
  refine ⟨fun q => ?_, ?_, fun hquiet => ?_, ?_, fun p hp j => (g.records p hp j).trans (h.records p hp j)⟩
  · rw [g.account]
    by_cases hq : q ∈ qs
    · rw [if_pos hq, hother q hq, if_pos (List.mem_append_right _ hq)]
    · rw [if_neg hq, h.account]
      simp [hq]
  · rw [g.beside, h.beside]
  · have hb := h.quiet fun q hq x hx => hquiet q (List.mem_append_left _ hq) x hx
    have hc := g.quiet fun q hq x hx => hquiet q (List.mem_append_right _ hq) x ((hother q hq).symm.trans hx)
    rw [hc, hb]
  · rw [g.budget, h.budget, or_assoc]
    refine or_congr Iff.rfl ⟨?_, ?_⟩
    · rintro (⟨q, hq, x, hx, hc⟩ | ⟨q, hq, x, hx, hc⟩)
      · exact ⟨q, List.mem_append_left _ hq, x, hx, hc⟩
      · exact ⟨q, List.mem_append_right _ hq, x, (hother q hq).symm.trans hx, hc⟩
    · rintro ⟨q, hq, x, hx, hc⟩
      rcases List.mem_append.mp hq with hq | hq
      · exact .inl ⟨q, hq, x, hx, hc⟩
      · exact .inr ⟨q, hq, x, (hother q hq).trans hx, hc⟩

theorem foldl_charged (k : Nat) (d : Device) {ps : List AccountPos} (h : ps.Nodup) :
    d.Charged k ps (ps.foldl (fun d p => d.chargePosition k p) d) := by
  induction ps generalizing d with
  | nil => exact .nil k d
  | cons p ps ih =>
    obtain ⟨hp, hps⟩ := List.nodup_cons.mp h
    exact (chargePosition_charged k d p).trans (ih _ hps) fun q hq => by rw [List.mem_singleton.mp hq]; exact hp

theorem allPositions_nodup : allPositions.Nodup := by decide

theorem mem_allPositions {p : AccountPos} {a : Account} (hlen : d.accounts.slots.length = 16) (ha : d.accountAt p = some a) :
    p ∈ allPositions := by
  cases p with
  | hoist => exact List.mem_cons_self
  | slot n =>
    have hn : n < 16 := hlen ▸ (List.getElem?_eq_some_iff.mp ((accountAt_slot_eq_some_iff d).mp ha)).1
    exact List.mem_cons_of_mem _ (List.mem_map.mpr ⟨n, List.mem_range.mpr hn, rfl⟩)

/-! ## An accounting second (R78 to R80) -/

theorem judged_e (a : Account) : a.judged.e = a.e := by unfold Account.judged; split <;> rfl
theorem judged_wait (a : Account) : a.judged.wait = a.wait := by unfold Account.judged; split <;> rfl

theorem judged_class (a : Account) : a.judged.bin = a.bin ∧ a.judged.cls = a.cls ∧ a.judged.location = a.location := by
  unfold Account.judged
  split <;> exact ⟨rfl, rfl, rfl⟩

/-- R79: an account at its limit. -/
def Account.atLimit (a : Account) : Prop := (a.cls = .chilled ∧ 2400 ≤ a.e) ∨ (a.cls = .frozen ∧ 1500 ≤ a.e)

theorem crosses_iff (a : Account) : a.crosses = true ↔ a.atLimit ∧ a.spent = false := by
  unfold Account.crosses Account.atLimit
  cases h : a.cls <;> simp [BinClass.limit]

theorem judged_spent (a : Account) : a.judged.spent = true ↔ a.spent = true ∨ a.atLimit := by
  unfold Account.judged
  split
  · next h => simp [((crosses_iff a).mp h).1]
  · next h =>
    rw [crosses_iff, not_and, Bool.not_eq_false] at h
    exact ⟨.inl, fun hs => hs.elim id h⟩

theorem asksLive_staking (b : BinId) : AsksLive fun r => r.state == .giver .staking && r.bin == b := by
  refine ⟨fun r hr => ?_, fun _ _ => rfl⟩
  have : r.state ≠ .giver .staking := by
    intro h
    simp [Record.isEnded, h] at hr
  simp [this]

/-- R80: a record of the bin is in STAKING. -/
def Device.StakesBin (d : Device) (b : BinId) : Prop := ∃ r, some r ∈ d.engine.table ∧ r.state = .giver .staking ∧ r.bin = b

theorem stakesBin_iff (d : Device) (b : BinId) :
    (d.anyRecord fun r => r.state == .giver .staking && r.bin == b) = true ↔ d.StakesBin b := by
  rw [anyRecord_iff]
  simp [Device.StakesBin]

/-- R80: the hoist account's staking wait. -/
def Account.waited (a : Account) : Account := { a with wait := min Config.countMax (a.wait + 1) }

theorem countWait_beside (d : Device) : d.countWait = { d with accounts := d.countWait.accounts } := by
  unfold Device.countWait
  split
  · split <;> rfl
  · rfl

theorem countWait_slots (d : Device) : d.countWait.accounts.slots = d.accounts.slots := by
  unfold Device.countWait
  split
  · split <;> rfl
  · rfl

theorem countWait_waits {a : Account} (ha : d.accounts.hoist = some a) (h : d.StakesBin a.bin) : d.countWait.accounts.hoist = some a.waited := by
  simp only [Device.countWait, ha]
  rw [if_pos ((stakesBin_iff d a.bin).mpr h)]
  rfl

theorem countWait_idle (h : ∀ a, d.accounts.hoist = some a → ¬d.StakesBin a.bin) : d.countWait = d := by
  unfold Device.countWait
  split
  · next a ha => rw [if_neg (mt (stakesBin_iff d a.bin).mp (h a ha))]
  · rfl

/-- Settles O34. -/
theorem accountingSecondCountsEveryAccount : Obligations.AccountingSecondCountsEveryAccount := by
  intro s order hrun hlen weight atLimit
  have hweight (a : Account) : a.rate * 1 = weight a := by
    obtain ⟨bin, cls, e, loc, spent, wait⟩ := a
    cases cls <;> cases loc <;> rfl
  have hcharged (a : Account) : (a.charged 1).e = min 65535 (a.e + weight a) := by
    rw [← hweight]
    rfl
  have hlimit (a : Account) : (a.charged 1).atLimit ↔ atLimit a := by
    rw [Account.atLimit, hcharged]
    rfl
  let order' := orderBy order allPositions
  have hperm : order'.Perm allPositions := orderBy_perm order allPositions
  let m := order'.foldl (fun d p => d.chargePosition 1 p) s.toDevice
  have hm : s.toDevice.Charged 1 order' m := foldl_charged 1 s.toDevice (hperm.nodup_iff.mpr allPositions_nodup)
  have hmem {p : AccountPos} {a : Account} (ha : s.accountAt p = some a) : p ∈ order' := hperm.mem_iff.mpr (mem_allPositions hlen ha)
  have hcounted {p : AccountPos} {a : Account} (ha : s.accountAt p = some a) : m.accountAt p = some (a.charged 1).judged := by
    rw [hm.account, if_pos (hmem ha), ha]
    rfl
  have hstakes (b : BinId) : m.StakesBin b ↔ s.StakesBin b := by
    rw [← stakesBin_iff, ← stakesBin_iff, anyRecord_iff_recordIs, anyRecord_iff_recordIs]
    exact exists_congr fun j => by rw [hm.records _ (asksLive_staking b) j]
  have hbeside := hm.beside
  have hexec : exec (.accountingSecond order) s = .next (s.after m.countWait) := by
    refine congrArg (fun d => Host.Outcome.next (s.after d)) ?_
    exact if_pos (by simp [Device.running, hrun])
  have hslot (n : Nat) : m.countWait.accountAt (.slot n) = m.accountAt (.slot n) := by
    simp only [Device.accountAt, countWait_slots]
  refine ⟨_, hexec, by rw [countWait_beside, hbeside], by rw [countWait_beside, hbeside], by rw [countWait_beside, hbeside],
    by rw [countWait_beside, hbeside], fun p => ?_, ?_, fun hquiet => ?_⟩
  · cases ha : s.accountAt p with
    | none =>
      have hnone : m.accountAt p = none := by
        rw [hm.account, ha]
        exact ite_self _
      cases p with
      | slot n => exact (hslot n).trans hnone
      | hoist =>
        have hidle : m.countWait = m := countWait_idle fun b hb => by simp [show m.accounts.hoist = none from hnone] at hb
        show m.countWait.accountAt .hoist = none
        rw [hidle]
        exact hnone
    | some a =>
      have hc := hcounted ha
      obtain ⟨hbin, hcls, hloc⟩ := judged_class (a.charged 1)
      have hspent : (a.charged 1).judged.spent = true ↔ a.spent = true ∨ atLimit a := (judged_spent _).trans (or_congr Iff.rfl (hlimit a))
      have he : (a.charged 1).judged.e = min 65535 (a.e + weight a) := (judged_e _).trans (hcharged a)
      have hwait : (a.charged 1).judged.wait = a.wait := judged_wait _
      by_cases hw : p = .hoist ∧ s.StakesBin a.bin
      · obtain ⟨rfl, hb⟩ := hw
        have hb' : m.StakesBin (a.charged 1).judged.bin := by rw [hbin]; exact (hstakes _).mpr hb
        refine ⟨(a.charged 1).judged.waited, countWait_waits hc hb', hbin, hcls, hloc, he, hspent, fun _ _ => ?_, fun h => ?_⟩
        · rw [Account.waited, hwait]
          rfl
        · exact absurd ⟨rfl, hb⟩ h
      · have hsame : m.countWait.accountAt p = some (a.charged 1).judged := by
          cases p with
          | slot n => exact (hslot n).trans hc
          | hoist =>
            have hidle : m.countWait = m := countWait_idle fun b hb hst => by
              obtain rfl := Option.some.inj (hc.symm.trans hb)
              rw [hbin] at hst
              exact hw ⟨rfl, (hstakes _).mp hst⟩
            rw [hidle]
            exact hc
        exact ⟨_, hsame, hbin, hcls, hloc, he, hspent, fun hp hst => absurd ⟨hp, hst⟩ hw, fun _ => hwait⟩
  · rintro ⟨p, a, ha, hspent, hat⟩
    have hflag : m.link.flags.budget = true :=
      hm.budget.mpr (.inr ⟨p, hmem ha, a, ha, (crosses_iff _).mpr ⟨(hlimit a).mpr hat, hspent⟩⟩)
    rw [countWait_beside]
    exact hflag
  · have hsame : m = { s.toDevice with accounts := m.accounts } := hm.quiet fun q _ a ha => by
      rw [Bool.eq_false_iff, ne_eq, crosses_iff]
      rintro ⟨hat, hspent⟩
      rcases hquiet q a ha with h | h
      · rw [show a.spent = false from hspent] at h
        cases h
      · exact h ((hlimit a).mp hat)
    rw [countWait_beside, hsame]
    exact ⟨rfl, rfl⟩

end Sys2Proof.Machine
end

section
/-! PROOF. An OFFER heard (R112 to R114). -/

namespace Sys2Proof.Machine

variable {s : State} {d e : Device} {i : Nat} {r : Record} {o : Station} {b : OfferBody}

/-- A record without notices, written in any slot, leaves nothing owed. -/
theorem canNotify_setSlot_new (h : d.canNotify) {q : Record} (hq : q.notices = []) : (d.setSlot i (some q)).canNotify := by
  obtain ⟨hrun, howes, hroom⟩ := h
  obtain ⟨hempty, hmark⟩ := owes_eq_false.mp howes
  refine ⟨hrun, owes_eq_false.mpr ⟨fun j x hx => ?_, hmark⟩, hroom⟩
  by_cases hj : i = j
  · subst hj
    rw [recordAt_setSlot_self d _ ((recordAt_lt _ hx).trans_eq (List.length_set ..))] at hx
    rw [← Option.some.inj hx, hq]
  · exact hempty j x ((recordAt_setSlot_of_ne d _ hj).symm.trans hx)

theorem hearOffer_of_held (hs : d.slotOf b.tag = some i) (hr : d.recordAt i = some r) :
    d.hearOffer o b =
      if r.state = .taker .bound ∧ r.partner = o ∧ b.placed = 1 then d.setSlot i (some { r with placed := true }) else d := by
  simp only [Device.hearOffer, hs, recordIs_of_record hr, modRecord_of_record hr]
  refine if_congr ?_ rfl rfl
  simp [and_assoc]

theorem hearOffer_of_new (hs : d.slotOf b.tag = none) :
    d.hearOffer o b = if b.taker = 0 ∨ b.taker = d.line.station then d.newOffer o b else d := by
  simp only [Device.hearOffer, hs]
  rfl

/-- R112: the record that an OFFER makes. -/
def invitedRecord (o : Station) (b : OfferBody) : Record :=
  { Record.new b.tag (.taker .invited) o b.bin (BinClass.ofByte b.cls) b.cell b.ordinal.toNat with placed := b.placed == 1#8 }

theorem invite_of_room (hi : i < d.engine.table.length) (hn : d.canNotify) :
    d.invite i o b = { d with
      engine := d.tableWith i (invitedRecord o b),
      link := d.notified ((invitedRecord o b).notice i .invite ⟨.done, .ok⟩ (bytes16 b.slack)) } := by
  have hraise := raise_of_room (k := .invite) (o := outcomeDone) (values := bytes16 b.slack)
    (canNotify_setSlot_new (q := invitedRecord o b) hn rfl) (recordAt_setSlot_self d _ hi) rfl
  exact hraise

theorem newOffer_of_mute (h : d.line.mode = .mute) : d.newOffer o b = d := by
  simp [Device.newOffer, Device.muted, h]

theorem newOffer_of_idle (hm : d.line.mode = .normal) (h : d.peers.state = .lapsed ∨ d.peers.state = .ceding) :
    d.newOffer o b = d.sendDecline b.tag 4#8 := by
  simp [Device.newOffer, Device.muted, hm, h]

theorem newOffer_of_live (hm : d.line.mode = .normal) (h : d.peers.state = .joining ∨ d.peers.state = .active) :
    d.newOffer o b = match d.freeSlot with
      | some i => d.invite i o b
      | none => if b.taker = d.line.station then d.sendDecline b.tag 1#8 else d := by
  have hnot : ¬(d.peers.state = .lapsed ∨ d.peers.state = .ceding) := by rcases h with h | h <;> simp [h]
  simp only [Device.newOffer, Device.muted, hm, hnot, if_false]
  rfl

/-- Settles O50. -/
theorem offersInviteOrRepeat : Obligations.OffersInviteOrRepeat := by
  intro s o b hh
  have hexec : exec (.offerHeard o b) s = .next (s.after (s.hearOffer o b)) := exec_heard hh _
  refine ⟨fun i r hs hr => ?_, fun hs => ⟨fun hzero hother => ?_, fun hours => ?_⟩⟩
  · rw [hexec, hearOffer_of_held hs hr]
    split <;> rfl
  · rw [hexec, hearOffer_of_new hs, if_neg (by tauto)]
    rfl
  · intro declined
    rw [hearOffer_of_new hs, if_pos hours] at hexec
    have hdecline (hsend : s.canSend) (x : Byte) : s.sendDecline b.tag x = declined x := sendAbsorbed_of_room hsend .engine rfl
    refine ⟨fun hmute => ?_, fun hsend hidle => ?_, fun hsend hlive hfull => ?_, fun i hm hlive hfree hn => ?_⟩
    · rw [hexec, newOffer_of_mute hmute]
      rfl
    · rw [hexec, newOffer_of_idle hsend.1 hidle, hdecline hsend]
      rfl
    · rw [hexec, newOffer_of_live hsend.1 hlive, hfull]
      dsimp only
      rw [hdecline hsend]
      split <;> rfl
    · intro r
      rw [hexec, newOffer_of_live hm hlive, hfree]
      dsimp only
      rw [invite_of_room (freeSlot_lt hfree) hn]
      have hrec : invitedRecord o b = { r with placed := decide (b.placed = 1) } := by
        simp only [r, invitedRecord, ofByte_eq]
        rfl
      rw [hrec]
      rfl

end Sys2Proof.Machine
end

section
/-! PROOF. The end of a transmission (R11, R12) and what the blocks do with the ending of their frames (R14). -/

namespace Sys2Proof.Machine

variable {s : State} {d : Device} {i : Nat} {r : Record} {x : TxEntry} {rest : List TxEntry} {e : Ending}

/-! ## The ending of an own frame (R14) -/

theorem slotWhen_of_record {t : Tag} {p : Record → Bool} (hs : d.slotOf t = some i) (hr : d.recordAt i = some r) (hp : p r = true) :
    d.slotWhen t p = some i := by
  simp only [Device.slotWhen, hs, recordIs_of_record hr, hp, if_true]

/-- R8, R14: the ending of an absorbed frame changes nothing, nor does that of a CEDE with a record. -/
theorem report_absorbed (h : x.Absorbed ∨ ∃ b, x.frame.body = .cede b ∧ d.engine.ceding.frame ≠ some x.frame.seq) :
    Device.report e d x = d := by
  unfold Device.report
  rcases h with (h | h) | ⟨b, hb, hf⟩
  · exact if_pos h
  · split
    · rfl
    · cases hb : x.frame.body <;> simp_all
  · split
    · rfl
    · simp only [hb, Device.cedeEnded, if_neg hf]

section Own

variable (hs : x.sender ≠ .relay)

include hs

theorem report_stake {b : StakeBody} (hb : x.frame.body = .stake b) : Device.report e d x = d.stakeEnded x.frame.seq e := by
  simp only [Device.report, if_neg hs, hb]

theorem report_agree {b : AgreeBody} (hb : x.frame.body = .agree b) : Device.report e d x = d.agreeEnded b.tag x.frame.seq e := by
  simp only [Device.report, if_neg hs, hb]

theorem report_bind {b : BindBody} (hb : x.frame.body = .bind b) : Device.report e d x = d.bindEnded b.tag x.frame.seq e := by
  simp only [Device.report, if_neg hs, hb]

theorem report_setdown {b : SetdownBody} (hb : x.frame.body = .setdown b) :
    Device.report e d x = d.setdownEnded b.tag x.frame.seq e := by
  simp only [Device.report, if_neg hs, hb]

theorem report_lifted {b : LiftedBody} (hb : x.frame.body = .lifted b) : Device.report e d x = d.liftedEnded b.tag x.frame.seq e := by
  simp only [Device.report, if_neg hs, hb]

theorem report_adopt {b : AdoptBody} (hb : x.frame.body = .adopt b) : Device.report e d x = d.adoptEnded x.frame.seq e := by
  simp only [Device.report, if_neg hs, hb]

/-- R39, R144: the ending of the empty CEDE ends the ceding. -/
theorem report_cede {b : CedeBody} (hb : x.frame.body = .cede b) (hf : d.engine.ceding.frame = some x.frame.seq)
    (ht : d.engine.ceding.turn = .emptyCede) (hh : d.peers.hostReturned = false) :
    Device.report e d x = { d with
      peers := { d.peers with state := .lapsed },
      engine := { d.engine with ceding := { d.engine.ceding with
        adopter := none, tags := [], turn := .none, attempts := 0, broken := false, frame := none } } } := by
  simp only [Device.report, if_neg hs, hb, Device.cedeEnded, hf, if_true, Device.emptyCedeEnded, ht]
  exact endCeding_of_silent hh

end Own

/-! ## A clean send (R11) -/

/-- R11: the Line Port once its head has been sent. -/
def LinePort.sentHead (l : LinePort) (rest : List TxEntry) : LinePort :=
  { l with queue := rest, tx := if rest = [] then .idle else .quietWait, remaining := none, window := 8, carrier := false }

theorem popHead_eq {l : LinePort} (h : l.queue = x :: rest) :
    l.popHead = { l with queue := rest, tx := if rest = [] then .idle else .quietWait, remaining := none } := by
  simp only [LinePort.popHead, h, List.tail_cons, List.isEmpty_iff]

theorem exec_cleanSend (hrun : s.power.state = .run) (hc : s.peers.state ≠ .unconfigured) (ht : s.line.tx = .send)
    (hq : s.line.queue = x :: rest) :
    exec .cleanSend s = .next (s.after (Device.report .sent (s.withLine (s.line.sentHead rest)) x)) := by
  refine congrArg (fun d => Host.Outcome.next (s.after d)) ?_
  have hsend : s.cleanSend = Device.report .sent (s.withLine (s.line.sentHead rest)) x := by
    simp only [Device.cleanSend, ht, if_true, hq, popHead_eq hq]
    rfl
  rw [← hsend]
  exact if_pos (by simp [Device.running, Device.configured, hrun, hc])

/-- Settles O43. -/
theorem cleanSendEndsTheHead : Obligations.CleanSendEndsTheHead := by
  intro s x rest hrun hc ht hq line
  have hexec := exec_cleanSend hrun hc ht hq
  refine ⟨fun h => ?_, fun b y hs hb hy => ?_, fun b i r hs hb hslot hr hst hf => ?_, fun b i r hs hb hslot hr hf => ?_,
    fun b i r hs hb hslot hr hf => ?_, fun b hs hb hf hp => ?_, fun b hs hb hf hturn hh => ?_,
    fun b i r o hs hb hslot hr hl hf ho hcol hn => ?_⟩
  · rw [hexec, report_absorbed (d := s.withLine (s.line.sentHead rest)) h]
    rfl
  · have hy' : (s.withLine (s.line.sentHead rest)).stakeAwaiting x.frame.seq = some y := hy
    rw [hexec, report_stake hs hb, Device.stakeEnded, hy']
    rfl
  · rw [hexec, report_agree hs hb, Device.agreeEnded,
      slotWhen_of_record (d := s.withLine (s.line.sentHead rest)) hslot hr (by simp [hst, hf])]
    dsimp only
    rw [modRecord_withLine _ hr]
    rfl
  · rw [hexec, report_bind hs hb, Device.bindEnded, slotWhen_of_record (d := s.withLine (s.line.sentHead rest)) hslot hr (by simp [hf])]
    dsimp only
    rw [modRecord_withLine _ hr]
    rfl
  · rw [hexec, report_setdown hs hb, Device.setdownEnded,
      slotWhen_of_record (d := s.withLine (s.line.sentHead rest)) hslot hr (by simp [hf])]
    dsimp only
    rw [modRecord_withLine _ hr]
    rfl
  · rw [hexec, report_adopt hs hb, Device.adoptEnded, if_pos (show (s.withLine (s.line.sentHead rest)).engine.adoption.frame = _ from hf)]
    dsimp only
    rw [Device.adoptSent, if_pos (show (s.withLine (s.line.sentHead rest)).engine.adoption.phase = _ from hp)]
    rfl
  · rw [hexec, report_cede (d := s.withLine (s.line.sentHead rest)) hs hb hf hturn hh]
    rfl
  · let q : Record := { r with lifted := .sent, liftedFrame := none }
    have hrec : ((s.withLine (s.line.sentHead rest)).setSlot i (some q)).recordAt i = some q :=
      recordAt_setSlot_self (s.withLine _) _ (recordAt_lt _ hr)
    have hnotify : ((s.withLine (s.line.sentHead rest)).setSlot i (some q)).canNotify :=
      canNotify_setSlot (d := s.withLine _) (r := r) hn hr rfl
    rw [hexec, report_lifted hs hb, Device.liftedEnded,
      slotWhen_of_record (d := s.withLine (s.line.sentHead rest)) hslot hr (by simp [hl, hf])]
    dsimp only
    rw [Device.liftedSent, modRecord_withLine _ hr, raiseEnded_of_record hrec, raise_of_room hnotify hrec (by simp [q, hcol])]
    simp only [q, ho, Option.getD_some]
    rfl

/-! ## A collision (R12) -/

/-- R12: the Line Port once its head has been given up. -/
def LinePort.gaveUp (l : LinePort) (rest : List TxEntry) : LinePort :=
  { l with queue := rest, tx := if rest = [] then .idle else .quietWait, remaining := none, window := min 64 (2 * l.window) }

theorem exec_collision (hrun : s.power.state = .run) (hc : s.peers.state ≠ .unconfigured) :
    exec .collision s = .next (s.after s.toDevice.collision) :=
  congrArg (fun d => Host.Outcome.next (s.after d)) (if_pos (by simp [Device.running, Device.configured, hrun, hc]))

theorem collision_again (ht : d.line.tx = .send) (hq : d.line.queue = x :: rest) (h : x.collisions < 5) :
    d.collision = d.withLine { d.line with
      queue := { x with collisions := x.collisions + 1 } :: rest, tx := .quietWait, remaining := none,
      window := min 64 (2 * d.line.window) } := by
  simp only [Device.collision, ht, if_true, hq]
  rw [if_pos (show x.collisions + 1 < Config.maxCollisions from Nat.succ_lt_succ h)]
  rfl

theorem collision_sixth (ht : d.line.tx = .send) (hq : d.line.queue = x :: rest) (h : x.collisions = 5) :
    d.collision = Device.report (.dropped .lineCongested) (d.withLine (d.line.gaveUp rest)) x := by
  simp only [Device.collision, ht, if_true, hq]
  rw [if_neg (by rw [h]; decide), popHead_eq rfl]
  rfl

/-- R99: the record of a BIND that is given up is free again, and its taker is told. -/
theorem bindDropped_of_room (hr : d.recordAt i = some r) (h : r.state = .giver .bound ∨ r.state = .giver .placed) (hsend : d.canSend)
    (hn : d.canNotify) :
    d.bindDropped i = { d with
      line := d.sent .engine (.cancel { tag := r.tag, reason := 3 }),
      engine := d.tableWith i r.unbound,
      link := d.notified (r.notice i .partnerLost ⟨.upset, .partnerLost⟩ [5]) } := by
  have hfree := raisePartnerLost_of_room (q := r.unbound) (x := .partnerLost) (n := 5#8) hn hr rfl rfl
  simp only [Device.bindDropped, hr, if_pos h, hfree, Device.sendCancel]
  refine (sendAbsorbed_of_room ?_ .engine rfl).trans rfl
  exact hsend

/-- Settles O44. -/
theorem collisionDoublesTheWindow : Obligations.CollisionDoublesTheWindow := by
  intro s x rest hrun hc ht hq gone
  have hsixth (h : x.collisions = 5) :
      exec .collision s = .next (s.after (Device.report (.dropped .lineCongested) (s.withLine gone) x)) := by
    rw [exec_collision hrun hc, collision_sixth ht hq h]
    rfl
  refine ⟨fun h => ?_, fun h ha => ?_, fun b i r h hs hb hslot hr hst hf hn => ?_, fun b y i r h hs hb hy huse hr => ?_,
    fun b i r h hs hb hslot hr hf hst hm hlen hn => ?_, fun b i r h hs hb hslot hr hf hst => ?_,
    fun b i r h hs hb hslot hr hl hf => ?_, fun b h hs hb hf hp hn => ?_, fun b h hs hb hf hturn hh => ?_⟩
  · rw [exec_collision hrun hc, collision_again ht hq h]
    rfl
  all_goals rw [hsixth h]
  · rw [report_absorbed (d := s.withLine gone) ha]
    rfl
  · rw [report_agree hs hb, Device.agreeEnded, slotWhen_of_record (d := s.withLine gone) hslot hr (by simp [hst, hf])]
    dsimp only
    rw [Device.agreeDropped, recordIs_of_record (d := s.withLine gone) hr, if_pos (by simp [hst]),
      endTaker_of_room_before_ready (d := s.withLine gone) hn hr (by simp [hst])]
    rfl
  · have hy' : (s.withLine gone).stakeAwaiting x.frame.seq = some y := hy
    have hr' : ((s.withLine gone).removeOwn y.cell).recordAt i = some r := hr
    rw [report_stake hs hb, Device.stakeEnded, hy']
    simp only [huse]
    rw [Device.stakeDropped, modRecord_of_record hr']
    rfl
  · rw [report_bind hs hb, Device.bindEnded, slotWhen_of_record (d := s.withLine gone) hslot hr (by simp [hf])]
    dsimp only
    rw [bindDropped_of_room (d := s.withLine gone) hr hst ⟨hm, hlen⟩ hn]
    rfl
  · rw [report_setdown hs hb, Device.setdownEnded, slotWhen_of_record (d := s.withLine gone) hslot hr (by simp [hf])]
    dsimp only
    rw [Device.setdownDropped, modRecord_withLine _ hr, if_pos hst]
    rfl
  · rw [report_lifted hs hb, Device.liftedEnded, slotWhen_of_record (d := s.withLine gone) hslot hr (by simp [hl, hf])]
    dsimp only
    rw [Device.liftedDropped, modRecord_withLine _ hr, if_pos hl]
    rfl
  · rw [report_adopt hs hb, Device.adoptEnded, if_pos (show (s.withLine gone).engine.adoption.frame = _ from hf)]
    dsimp only
    rw [Device.adoptDropped, if_pos (show (s.withLine gone).engine.adoption.phase = _ from hp),
      endAdoption_of_room (d := s.withLine gone) hn]
    rfl
  · rw [report_cede (d := s.withLine gone) hs hb hf hturn hh]
    rfl

end Sys2Proof.Machine
end

section
/-! PROOF. STAKE and UNSTAKE heard (R51, R59, R61, R66, R72 to R74). -/

namespace Sys2Proof.Machine

variable {s : State} {d e : Device} {i : Nat} {r : Record} {o st : Station} {c : Cell}

/-! ## Watches (R72 to R74) -/

theorem admits_iff (w : Watch) (c : Cell) (o : Station) : w.admits c o = true ↔ w.Admits c o := by
  simp [Watch.admits, Watch.Admits, patternMatches, and_assoc]

/-- One watch in turn. -/
def Device.watchTurn (c : Cell) (st : Station) (d : Device) (k : Nat) : Device :=
  match d.claims.watches[k]? with
  | some (some w) => if w.admits c st then d.watchHit k c st else d
  | _ => d

theorem watchHits_eq (d : Device) (c : Cell) (st : Station) :
    d.watchHits c st = (List.range d.claims.watches.length).foldl (Device.watchTurn c st) d := rfl

theorem watchHit_link (d : Device) (k : Nat) (c : Cell) (st : Station) : d.watchHit k c st = d.withLink (d.watchHit k c st).link := by
  unfold Device.watchHit
  obtain ⟨ns, fs, h⟩ := pushNotice_link d (plainNotice .watchHit (Config.plainOutcome .watchHit) [byteOf k, c.row, c.col] st)
  rw [h]
  rfl

/-- R74: watches touch the drive link alone. -/
theorem watchHits_link (d : Device) (c : Cell) (st : Station) : d.watchHits c st = d.withLink (d.watchHits c st).link := by
  rw [watchHits_eq]
  refine foldl_keeps (Q := fun e => e = d.withLink e.link) (fun e k he => ?_) _ rfl
  unfold Device.watchTurn
  split
  · split
    · rw [watchHit_link, he]
      rfl
    · exact he
  · exact he

theorem watchTurn_of_not (h : ∀ w, d.claims.watches[i]? = some (some w) → ¬w.Admits c st) : d.watchTurn c st i = d := by
  unfold Device.watchTurn
  split
  · next w hw => rw [if_neg fun ha => h w hw ((admits_iff w c st).mp ha)]
  · rfl

theorem watchHits_of_none (h : ∀ w, some w ∈ d.claims.watches → ¬w.Admits c st) : d.watchHits c st = d := by
  rw [watchHits_eq]
  refine foldl_keeps (Q := fun e => e = d) (fun e k he => ?_) _ rfl
  rw [he, watchTurn_of_not fun w hw => h w (List.mem_of_getElem? hw)]

/-- R74: one watch admits a claim, and is hit once. -/
theorem watchHits_of_one {k : Nat} {w : Watch} (hk : d.claims.watches[k]? = some (some w)) (hw : w.Admits c st)
    (hother : ∀ j w', d.claims.watches[j]? = some (some w') → j ≠ k → ¬w'.Admits c st) : d.watchHits c st = d.watchHit k c st := by
  have hturn (n : Nat) : (List.range n).foldl (Device.watchTurn c st) d = if k < n then d.watchHit k c st else d := by
    induction n with
    | zero => simp
    | succ n ih =>
      rw [List.range_succ, List.foldl_append, ih, List.foldl_cons, List.foldl_nil]
      by_cases hn : k = n
      · subst hn
        simp only [lt_irrefl, if_false, Nat.lt_succ_self, if_true, Device.watchTurn, hk, (admits_iff w c st).mpr hw]
      · have hclaims : (if k < n then d.watchHit k c st else d).claims = d.claims := by
          split
          · rw [watchHit_link]
            rfl
          · rfl
        rw [watchTurn_of_not fun w' hw' => hother n w' (by rw [hclaims] at hw'; exact hw') (Ne.symm hn)]
        refine if_congr ?_ rfl rfl
        omega
  rw [watchHits_eq, hturn, if_pos (List.getElem?_eq_some_iff.mp hk).1]

theorem watchHit_of_room (h : d.link.notices.length < 8) (k : Nat) :
    d.watchHit k c o = { d with link := { d.link with
      flags := { d.link.flags with watchHit := true },
      notices := d.link.notices ++
        [{ kind := .watchHit, outcome := Config.plainOutcome .watchHit, slot := none, tag := none,
           values := [BitVec.ofNat 8 k, c.row, c.col], station := o }] } } := by
  unfold Device.watchHit
  rw [pushNotice_of_room h]
  rfl

/-! ## Entries written (R51, R65) -/

/-- R65: an entry once a rival of the own stake on a cell is gone. -/
def Claim.rivalCleared (c : Cell) (st : Station) (x : Claim) : Claim :=
  if x.own.isSome && x.cell == c then
    { x with own := x.own.map fun o => if o.rival = some st then { o with rival := none } else o }
  else x

theorem clearRival_entries (d : Device) (c : Cell) (st : Station) :
    (d.clearRival c st).claims.entries = d.claims.entries.map (Claim.rivalCleared c st) := rfl

theorem rivalCleared_of_other {x : Claim} (h : x.own ≠ none → x.cell ≠ c) : x.rivalCleared c st = x := by
  refine if_neg ?_
  rw [Bool.and_eq_true, Option.isSome_iff_ne_none, beq_iff_eq]
  exact fun ⟨h1, h2⟩ => h h1 h2

theorem map_rivalCleared {l : List Claim} (h : ∀ x ∈ l, x.own ≠ none → x.cell ≠ c) : l.map (Claim.rivalCleared c st) = l :=
  (List.map_congr_left fun x hx => rivalCleared_of_other (h x hx)).trans (List.map_id l)

/-- Clearing a rival keeps the rest of an entry. -/
theorem rivalCleared_rest (x : Claim) :
    (x.rivalCleared c st).cell = x.cell ∧ (x.rivalCleared c st).claimant = x.claimant ∧ (x.rivalCleared c st).tag = x.tag ∧
      (x.rivalCleared c st).key = x.key ∧ (x.rivalCleared c st).phase = x.phase ∧ (x.rivalCleared c st).age = x.age ∧
      (x.rivalCleared c st).own.isSome = x.own.isSome ∧ ownUse (x.rivalCleared c st) = ownUse x := by
  unfold Claim.rivalCleared
  split
  · refine ⟨rfl, rfl, rfl, rfl, rfl, rfl, by simp, ?_⟩
    unfold ownUse
    cases x.own with
    | none => rfl
    | some o => simp only [Option.map_some, Option.some.injEq]; split <;> rfl
  · exact ⟨rfl, rfl, rfl, rfl, rfl, rfl, rfl, rfl⟩

/-- What is asked of own entries alone is answered after a heard entry is written as before. -/
theorem find_insertClaim {p : Claim → Bool} {x : Claim} (hx : x.own = none) (hp : ∀ y, p y = true → y.own ≠ none) (l : List Claim) :
    (insertClaim x l).find? p = l.find? p := by
  have hnot {y : Claim} (hy : y.own = none) : p y = false := Bool.eq_false_iff.mpr fun h => hp y h hy
  induction l with
  | nil => simp [insertClaim, hnot hx]
  | cons y l ih =>
    unfold insertClaim
    split
    · rw [List.find?_cons, hnot hx]
    · split
      · next h =>
        have hy : y.own = none := by
          have := h.2.2
          rw [hx] at this
          simpa using this.symm
        rw [List.find?_cons, hnot hx, List.find?_cons, hnot hy]
      · rw [List.find?_cons, List.find?_cons, ih]

theorem mem_insertClaim_of_mem {x y : Claim} {l : List Claim} (hy : y ∈ l)
    (h : ¬(x.cell = y.cell ∧ x.claimant = y.claimant ∧ x.own.isSome = y.own.isSome)) : y ∈ insertClaim x l := by
  induction l with
  | nil => cases hy
  | cons z l ih =>
    unfold insertClaim
    split
    · exact List.mem_cons_of_mem _ hy
    · split
      · next hz =>
        rcases List.mem_cons.mp hy with rfl | hy
        · exact absurd hz h
        · exact List.mem_cons_of_mem _ hy
      · rcases List.mem_cons.mp hy with rfl | hy
        · exact List.mem_cons_self
        · exact List.mem_cons_of_mem _ (ih hy)

/-- R51: the entry of a stake heard. -/
def heardEntry (c : Cell) (st : Station) (t : Tag) (key : Nat) (ph : Phase) : Claim :=
  { cell := c, claimant := st, tag := t, key := key, phase := ph, age := 0, own := none }

theorem writeHeard_entries (d : Device) (c : Cell) (st : Station) (t : Tag) (key : Nat) (ph : Phase) :
    (d.writeHeard c st t key ph).claims.entries =
      if ph = .placed then insertClaim (heardEntry c st t key ph) d.claims.entries
      else (insertClaim (heardEntry c st t key ph) d.claims.entries).map (Claim.rivalCleared c st) := by
  unfold Device.writeHeard
  dsimp only
  split <;> rfl

theorem writeHeard_beside (d : Device) (c : Cell) (st : Station) (t : Tag) (key : Nat) (ph : Phase) :
    d.writeHeard c st t key ph = d.withEntries (d.writeHeard c st t key ph).claims.entries := by
  unfold Device.writeHeard
  dsimp only
  split <;> rfl

/-- R50, R53: with room in the map no entry is lost. -/
theorem recordHeard_of_room (h : d.claims.entries.length < Config.claimMapSize) (shield : Option Station) (c : Cell) (st : Station) (t : Tag)
    (key : Nat) (ph : Phase) : d.recordHeard shield c st t key ph = (d.writeHeard c st t key ph, []) := by
  unfold Device.recordHeard
  split
  · rfl
  · simp only [Device.makeRoom, h, if_true]

/-- The own stake on a cell after a heard entry is written: at most its rival has changed. -/
theorem ownClaim_writeHeard {x : Claim} {c' : Cell} (hx : d.ownClaim c' = some x) (t : Tag) (key : Nat) (ph : Phase) :
    ∃ y, (d.writeHeard c st t key ph).ownClaim c' = some y ∧ (y = x ∨ (ph ≠ .placed ∧ y = x.rivalCleared c st)) := by
  have hp (y : Claim) (hy : (y.own.isSome && y.cell == c') = true) : y.own ≠ none := by
    rw [Bool.and_eq_true, Option.isSome_iff_ne_none] at hy
    exact hy.1
  have hfind : (insertClaim (heardEntry c st t key ph) d.claims.entries).find? (fun y => y.own.isSome && y.cell == c') = some x :=
    (find_insertClaim rfl hp _).trans hx
  unfold Device.ownClaim
  rw [writeHeard_entries]
  split
  · exact ⟨x, hfind, .inl rfl⟩
  · next hph =>
    refine ⟨x.rivalCleared c st, ?_, .inr ⟨hph, rfl⟩⟩
    rw [List.find?_map]
    have hsame : ((fun y : Claim => y.own.isSome && y.cell == c') ∘ Claim.rivalCleared c st) = fun y => y.own.isSome && y.cell == c' := by
      funext y
      obtain ⟨h1, -, -, -, -, -, h2, -⟩ := rivalCleared_rest (c := c) (st := st) y
      simp only [Function.comp_apply, h1, h2]
    rw [hsame, hfind]
    rfl

/-! ## A CONTESTED stake yields (R59, R66) -/

section Yield

variable {x : Claim} {q : RequestStatus}

theorem not_waitsOn_of_noneInOwnUse (h : d.noneInOwnUse) (c : Cell) (j : Nat) : d.waitsOn c isOwnUse j = false :=
  not_waitsOn fun q hq hw => h j q hq hw.2.2

theorem noneInOwnUse_modRecord {f : Record → Record} (h : d.noneInOwnUse) (hf : ∀ r, r.request ≠ some .ownUse → (f r).request ≠ some .ownUse) :
    (d.modRecord i f).noneInOwnUse := by
  intro j r hr
  unfold Device.modRecord at hr
  split at hr
  · next r' hr' =>
    by_cases hj : i = j
    · subst hj
      rw [recordAt_setSlot_self d _ (recordAt_lt d hr')] at hr
      rw [← Option.some.inj hr]
      exact hf r' (h i r' hr')
    · exact h j r ((recordAt_setSlot_of_ne d _ hj).symm.trans hr)
  · exact h j r hr

/-- R66: a release with nobody waiting for the own stake. -/
theorem releaseStake_of_nobody (h : d.noneInOwnUse) (x : Claim) : d.releaseStake x = d.dropStake x := by
  have hdrop : (d.dropStake x).noneInOwnUse := h
  rw [Device.releaseStake, Device.retryReleased]
  exact retry_of_nobody fun c _ j => not_waitsOn_of_noneInOwnUse hdrop c j

/-- R59: the record of a stake that yields, its key and request rewritten. -/
def Device.requestYields (d : Device) (x : Claim) (q : RequestStatus) : Device :=
  match ownUse x with
  | some (.slot i) => d.modRecord i fun r => { r with frozenKey := none, request := some q }
  | _ => d

theorem requestYields_table (d : Device) (x : Claim) (q : RequestStatus) :
    d.requestYields x q = { d with engine := { d.engine with table := (d.requestYields x q).engine.table } } := by
  unfold Device.requestYields
  split
  · exact modRecord_eq ..
  · rfl

theorem contestedYields_of_nobody (h : d.noneInOwnUse) (hq : q ≠ .ownUse) (x : Claim) :
    d.contestedYields x q = (d.requestYields x q).dropStake x := by
  refine releaseStake_of_nobody (d := d.requestYields x q) ?_ x
  unfold Device.requestYields
  split
  · exact noneInOwnUse_modRecord h fun r _ => by simpa using hq
  · exact h

theorem dropStake_ownClaim (d : Device) (x : Claim) : (d.dropStake x).ownClaim x.cell = none := by
  rw [Device.ownClaim, dropStake_entries, Device.unstaked, List.find?_eq_none]
  intro y hy hp
  have hkept := (List.mem_filter.mp hy).2
  rw [hp] at hkept
  cases hkept

/-- With room the UNSTAKE of a dropped stake waits in the queue. -/
theorem dropStake_queues (h : d.canSend) (x : Claim) : (d.dropStake x).queues .claimMap (.unstake { cell := x.cell, tag := x.tag }) := by
  have hline : (d.dropStake x).line = d.sent .claimMap (.unstake { cell := x.cell, tag := x.tag }) :=
    congrArg Device.line (sendAbsorbed_of_room (d := d.removeOwn x.cell) h .claimMap rfl)
  obtain ⟨y, hy, hyy⟩ := mem_sent d .claimMap (.unstake { cell := x.cell, tag := x.tag })
  exact ⟨y, by rw [hline]; exact hy, hyy⟩

theorem mem_dropStake {y : Claim} (hy : y ∈ d.claims.entries) (h : y.own = none) : y ∈ (d.dropStake x).claims.entries := by
  rw [dropStake_entries, Device.unstaked]
  exact List.mem_filter.mpr ⟨hy, by simp [h]⟩

end Yield

/-! ## STAKE heard (R51, R59) -/

/-- R51: the map with the entry of a STAKE. -/
def Device.stakeWritten (d : Device) (o : Station) (b : StakeBody) : Device := d.writeHeard b.cell o b.tag b.key.toNat .contested

/-- R59: what a STAKE makes of the own stake on its cell, when the map has room. -/
theorem hearStake_of_room {b : StakeBody} (h : d.claims.entries.length < 48) :
    d.hearStake o b =
      let m := (d.stakeWritten o b).watchHits b.cell o
      match m.ownClaim b.cell with
      | some x => if x.phase = .contested ∧ better b.key.toNat o x.key x.claimant then m.contestedYields x .outranked else m
      | none => m := by
  simp only [Device.hearStake, recordHeard_of_room h]
  have hnobody (e : Device) : e.waitingSlots [] = [] := by simp [Device.waitingSlots]
  rw [hnobody]
  rfl

theorem better_iff {x : Claim} {key : Nat} : better key o x.key x.claimant = true ↔ Outranks key o x := by
  simp [better, Outranks]

theorem stakeWritten_entries {b : StakeBody} (h : ∀ y ∈ d.claims.entries, y.own ≠ none → y.cell ≠ b.cell) :
    (d.stakeWritten o b).claims.entries = insertClaim (heardEntry b.cell o b.tag b.key.toNat .contested) d.claims.entries := by
  rw [Device.stakeWritten, writeHeard_entries, if_neg (by decide)]
  refine map_rivalCleared fun y hy hown => ?_
  rcases mem_insertClaim hy with rfl | hy
  · exact absurd rfl hown
  · exact h y hy hown

theorem ownClaim_eq_none_of (h : ∀ y ∈ d.claims.entries, y.own ≠ none → y.cell ≠ c) : d.ownClaim c = none := by
  rw [Device.ownClaim, List.find?_eq_none]
  intro y hy hp
  rw [Bool.and_eq_true, Option.isSome_iff_ne_none, beq_iff_eq] at hp
  exact h y hy hp.1 hp.2

/-! ## UNSTAKE heard (R51) -/

theorem removeHeard_of_no_own (h : ∀ y ∈ d.claims.entries, y.own ≠ none → y.cell ≠ c) :
    d.removeHeard c st = d.withEntries (d.claims.entries.filter fun y => decide (¬(y.own = none ∧ y.cell = c ∧ y.claimant = st))) := by
  refine congrArg d.withEntries ?_
  refine (map_rivalCleared fun y hy => h y (List.mem_filter.mp hy).1).trans (List.filter_congr fun y _ => ?_)
  rw [decide_not, Bool.not_inj_iff, Bool.eq_iff_iff, decide_eq_true_eq]
  simp [and_assoc]

/-- Settles O49. -/
theorem stakesAndUnstakesAreHeard : Obligations.StakesAndUnstakesAreHeard := by
  intro s o
  refine ⟨fun b hh hroom => ?_, fun b hh hnone hno hwatch => ?_⟩
  · intro heard written
    have hexec : exec (.stakeHeard o b) s = .next (s.after (s.hearStake o b)) := exec_heard hh _
    rw [hearStake_of_room hroom] at hexec
    have hwrote : s.stakeWritten o b = s.withEntries (s.stakeWritten o b).claims.entries := writeHeard_beside ..
    refine ⟨fun hno => ?_, fun x n hx hn hfree => ?_⟩
    · have hw : s.stakeWritten o b = s.withClaims written := by
        rw [hwrote, stakeWritten_entries hno]
        rfl
      have hown (e : Device) (he : e.claims = written) : e.ownClaim b.cell = none := by
        refine ownClaim_eq_none_of fun y hy hown => ?_
        rw [he] at hy
        rcases mem_insertClaim hy with rfl | hy
        · exact absurd rfl hown
        · exact hno y hy hown
      refine ⟨fun hwatch => ?_, fun k w hk hadm hother hnotices => ?_⟩
      · rw [hexec, hw, watchHits_of_none (d := s.withClaims written) hwatch]
        dsimp only
        rw [hown (s.withClaims written) rfl]
        rfl
      · have hlink := watchHit_link (s.withClaims written) k b.cell o
        rw [hexec, hw, watchHits_of_one (d := s.withClaims written) hk hadm hother]
        dsimp only
        rw [hown _ (by rw [hlink]; rfl), watchHit_of_room (d := s.withClaims written) hnotices]
        rfl
    · let m := (s.stakeWritten o b).watchHits b.cell o
      have hm : m = (s.withEntries (s.stakeWritten o b).claims.entries).withLink m.link := by
        show (s.stakeWritten o b).watchHits b.cell o = _
        rw [← hwrote]
        exact watchHits_link ..
      have hentries : m.claims = (s.stakeWritten o b).claims := by rw [hm]; rfl
      have hheard : heard ∈ m.claims.entries := by
        rw [hentries, Device.stakeWritten, writeHeard_entries, if_neg (by decide), List.mem_map]
        exact ⟨heard, self_mem_insertClaim _ _, rivalCleared_of_other fun h => absurd rfl h⟩
      obtain ⟨y, hy, hyx⟩ := ownClaim_writeHeard (c := b.cell) (st := o) hx b.tag b.key.toNat .contested
      have hyown : m.ownClaim b.cell = some y := by
        rw [Device.ownClaim, hentries]
        exact hy
      have hrest : y.cell = x.cell ∧ y.claimant = x.claimant ∧ y.tag = x.tag ∧ y.key = x.key ∧ y.phase = x.phase ∧ ownUse y = ownUse x := by
        rcases hyx with rfl | ⟨-, rfl⟩
        · exact ⟨rfl, rfl, rfl, rfl, rfl, rfl⟩
        · obtain ⟨h1, h2, h3, h4, h5, -, -, h6⟩ := rivalCleared_rest (c := b.cell) (st := o) x
          exact ⟨h1, h2, h3, h4, h5, h6⟩
      obtain ⟨hcell, hclaimant, htag, hkey, hphase, huse⟩ := hrest
      have huse' : ownUse y = some n.use := by rw [huse, ownUse, hn]; rfl
      have hcellb : y.cell = b.cell := hcell.trans (ownClaim_cell hx)
      have hcond : (y.phase = .contested ∧ better b.key.toNat o y.key y.claimant = true) ↔
          (x.phase = .contested ∧ Outranks b.key.toNat o x) := by
        rw [hphase, hkey, hclaimant, better_iff]
      simp only [show (s.stakeWritten o b).watchHits b.cell o = m from rfl, hyown] at hexec
      by_cases hyield : x.phase = .contested ∧ Outranks b.key.toNat o x
      · have hmfree : m.noneInOwnUse := by rw [hm]; exact hfree
        rw [if_pos (hcond.mpr hyield), contestedYields_of_nobody hmfree (by decide)] at hexec
        have htable := requestYields_table m y .outranked
        refine ⟨_, hexec, mem_dropStake (by rw [htable]; exact hheard) rfl, fun _ => ⟨?_, fun hsend => ?_, fun i r hi hr => ?_⟩,
          fun h => absurd hyield h⟩
        · rw [← hcellb]
          exact dropStake_ownClaim ..
        · rw [← hcellb, ← htag]
          refine dropStake_queues ?_ y
          rw [htable, hm]
          exact hsend
        · have hmr : m.recordAt i = some r := by rw [hm]; exact hr
          show (m.requestYields y .outranked).recordAt i = _
          simp only [Device.requestYields, huse', hi]
          rw [modRecord_of_record hmr]
          exact recordAt_setSlot_self m _ (recordAt_lt m hmr)
      · rw [if_neg (mt hcond.mp hyield)] at hexec
        exact ⟨m, hexec, hheard, fun h => absurd h hyield, fun _ => ⟨by rw [hm]; rfl, by rw [hm]; rfl, y, hyown, htag, hkey, hphase, huse'⟩⟩
  · have hexec : exec (.unstakeHeard o b) s = .next (s.after (s.hearUnstake o b)) := exec_heard hh _
    let m := s.withEntries (s.claims.entries.filter fun y => decide (¬(y.own = none ∧ y.cell = b.cell ∧ y.claimant = o)))
    have hremoved : s.removeHeard b.cell o = m := removeHeard_of_no_own hno
    have hhits : m.watchHits b.cell o = m := watchHits_of_none (d := m) hwatch
    have hretry : m.retryRemoved [b.cell] = m := retryRemoved_of_noneStaking (d := m) hnone _
    rw [hexec]
    simp only [Device.hearUnstake, hremoved, hhits, hretry, ite_self]
    rfl

end Sys2Proof.Machine
end

section
/-! PROOF. A PRESENCE at the roster (R42, R45, R47). -/

namespace Sys2Proof.Machine

variable {s : State} {d e : Device} {i : Nat} {r : Record} {o st : Station}

/-! ## A walk through the slots -/

/-- What a walk does at one member, when the steps at the others keep what it starts from and what it leaves. -/
theorem foldl_at {α : Type} {i : α} {f : Device → α → Device} {A B : Device → Prop} {l : List α} (hn : l.Nodup) (hi : i ∈ l)
    (hA : ∀ e j, j ≠ i → A e → A (f e j)) (hAB : ∀ e, A e → B (f e i)) (hB : ∀ e j, j ≠ i → B e → B (f e j)) (h : A d) :
    B (l.foldl f d) := by
  induction l generalizing d with
  | nil => cases hi
  | cons j l ih =>
    obtain ⟨hj, hl⟩ := List.nodup_cons.mp hn
    by_cases hij : j = i
    · subst hij
      have hrest : ∀ e, B e → B (l.foldl f e) := by
        intro e he
        refine List.foldlRecOn l f (motive := B) he fun e he k hk => hB e k ?_ he
        rintro rfl
        exact hj hk
      exact hrest _ (hAB d h)
    · exact ih hl ((List.mem_cons.mp hi).resolve_left (Ne.symm hij)) (hA d j hij h)

theorem forSlots_at {f : Nat → Device → Device} {A B : Device → Prop} (hi : i < Config.slotCount)
    (hA : ∀ e j, j ≠ i → A e → A (f j e)) (hAB : ∀ e, A e → B (f i e)) (hB : ∀ e j, j ≠ i → B e → B (f j e)) (h : A d) :
    B (forSlots f d) :=
  foldl_at (f := fun d j => f j d) List.nodup_range (List.mem_range.mpr hi) hA hAB hB h

/-! ## Notices raised in the other slots -/

theorem moveOwed_tells {n : Notice} (h : d.tells i n) : d.moveOwed.tells i n :=
  moveOwed_keeps (Q := fun e => e.tells i n) (fun _ => moveOne_tells) h

theorem setSlot_tells_other {n : Notice} {j : Nat} (hj : j ≠ i) (q : Option Record) (h : d.tells i n) : (d.setSlot j q).tells i n := by
  rcases h with hn | ⟨r, p, hr, hp, hpn⟩
  · exact .inl hn
  · exact .inr ⟨r, p, (recordAt_setSlot_of_ne d q hj).trans hr, hp, hpn⟩

theorem modRecord_tells_other {n : Notice} {j : Nat} (hj : j ≠ i) (f : Record → Record) (h : d.tells i n) : (d.modRecord j f).tells i n := by
  unfold Device.modRecord
  split
  · exact setSlot_tells_other hj _ h
  · exact h

theorem raise_tells_other {n : Notice} {j : Nat} (hj : j ≠ i) (k : NoticeKind) (x : OutcomePair) (w : List Byte) (h : d.tells i n) :
    (d.raise j k x w).tells i n := moveOwed_tells (modRecord_tells_other hj _ h)

/-! ## Roster entries (R42) -/

section Roster

variable {f g : RosterEntry → RosterEntry} {x : RosterEntry}

theorem modEntry_modEntry (hf : ∀ x, (f x).station = x.station) : (d.modEntry st f).modEntry st g = d.modEntry st (g ∘ f) := by
  refine congrArg (fun l => d.withPeers { d.peers with roster := l }) ?_
  show (d.peers.roster.map _).map _ = _
  rw [List.map_map]
  refine List.map_congr_left fun x _ => ?_
  simp only [Function.comp_apply]
  by_cases hx : (x.station == st) = true
  · simp only [if_pos hx]
    rw [if_pos]
    rw [hf]
    exact hx
  · simp only [if_neg hx]

theorem rosterEntry_modEntry (hf : ∀ x, (f x).station = x.station) : (d.modEntry st f).rosterEntry st = (d.rosterEntry st).map f := by
  have hsame : ((fun x : RosterEntry => x.station == st) ∘ fun x => if x.station == st then f x else x) = fun x => x.station == st := by
    funext x
    simp only [Function.comp_apply]
    split
    · rw [hf]
    · rfl
  show (d.peers.roster.map _).find? _ = _
  rw [List.find?_map, hsame]
  cases h : d.peers.roster.find? fun x => x.station == st with
  | none => simp [Device.rosterEntry, h]
  | some x =>
    have hx := List.find?_some h
    simp [Device.rosterEntry, h, beq_iff_eq.mp hx]

theorem rosterEntry_eq_none : d.rosterEntry st = none ↔ ∀ x ∈ d.peers.roster, x.station ≠ st := by
  simp [Device.rosterEntry]

/-- A new entry of the roster takes what is written in it, and no other does. -/
theorem insertEntry_map (hf : ∀ x, (f x).station = x.station) (hx : x.station = st) {l : List RosterEntry} (hl : ∀ y ∈ l, y.station ≠ st) :
    (insertEntry x l).map (fun y => if y.station == st then f y else y) = insertEntry (f x) l := by
  induction l with
  | nil => simp [insertEntry, hx]
  | cons y l ih =>
    have hy : ¬(y.station == st) = true := by simpa using hl y List.mem_cons_self
    have hrest := ih fun z hz => hl z (List.mem_cons_of_mem _ hz)
    have hmap : l.map (fun y => if y.station == st then f y else y) = l := by
      refine (List.map_congr_left fun z hz => if_neg ?_).trans (List.map_id l)
      simpa using hl z (List.mem_cons_of_mem _ hz)
    have hself : (x.station == st) = true := beq_iff_eq.mpr hx
    unfold insertEntry
    rw [hf]
    split
    · rw [List.map_cons, List.map_cons, if_pos hself, if_neg hy, hmap]
    · rw [List.map_cons, if_neg hy, hrest]

theorem insertEntry_find (hx : x.station = st) {l : List RosterEntry} (hl : ∀ y ∈ l, y.station ≠ st) :
    (insertEntry x l).find? (fun y => y.station == st) = some x := by
  induction l with
  | nil => simp [insertEntry, hx]
  | cons y l ih =>
    have hy : (y.station == st) = false := by simpa using hl y List.mem_cons_self
    unfold insertEntry
    split
    · simp [hx]
    · rw [List.find?_cons, hy]
      exact ih fun z hz => hl z (List.mem_cons_of_mem _ hz)

end Roster

theorem hear_of_known {x : RosterEntry} (h : d.rosterEntry st = some x) : d.hear st = d.modEntry st fun e => { e with age := 0, link := .heard } := by
  simp only [Device.hear, h]

theorem hear_of_new (h : d.rosterEntry st = none) (hroom : d.peers.roster.length < Config.rosterSize) :
    d.hear st = (d.withRoster (insertEntry (newEntry st) d.peers.roster)).peerChange := by
  simp only [Device.hear, h, hroom, if_true]

/-! ## The announced state (R45) -/

/-- R42: an entry with what a PRESENCE announces. -/
def RosterEntry.announcing (e : RosterEntry) (b : PresenceBody) : RosterEntry :=
  { e with
    announced := some (StationState.ofByte b.state), position := some b.position, hoistBin := some b.hoistBin, age := 0, link := .heard }

theorem hearing_of_known {x : RosterEntry} (h : d.rosterEntry st = some x) (b : PresenceBody) :
    (d.hear st).hearAnnounced st b =
      (d.modEntry st (RosterEntry.announcing · b)).announcedChange st x.announced (StationState.ofByte b.state) := by
  have hage (y : RosterEntry) : ({ y with age := 0, link := .heard } : RosterEntry).station = y.station := rfl
  rw [hear_of_known h, Device.hearAnnounced, rosterEntry_modEntry hage, h]
  simp only [Option.map_some]
  rw [modEntry_modEntry hage]
  rfl

theorem hearing_of_new (h : d.rosterEntry st = none) (hroom : d.peers.roster.length < Config.rosterSize) (b : PresenceBody) :
    (d.hear st).hearAnnounced st b =
      (d.withRoster (insertEntry ((newEntry st).announcing b) d.peers.roster)).peerChange.announcedChange st none
        (StationState.ofByte b.state) := by
  have hl := rosterEntry_eq_none.mp h
  have hfind : (d.hear st).rosterEntry st = some (newEntry st) := by
    rw [hear_of_new h hroom]
    exact insertEntry_find (x := newEntry st) rfl hl
  have hmap := insertEntry_map (f := fun e => { e with
    announced := some (StationState.ofByte b.state), position := some b.position, hoistBin := some b.hoistBin }) (x := newEntry st)
    (fun _ => rfl) rfl hl
  simp only [Device.hearAnnounced, hfind]
  rw [hear_of_new h hroom]
  refine congrArg (fun d : Device => d.announcedChange st none (StationState.ofByte b.state)) ?_
  exact congrArg (fun l => (d.withRoster l).peerChange) hmap

theorem hasPartner_iff (d : Device) (st : Station) :
    d.hasPartner st = true ↔ ∃ i r, d.recordAt i = some r ∧ r.partner = st ∧ r.isEnded = false := by
  rw [Device.hasPartner, anyRecord_iff_recordIs]
  refine exists_congr fun i => ?_
  rw [recordIs_iff]
  simp [and_comm]

/-! ## PARTNER_LAPSED (R45) -/

/-- What telling records of a lapse leaves of a slot: its record with its state, and what it was told. -/
theorem partnerLapsed_tells (hr : d.recordAt i = some r) (hi : i < Config.slotCount) (hp : r.partner = st) (hl : r.isEnded = false) :
    (d.partnerLapsed st).HasRecord i r ∧ (d.partnerLapsed st).tells i (r.notice i .partnerLapsed ⟨.done, .ok⟩ []) := by
  have hlive : (r.isEnded && r.endCollected) = false := by simp [hl]
  refine forSlots_at (A := fun e => e.HasRecord i r)
    (B := fun e => e.HasRecord i r ∧ e.tells i (r.notice i .partnerLapsed ⟨.done, .ok⟩ [])) hi (fun e j hj he => ?_) (fun e he => ?_)
    (fun e j hj he => ?_) (hasRecord_self hr)
  · split
    · exact raise_hasRecord_other (Ne.symm hj) hlive he
    · exact he
  · obtain ⟨q, hq, hqr⟩ := he
    rw [if_pos]
    · exact raise_hasRecord hlive ⟨q, hq, hqr⟩
    · have h1 : q.isEnded = false := by rw [hqr]; exact hl
      have h2 : q.partner = st := by rw [hqr]; exact hp
      rw [recordIs_of_record hq, h1, h2]
      simp
  · split
    · exact ⟨raise_hasRecord_other (Ne.symm hj) hlive he.1, raise_tells_other hj _ _ _ he.2⟩
    · exact he

theorem Device.SameBeside.trans {f : Device} (h : d.SameBeside e) (hf : e.SameBeside f) : d.SameBeside f := by
  unfold Device.SameBeside at h hf ⊢
  rw [hf, h]

/-- R45: what telling records of a lapse leaves alone. -/
theorem partnerLapsed_beside (d : Device) (st : Station) :
    d.SameBeside (d.partnerLapsed st) ∧ (d.partnerLapsed st).link.flags = d.link.flags := by
  have hstart : d.SameBeside d ∧ d.link.flags = d.link.flags := ⟨rfl, rfl⟩
  unfold Device.partnerLapsed
  refine forSlots_keeps (Q := fun e => d.SameBeside e ∧ e.link.flags = d.link.flags) (fun e j he => ?_) hstart
  split
  · exact ⟨he.1.trans (raise_sameBeside .partnerLapsed outcomeDone [] e j), (raise_flags e j ..).trans he.2⟩
  · exact he

/-- Record notices alone are pending, and none of the kind is among those that have joined the queue. -/
def Device.NoPeerState (d e : Device) : Prop :=
  (∀ j q, e.recordAt j = some q → ∀ p ∈ q.notices, IsRecordNotice p.kind) ∧ ∀ n ∈ e.link.notices, n.kind = .peerState → n ∈ d.link.notices

theorem setSlot_pending {j : Nat} {q : Option Record} {P : Record → Prop} (h : ∀ j q, d.recordAt j = some q → P q)
    (hq : ∀ r, q = some r → P r) : ∀ k r, (d.setSlot j q).recordAt k = some r → P r := by
  intro k r hr
  by_cases hk : j = k
  · subst hk
    rw [recordAt_setSlot_self d q ((recordAt_lt _ hr).trans_eq (List.length_set ..))] at hr
    exact hq r hr
  · exact h k r ((recordAt_setSlot_of_ne d q hk).symm.trans hr)

theorem moveOne_noPeerState (h : d.NoPeerState e) : d.NoPeerState e.moveOne := by
  obtain ⟨hp, hn⟩ := h
  rcases moveOne_cases e with ⟨j, q, p, rest, hq, hnotices, hm⟩ | ⟨-, hm⟩ | hm <;> rw [hm]
  · have hkind : IsRecordNotice p.kind := hp j q hq p (by rw [hnotices]; exact List.mem_cons_self)
    refine ⟨setSlot_pending (d := e.queueNotice _) hp fun r hr => ?_, fun n hmem hk => ?_⟩
    · split at hr
      · cases hr
      · obtain rfl := Option.some.inj hr
        exact fun y hy => hp j q hq y (by rw [hnotices]; exact List.mem_cons_of_mem _ hy)
    · rcases List.mem_append.mp hmem with hmem | hmem
      · exact hn n hmem hk
      · rw [List.mem_singleton.mp hmem] at hk
        rw [show p.kind = .peerState from hk] at hkind
        simp [IsRecordNotice] at hkind
  · refine ⟨hp, fun n hmem hk => ?_⟩
    rcases List.mem_append.mp hmem with hmem | hmem
    · exact hn n hmem hk
    · rw [List.mem_singleton.mp hmem] at hk
      cases hk
  · exact ⟨hp, hn⟩

theorem partnerLapsed_noPeerState (h : ∀ j q, d.recordAt j = some q → ∀ p ∈ q.notices, IsRecordNotice p.kind) :
    d.NoPeerState (d.partnerLapsed st) := by
  refine forSlots_keeps (Q := d.NoPeerState) (fun e j he => ?_) ⟨h, fun _ hn _ => hn⟩
  split
  · refine moveOwed_keeps (Q := d.NoPeerState) (fun _ => moveOne_noPeerState) ?_
    unfold Device.modRecord
    split
    · next r hr =>
      refine ⟨setSlot_pending he.1 fun q hq => ?_, he.2⟩
      rw [← Option.some.inj hq]
      intro p hp
      rcases mem_addPending hp with rfl | hp
      · simp [IsRecordNotice]
      · exact he.1 j r hr p hp
    · exact he
  · exact he

theorem announcedChange_of_same (d : Device) (st : Station) (a : StationState) : d.announcedChange st (some a) a = d := if_pos rfl

theorem announcedChange_of_live {old : Option StationState} {a : StationState} (ho : old ≠ some .lapsed) (ha : a ≠ .lapsed) :
    d.announcedChange st old a = d := by
  simp only [Device.announcedChange, ha, ho, if_false, ite_self]

theorem announcedChange_from_lapsed {a : StationState} (ha : a ≠ .lapsed) : d.announcedChange st (some .lapsed) a = d.peerChange := by
  have hne : some StationState.lapsed ≠ some a := fun h => ha (Option.some.inj h).symm
  simp only [Device.announcedChange, if_neg hne, ha, if_false, if_true]

theorem announcedChange_to_lapsed {old : Option StationState} (ho : old ≠ some .lapsed) :
    d.announcedChange st old .lapsed =
      if d.hasPartner st then d.peerChange.partnerLapsed st else d.peerChange.peerState 3#8 st := by
  simp only [Device.announcedChange, ho, if_false, if_true]
  rfl

/-- R45: a station that is nobody's partner is told of by PEER_STATE. -/
theorem announcedChange_of_nobody {old : Option StationState} (ho : old ≠ some .lapsed)
    (hn : ∀ i r, d.recordAt i = some r → r.partner = st → r.isEnded = true) (hroom : d.link.notices.length < Config.noticeQueueSize) :
    d.announcedChange st old .lapsed =
      d.peerChange.queueNotice (plainNotice .peerState (Config.plainOutcome .peerState) [3#8] st) := by
  have hp : d.hasPartner st = false := by
    rw [Bool.eq_false_iff]
    intro hp
    obtain ⟨i, r, hr, hpr, hl⟩ := (hasPartner_iff d st).mp hp
    rw [hn i r hr hpr] at hl
    cases hl
  rw [announcedChange_to_lapsed ho, hp, if_neg Bool.false_ne_true]
  exact pushNotice_of_room (d := d.peerChange) hroom _

/-! ## The rest of a PRESENCE -/

/-- R53: with no stake listed and no entry of its origin in the map, a PRESENCE leaves the claims alone. -/
theorem hearStakes_nil (hc : ∀ x ∈ d.claims.entries, x.own = none → x.claimant ≠ o) : d.hearStakes o [] = d := by
  have hgone : d.claims.entries.filter (fun x => x.own.isNone && (x.claimant == o && [].all fun i : StakeItem => i.cell != x.cell)) = [] := by
    rw [List.filter_eq_nil_iff]
    intro x hx hx'
    simp only [Bool.and_eq_true, Option.isNone_iff_eq_none, beq_iff_eq] at hx'
    exact hc x hx hx'.1 hx'.2.1
  have hall : d.removeHeardAll (fun x => x.claimant == o && [].all fun i : StakeItem => i.cell != x.cell) = (d, []) := by
    simp only [Device.removeHeardAll, hgone, List.foldl_nil, List.map_nil]
  have hnone : d.waitingSlots [] = [] := by simp [Device.waitingSlots]
  simp only [Device.hearStakes, hall, List.foldl_nil, hnone]
  rfl

theorem inferLift_of_not_joining (b : BinId) (h : d.peers.state ≠ .joining) : d.inferLift b = d := if_neg fun hj => h hj.1

/-- R47: a PRESENCE that lists no stake, outside JOINING, is over with what it announces. -/
theorem hearPresence_of_nil {b : PresenceBody} (hD : (d.hear o).hearAnnounced o b = e) (hb : b.stakes = [])
    (hp : e.peers.state ≠ .joining) (hc : ∀ x ∈ e.claims.entries, x.own = none → x.claimant ≠ o) (k : Bool) :
    d.hearPresence o b k = e := by
  have hs := hearStakes_nil hc
  have hi := inferLift_of_not_joining b.hoistBin hp
  cases k <;> simp only [Device.hearPresence, hD, hb, hi, hs, if_true, Bool.false_eq_true, if_false]

/-- Settles O47. -/
theorem presenceUpdatesTheRoster : Obligations.PresenceUpdatesTheRoster := by
  intro s o b k hh hb hj hc announced changed known new
  have ⟨_, _, _, _, _, hvalid⟩ := hh
  have hrange : 1 ≤ b.state.toNat ∧ b.state.toNat ≤ 4 := by
    simp only [bodyValid, Bool.and_eq_true, decide_eq_true_eq] at hvalid
    exact hvalid.1.1.1.1
  have hann : announced = some (StationState.ofByte b.state) := by
    have hcases : b.state.toNat = 1 ∨ b.state.toNat = 2 ∨ b.state.toNat = 3 ∨ b.state.toNat = 4 := by omega
    rcases hcases with h | h | h | h <;> simp [announced, StationState.ofByte, h]
  clear_value announced
  subst hann
  have hlapsed : StationState.ofByte b.state = .lapsed ↔ b.state = 3 := by
    constructor
    · intro h
      unfold StationState.ofByte at h
      split at h <;> cases h
      exact BitVec.eq_of_toNat_eq (by assumption)
    · rintro h
      simp [StationState.ofByte, h]
  have hexec {e : Device} (hD : (s.toDevice.hear o).hearAnnounced o b = e) (hp : e.peers.state = s.peers.state)
      (hcl : e.claims = s.claims) : exec (.presenceHeard o b k) s = .next (s.after e) := by
    have hheard : s.hearPresence o b k = e := hearPresence_of_nil hD hb (hp ▸ hj) (hcl ▸ hc) k
    exact (exec_heard hh k).trans (congrArg (fun d => Host.Outcome.next (s.after d)) hheard)
  refine ⟨fun hn hroom h3 => ?_, fun hn hroom h3 hnone hq => ?_, fun x hx hxl => ?_, fun x hx hxl => ⟨fun h3 hlen hsome => ?_, fun h3 => ?_, fun h3 hnone hq => ?_⟩⟩
  · refine hexec (?_ : _ = _) rfl rfl
    rw [hearing_of_new hn hroom b, announcedChange_of_live (by simp) (mt hlapsed.mp h3)]
    rfl
  · refine hexec (?_ : _ = _) rfl rfl
    rw [hearing_of_new hn hroom b, hlapsed.mpr h3]
    exact announcedChange_of_nobody (d := (s.withRoster _).peerChange) (by simp) hnone hq
  · refine hexec (?_ : _ = _) rfl rfl
    rw [hearing_of_known hx b, hxl]
    split
    · next h3 =>
      rw [hlapsed.mpr h3]
      exact announcedChange_of_same ..
    · next h3 => exact announcedChange_from_lapsed (mt hlapsed.mp h3)
  · have hD : (s.hear o).hearAnnounced o b = (s.modEntry o (RosterEntry.announcing · b)).peerChange.partnerLapsed o := by
      rw [hearing_of_known hx b, hlapsed.mpr h3, announcedChange_to_lapsed hxl]
      exact if_pos ((hasPartner_iff s.toDevice o).mpr hsome)
    have hbeside := partnerLapsed_beside (s.modEntry o (RosterEntry.announcing · b)).peerChange o
    have hsame : (s.modEntry o (RosterEntry.announcing · b)).peerChange.SameBeside _ := hbeside.1
    rw [Device.SameBeside] at hsame
    have hpeers : ((s.modEntry o (RosterEntry.announcing · b)).peerChange.partnerLapsed o).peers = known := by rw [hsame]; rfl
    refine ⟨_, hexec hD ?_ ?_, hpeers, ?_, fun i r hr hp hl => ?_, fun hrec => ?_, ?_, ?_, ?_⟩
    · rw [hpeers]
    · rw [hsame]; rfl
    · rw [hbeside.2]; rfl
    · obtain ⟨⟨q, hq, hqr⟩, ht⟩ := partnerLapsed_tells (d := (s.modEntry o (RosterEntry.announcing · b)).peerChange) hr
        ((recordAt_lt _ hr).trans_eq hlen) hp hl
      exact ⟨ht, q, hq, by rw [hqr], by rw [hqr]⟩
    · exact (partnerLapsed_noPeerState (d := (s.modEntry o (RosterEntry.announcing · b)).peerChange) hrec).2
    · rw [hsame]; rfl
    · rw [hsame]; rfl
    · rw [hsame]; rfl
  · refine hexec (?_ : _ = _) rfl rfl
    rw [hearing_of_known hx b]
    exact announcedChange_of_live hxl (mt hlapsed.mp h3)
  · refine hexec (?_ : _ = _) rfl rfl
    rw [hearing_of_known hx b, hlapsed.mpr h3]
    exact announcedChange_of_nobody (d := s.modEntry o (RosterEntry.announcing · b)) hxl hnone hq


end Sys2Proof.Machine
end

section
/-! PROOF. Every command keeps a sound part sound: staking, releases, runs and the ends of records. -/

namespace Sys2Proof.Machine

set_option Elab.async false

variable {d : Device} {i : Nat} {r : Record} {c : Cell}

/-- R95: a record that has just entered OFFERING has queued its first OFFER. -/
theorem Record.Sound.offered (h : r.Sound) (hs : r.state = .giver .offering) (ho : r.offers = 0) :
    ({ r with addressed := true, offers := r.offers + 1 } : Record).Sound := by
  obtain ⟨htimer, -, hoffering, -, hnotices⟩ := h
  have ht : r.timer = 0 := by
    rcases hoffering hs with ⟨-, ht⟩ | ⟨hoff, -⟩
    · exact ht
    · omega
  refine ⟨htimer, by show r.offers + 1 ≤ 3; omega, fun _ => .inr ⟨?_, by show r.timer ≤ 5; omega⟩, fun hw => ?_, hnotices⟩
  · show r.offers + 1 = r.timer / 2 + 1
    omega
  · show r.timer ≤ 3
    omega

/-- An own stake that starts on a new use: it awaits nothing, and counts at most towards the end of a linger. -/
theorem Claim.keeps_of_use {x y : Claim} {u : StakeUse} {l : Option Nat} (hx : x.own.isSome = true) (hl : ∀ n ∈ l, 1 ≤ n ∧ n ≤ 2)
    (hown : y.own = some { use := u, outcome := none, settle := none, linger := l, rival := none } := by rfl)
    (hcell : y.cell = x.cell := by rfl) (hclaimant : y.claimant = x.claimant := by rfl) : x.Keeps y :=
  Claim.keeps_of_some hx ⟨by rintro _ ⟨⟩, hl⟩ hown hcell hclaimant

namespace Device.Sound

/-! ## Offering (R95) -/

theorem queueOffer_of (hr : d.recordAt i = some r)
    (h : (d.setSlot i (some { r with addressed := true, offers := r.offers + 1 })).Sound) : (d.queueOffer i).Sound := by
  rw [queueOffer_of_record hr]
  exact h.sendAbsorbed ..

theorem queueOffer (h : d.Sound) (hq : ∀ r, d.recordAt i = some r → r.state = .giver .offering ∧ r.offers = 0) :
    (d.queueOffer i).Sound := by
  cases hr : d.recordAt i with
  | none =>
    unfold Device.queueOffer
    rw [hr]
    exact h
  | some r =>
    obtain ⟨hs, ho⟩ := hq r hr
    exact queueOffer_of hr (h.rewrite hr ((h.record hr).offered hs ho))

theorem enterOffering (h : d.Sound) (i : Nat) : (d.enterOffering i).Sound := by
  have hentered := h.modRecord i (f := fun r =>
    { r with state := .giver .offering, offers := 0, timer := 0, frozenKey := none, request := none }) fun r hr => hr.reset
  unfold Device.enterOffering
  simp only
  split
  · refine hentered.queueOffer fun q hq => ?_
    rw [recordAt_modRecord_self, Option.map_eq_some_iff] at hq
    obtain ⟨r, -, rfl⟩ := hq
    exact ⟨rfl, rfl⟩
  · exact hentered

/-! ## Staking (R55 to R60) -/

theorem setRequest (h : d.Sound) (i : Nat) (s : RequestStatus) : (d.setRequest i s).Sound := h.modRecord i fun _ => id

theorem passStake (h : d.Sound) (c : Cell) (i : Nat) (t : Tag) : (d.passStake c i t).Sound :=
  (h.modOwn c fun _ hx => Claim.keeps_of_use (u := .slot i) (l := none) hx (by rintro _ ⟨⟩)).enterOffering i

theorem stakeDropped (h : d.Sound) (c : Cell) (i : Nat) : (d.stakeDropped c i).Sound := (h.removeOwn c).modRecord i fun _ => id

theorem stakeSent (h : d.Sound) (c : Cell) : (d.stakeSent c).Sound :=
  h.modOwn c fun _ _ => Claim.keeps_of_map (fun o => { o with outcome := some .sent, settle := some Config.settleCount }) fun o ho =>
    ⟨fun n hn => by obtain rfl := Option.some.inj hn; decide, ho.2⟩

/-- R49, R54: an own entry without counts is made where there is room and fewer than four own stakes. -/
theorem newStake (h : d.Sound) {x : Claim} {o : OwnStake} (hc : d.peers.state ≠ .unconfigured)
    (hroom : d.claims.entries.length < Config.claimMapSize) (hlimit : d.ownCount < Config.ownStakeLimit) (hown : x.own = some o)
    (hst : x.claimant = d.own) (hage : x.age = 0 := by rfl) (hsettle : o.settle = none := by rfl) (hlinger : o.linger = none := by rfl) :
    (d.withEntries (insertClaim x d.claims.entries)).Sound := by
  have hsome : x.own.isSome = true := by rw [hown]; rfl
  refine h.withEntries (h.shaped.insert (.inl hroom) ⟨fun _ => hst, fun _ => hsome⟩
    (fun _ => by rw [← ownCount_eq_countP]; exact hlimit) fun o' ho' => ?_) (fun y hy => ?_) fun hu => absurd hu hc
  · rw [hown] at ho'
    obtain rfl := Option.some.inj ho'
    rw [hsettle, hlinger]
    exact ⟨fun _ hn => (nomatch hn), fun _ hn => nomatch hn⟩
  · rcases mem_insertClaim hy with rfl | hy
    · rw [hage]
      decide
    · exact h.claims.ages y hy

theorem stakeCell (h : d.Sound) (i : Nat) (r : Record) (key : Nat) (hc : d.peers.state ≠ .unconfigured)
    (hlimit : d.ownCount < Config.ownStakeLimit) : (d.stakeCell i r key).1.Sound := by
  have hroomy := (h.makeRoom none).modRecord i (f := fun r => { r with frozenKey := some key, request := some .contesting }) fun _ => id
  have hoffered := hroomy.offer .claimMap (.stake { cell := r.cell, tag := r.tag, key := BitVec.ofNat 16 key })
  have hstation : (d.makeRoom none).1.peers.state = d.peers.state := (Moves.makeRoom (P := False) (S := False) none (.refl d)).state_eq
  have hkept := modRecord_eq (d.makeRoom none).1 i fun r => { r with frozenKey := some key, request := some .contesting }
  unfold Device.stakeCell
  simp only
  split
  · refine hoffered.newStake ?_ ?_ ?_ rfl (offer_setting _ _).station.symm
    · show (Device.modRecord _ _ _).peers.state ≠ _
      rw [hkept]
      exact hstation ▸ hc
    · show (Device.modRecord _ _ _).claims.entries.length < _
      rw [hkept]
      exact makeRoom_length_none h
    · show (Device.modRecord _ _ _).ownCount < _
      rw [hkept]
      exact (makeRoom_ownCount none).trans_lt hlimit
  · exact hoffered.stakeDropped ..

theorem attempt (h : d.Sound) (n i : Nat) : (attempt n i d).Sound := by
  induction n generalizing i d with
  | zero => exact h
  | succ n ih =>
    unfold Machine.attempt
    split
    · exact h
    · next r hr =>
      split
      · next hs =>
        have hc : d.peers.state ≠ .unconfigured := by
          have ha : d.peers.state = .active := by simpa [Device.isActive] using hs.2
          simp [ha]
        split
        · split
          · exact h.passStake ..
          · exact h.setRequest ..
        · split
          · exact h.setRequest ..
          · next hlimit =>
            dsimp only
            split
            · exact h.setRequest ..
            · split
              · exact h.setRequest ..
              · refine foldl (fun e c he => foldl (fun e j he => ?_) he _) (h.stakeCell i r _ hc (Nat.lt_of_not_le hlimit)) _
                split
                · exact ih he j
                · exact he
      · exact h

theorem stakingAttempt (h : d.Sound) (i : Nat) : (d.stakingAttempt i).Sound := h.attempt ..

/-- R57: the retries are attempts at some of the slots. -/
theorem retry (h : d.Sound) (cells : List Cell) (p : RequestStatus → Bool) : (d.retry cells p).Sound :=
  h.forSlots fun i e he => by
    split
    · exact he.stakingAttempt i
    · exact he

theorem retryRemoved (h : d.Sound) (cells : List Cell) : (d.retryRemoved cells).Sound := h.retry ..

theorem retryReleased (h : d.Sound) (c : Cell) : (d.retryReleased c).Sound := h.retry ..

theorem retryWaiting (h : d.Sound) (slots : List Nat) : (d.retryWaiting slots).Sound :=
  foldl (fun e i he => by
    split
    · exact he.stakingAttempt i
    · exact he) h slots

theorem retryAll (h : d.Sound) : d.retryAll.Sound :=
  h.forSlots fun i e he => by
    split
    · exact he.stakingAttempt i
    · exact he

theorem enterStaking (h : d.Sound) (i : Nat) : (d.enterStaking i).Sound := (h.modRecord i fun _ hr => hr.leaves).stakingAttempt i

/-! ## Release (R62, R66 to R68) -/

theorem dropStake (h : d.Sound) (x : Claim) : (d.dropStake x).Sound := (h.removeOwn x.cell).sendAbsorbed ..

theorem releaseStake (h : d.Sound) (x : Claim) : (d.releaseStake x).Sound := (h.dropStake x).retryReleased x.cell

theorem lingerStake (h : d.Sound) (c : Cell) : (d.lingerStake c).Sound :=
  h.modOwn c fun _ hx => Claim.keeps_of_use (l := some Config.lingerCount) hx (by rintro _ ⟨⟩; decide)

theorem holdForRun (h : d.Sound) (c : Cell) : (d.holdForRun c).Sound :=
  h.modOwn c fun _ hx => Claim.keeps_of_use (u := .runHold) (l := none) hx (by rintro _ ⟨⟩)

theorem recordStakeEnds (h : d.Sound) (i : Nat) (goesOn : Bool) : (d.recordStakeEnds i goesOn).Sound := by
  unfold Device.recordStakeEnds
  split
  · exact h
  · next x _ =>
    split
    · exact h.releaseStake x
    · split
      · exact h.holdForRun x.cell
      · split
        · split
          · exact h.passStake ..
          · exact h
        · exact h.lingerStake x.cell

theorem runHoldEnds (h : d.Sound) : d.runHoldEnds.Sound := by
  unfold Device.runHoldEnds
  split
  · exact (h.lingerStake _).retryReleased _
  · exact h

theorem contestedYields (h : d.Sound) (x : Claim) (s : RequestStatus) : (d.contestedYields x s).Sound := by
  have hyields (i : Nat) := h.modRecord i (f := fun r => { r with frozenKey := none, request := some s }) fun _ => id
  unfold Device.contestedYields
  dsimp only
  split
  · exact (hyields _).releaseStake x
  · exact h.releaseStake x

theorem placeStake (h : d.Sound) (i : Nat) : (d.placeStake i).Sound := by
  unfold Device.placeStake
  split
  · exact h.modOwn _ fun _ _ => Claim.keeps_of_eq
  · exact h

theorem cedeStake (h : d.Sound) (i : Nat) : (d.cedeStake i).Sound := by
  unfold Device.cedeStake
  split
  · exact h.removeOwn _
  · exact h

/-! ## Settle and linger expiries (R60, R67) -/

theorem settleExpires (h : d.Sound) (x : Claim) : (d.settleExpires x).Sound := by
  have hheld := h.modOwn x.cell (f := fun y =>
    { y with phase := .held, own := y.own.map fun o => { o with outcome := none, settle := none } }) fun _ _ =>
      Claim.keeps_of_map (fun o => { o with outcome := none, settle := none }) fun o ho => ⟨by rintro _ ⟨⟩, ho.2⟩
  unfold Device.settleExpires
  dsimp only
  split
  · exact hheld.enterOffering _
  · exact hheld

/-- An own entry found on a cell stands in the map. -/
theorem ownCounts (h : d.Sound) {x : Claim} (hx : d.ownClaim c = some x) : x.CountsSound :=
  h.claims.counts x (List.mem_of_find?_eq_some hx)

theorem settleTick (h : d.Sound) (c : Cell) : (d.settleTick c).Sound := by
  unfold Device.settleTick
  split
  · next x hx =>
    split
    · next n hn =>
      split
      · exact h.settleExpires x
      · next hn1 =>
        have hn2 : n ≤ 2 := by
          obtain ⟨o, ho, hon⟩ := Option.bind_eq_some_iff.mp hn
          exact ((h.ownCounts hx o ho).1 n hon).2
        refine h.modOwn c fun _ _ => Claim.keeps_of_map (fun o => { o with settle := some (n - 1) }) fun o ho => ⟨?_, ho.2⟩
        rintro _ ⟨⟩
        omega
    · exact h
  · exact h

theorem lingerTick (h : d.Sound) (c : Cell) : (d.lingerTick c).Sound := by
  unfold Device.lingerTick
  split
  · next x hx =>
    split
    · next n hn =>
      split
      · exact h.releaseStake x
      · next hn1 =>
        have hn2 : n ≤ 2 := by
          obtain ⟨o, ho, hon⟩ := Option.bind_eq_some_iff.mp hn
          exact ((h.ownCounts hx o ho).2 n hon).2
        refine h.modOwn c fun _ _ => Claim.keeps_of_map (fun o => { o with linger := some (n - 1) }) fun o ho => ⟨ho.1, ?_⟩
        rintro _ ⟨⟩
        omega
    · exact h
  · exact h

/-! ## Ageing and loss (R52) -/

theorem removeHeardAll (h : d.Sound) (p : Claim → Bool) : (d.removeHeardAll p).1.Sound := foldl (fun _ _ he => he.removeHeard ..) h _

theorem claimantLost (h : d.Sound) (st : Station) : (d.claimantLost st).Sound := (h.removeHeardAll _).retryRemoved _

end Device.Sound

/-- Heard entries go, and those that stay stand where they stood. -/
theorem mem_removeHeards {y : Claim} (l : List Claim) (hy : y ∈ (l.foldl (fun d x => d.removeHeard x.cell x.claimant) d).claims.entries) :
    ∃ x ∈ d.claims.entries, x.Keeps y ∧ y.age = x.age ∧ (x.own = none → ∀ z ∈ l, ¬(x.cell = z.cell ∧ x.claimant = z.claimant)) := by
  induction l generalizing d with
  | nil => exact ⟨y, hy, .refl y, rfl, fun _ z hz => nomatch hz⟩
  | cons z l ih =>
    obtain ⟨w, hw, hwy, hage, hkept⟩ := ih hy
    rw [removeHeard_entries] at hw
    obtain ⟨x, hx, rfl⟩ := List.mem_map.mp hw
    obtain ⟨hx, hstays⟩ := List.mem_filter.mp hx
    have hxw : x.Keeps (if x.own.isSome && x.cell == z.cell then
        { x with own := x.own.map fun o => if o.rival = some z.claimant then { o with rival := none } else o } else x) :=
      Claim.keeps_ite fun _ => Claim.keeps_of_map (fun o => if o.rival = some z.claimant then { o with rival := none } else o)
        fun o ho => by split <;> exact ho
    refine ⟨x, hx, ⟨hwy.cell.trans hxw.cell, hwy.claimant.trans hxw.claimant, hwy.own.trans hxw.own, fun hc => hwy.counts (hxw.counts hc)⟩,
      hage.trans ?_, fun hown u hu => ?_⟩
    · split <;> rfl
    · rcases List.mem_cons.mp hu with rfl | hu
      · rintro ⟨hcell, hclaimant⟩
        simp [hown, hcell, hclaimant] at hstays
      · have := hkept (by rw [if_neg (by simp [hown])]; exact hown) u hu
        rw [if_neg (by simp [hown])] at this
        exact this

/-- R52: no heard entry with the property is left. -/
theorem mem_removeHeardAll {p : Claim → Bool} {y : Claim} (hy : y ∈ (d.removeHeardAll p).1.claims.entries) :
    ∃ x ∈ d.claims.entries, x.Keeps y ∧ y.age = x.age ∧ (x.own = none → p x = false) := by
  obtain ⟨x, hx, hxy, hage, hgone⟩ := mem_removeHeards _ hy
  refine ⟨x, hx, hxy, hage, fun hown => ?_⟩
  rw [Bool.eq_false_iff]
  exact fun hp => hgone hown x (List.mem_filter.mpr ⟨hx, by simp [hown, hp]⟩) ⟨rfl, rfl⟩

theorem removeHeardAll_shaped {p : Claim → Bool} {own : Station} (h : d.claims.Shaped own) :
    (d.removeHeardAll p).1 = d.withEntries (d.removeHeardAll p).1.claims.entries ∧ (d.removeHeardAll p).1.claims.Shaped own := by
  have hstart : d = d.withEntries d.claims.entries ∧ d.claims.Shaped own := ⟨rfl, h⟩
  unfold Device.removeHeardAll
  refine foldl_keeps (Q := fun e => e = d.withEntries e.claims.entries ∧ e.claims.Shaped own) (fun e x ⟨he, hs⟩ => ⟨?_, ?_⟩) _ hstart
  · rw [he]
    rfl
  · have hkeep : ∀ y : Claim, y.Keeps (if y.own.isSome && y.cell == x.cell then
        { y with own := y.own.map fun o => if o.rival = some x.claimant then { o with rival := none } else o } else y) := fun y =>
      Claim.keeps_ite fun _ => Claim.keeps_of_map (fun o => if o.rival = some x.claimant then { o with rival := none } else o)
        fun o ho => by split <;> exact ho
    exact hs.filter_map _ hkeep

namespace Device.Sound

/-- R52: the heard entries age, and those of age 8 go before anything else is done. -/
theorem claimsAge (h : d.Sound) : d.claimsAge.Sound := by
  have haged : ({ d.claims with
      entries := d.claims.entries.map fun x => if x.own.isNone then { x with age := x.age + 1 } else x } : ClaimMap).Shaped d.line.station := by
    simpa using h.shaped.filter_map (fun _ => true) (f := fun x => if x.own.isNone then { x with age := x.age + 1 } else x)
      fun x => Claim.keeps_ite fun _ => Claim.keeps_of_eq
  obtain ⟨heq, hshaped⟩ := removeHeardAll_shaped (d := d.withEntries _) (p := fun x => Config.claimAge ≤ x.age) haged
  refine Device.Sound.retryRemoved ?_ _
  have hclaims := congrArg Device.claims heq
  rw [heq]
  rw [hclaims] at hshaped
  refine h.withEntries hshaped (fun y hy => ?_) fun hu => ?_
  · obtain ⟨x, hx, -, hage, hyoung⟩ := mem_removeHeardAll hy
    obtain ⟨w, hw, rfl⟩ := List.mem_map.mp hx
    rw [hage]
    split
    · next hown =>
      rw [if_pos hown] at hyoung
      simpa using hyoung (Option.isNone_iff_eq_none.mp hown)
    · exact h.claims.ages w hw
  · rw [List.eq_nil_iff_forall_not_mem]
    intro y hy
    obtain ⟨x, hx, -⟩ := mem_removeHeardAll hy
    obtain ⟨w, hw, -⟩ := List.mem_map.mp hx
    rw [(h.blank hu).2] at hw
    cases hw

theorem claimMapBeacon (h : d.Sound) (cells : List Cell) : (d.claimMapBeacon cells).Sound :=
  (foldl (fun _ c he => he.lingerTick c) (foldl (fun _ c he => he.settleTick c) h.claimsAge _) _).retryAll

/-! ## Watches, STAKE, UNSTAKE and the claim part of a RECEIPT (R51, R69, R72 to R74) -/

theorem watchHit (h : d.Sound) (k : Nat) (c : Cell) (st : Station) : (d.watchHit k c st).Sound := (h.pushNotice _).withFlags _

theorem watchHits (h : d.Sound) (c : Cell) (st : Station) : (d.watchHits c st).Sound := by
  refine foldl (fun e k he => ?_) h _
  split
  · split
    · exact he.watchHit k c st
    · exact he
  · exact he

/-- A heard entry found in the map stands in it. -/
theorem recordHeard (h : d.Sound) {s : Option Station} {st : Station} (t : Tag) (k : Nat) (p : Phase) (hc : d.peers.state ≠ .unconfigured)
    (hst : st ≠ d.line.station) (hs : d.claims.entries.countP (fun x => x.own.isNone && some x.claimant == s) ≤ 4) :
    (d.recordHeard s c st t k p).1.Sound := by
  unfold Device.recordHeard
  split
  · next x hx =>
    have hp := List.find?_some hx
    simp only [Bool.and_eq_true, Option.isNone_iff_eq_none, beq_iff_eq] at hp
    exact h.writeHeard t k p hc hst (.inr ⟨x, List.mem_of_find?_eq_some hx, hp.1.2.symm, hp.2.symm, hp.1.1⟩)
  · have hmoves : Moves False False d (d.makeRoom s).1 := Moves.makeRoom s (.refl d)
    refine (h.makeRoom s).writeHeard t k p ?_ ?_ (.inl (makeRoom_length h hs))
    · rw [hmoves.state_eq]
      exact hc
    · rw [hmoves.line_setting.station]
      exact hst

theorem recordHeard_none (h : d.Sound) {st : Station} (t : Tag) (k : Nat) (p : Phase) (hc : d.peers.state ≠ .unconfigured)
    (hst : st ≠ d.line.station) : (d.recordHeard none c st t k p).1.Sound :=
  h.recordHeard t k p hc hst (le_of_eq_of_le (List.countP_eq_zero.mpr fun x _ => by simp) (Nat.zero_le 4))

theorem hearStake (h : d.Sound) {st : Station} (b : StakeBody) (hc : d.peers.state ≠ .unconfigured) (hst : st ≠ d.line.station) :
    (d.hearStake st b).Sound := by
  have hwritten := (h.recordHeard_none (c := b.cell) b.tag b.key.toNat .contested hc hst).watchHits b.cell st
  refine Device.Sound.retryWaiting ?_ _
  split
  · split
    · exact hwritten.contestedYields ..
    · exact hwritten
  · exact hwritten

theorem hearUnstake (h : d.Sound) (st : Station) (b : UnstakeBody) : (d.hearUnstake st b).Sound := by
  have hremoved := (h.removeHeard b.cell st).watchHits b.cell st
  unfold Device.hearUnstake
  dsimp only
  split
  · exact hremoved.retryRemoved _
  · exact hremoved

theorem transferClaim (h : d.Sound) (c : Cell) (ceder : Station) {st : Station} (hc : d.peers.state ≠ .unconfigured)
    (hst : st ≠ d.line.station) : (d.transferClaim c ceder st).Sound := by
  unfold Device.transferClaim
  split
  · next x hx =>
    have hp := List.find?_some hx
    simp only [Bool.and_eq_true, Option.isNone_iff_eq_none, beq_iff_eq] at hp
    obtain ⟨⟨hown, hcell⟩, hclaimant⟩ := hp
    have hroom := removeHeard_length_lt (List.mem_of_find?_eq_some hx) hown
    rw [hcell, hclaimant] at hroom
    exact ((h.removeHeard c ceder).writeHeard x.tag x.key x.phase hc hst (.inl (hroom.trans_le h.claims.size))).retryRemoved [c]
  · exact h

/-! ## Adopted stakes (R71) -/

theorem takeAdoptedStake (h : d.Sound) (c : Cell) (i : Nat) (t : Tag) (ceder : Station) (hc : d.peers.state ≠ .unconfigured)
    (hgranted : d.adoptedStakeGranted c = true) : (d.takeAdoptedStake c i t ceder).1.Sound := by
  unfold Device.takeAdoptedStake
  dsimp only
  split
  · exact h.modOwn c fun _ hx => Claim.keeps_of_use (u := .slot i) (l := none) hx (by rintro _ ⟨⟩)
  · next hnone =>
    have hlimit : d.ownCount < Config.ownStakeLimit := by simpa [Device.adoptedStakeGranted, hnone] using hgranted
    have hremoved := h.removeHeard c ceder
    have hmoves : Moves False False d ((d.removeHeard c ceder).makeRoom none).1 := Moves.makeRoom none (Moves.removeHeard c ceder (.refl d))
    refine (hremoved.makeRoom none).newStake ?_ (makeRoom_length_none hremoved) ?_ rfl hmoves.line_setting.station.symm
    · rw [hmoves.state_eq]
      exact hc
    · rw [makeRoom_ownCount, removeHeard_ownCount]
      exact hlimit

end Device.Sound

end Sys2Proof.Machine
end

section
/-! PROOF. Every command keeps a sound part sound: runs, the ends of records, and the giver's and the taker's steps. -/

namespace Sys2Proof.Machine

set_option Elab.async false

variable {d : Device} {i : Nat} {r : Record} {o : OutcomePair} {c : Cell}

section Records

variable (ht : r.timer ≤ 6) (ho : r.offers ≤ 3) (hn : r.NoticesSound)
include ht ho hn

theorem Record.sound_giverEnded (v : Nat) : (r.giverEnded o v).Sound :=
  Record.sound_of_windowless ht ho hn (by simp [Record.giverEnded]) (by simp [Record.giverEnded]) (by simp [Record.giverEnded])

theorem Record.sound_takerEnded (v : Nat) : (r.takerEnded o v).Sound :=
  Record.sound_of_windowless ht ho hn (by simp [Record.takerEnded]) (by simp [Record.takerEnded]) (by simp [Record.takerEnded])

theorem Record.sound_unbound : r.unbound.Sound :=
  Record.sound_of_windowless ht ho hn (by simp [Record.unbound]) (by simp [Record.unbound]) (by simp [Record.unbound])

end Records

theorem Record.sound_new (t : Tag) (st : RecState) (p : Station) (b : BinId) (k : BinClass) (c : Cell) (n : Nat) :
    (Record.new t st p b k c n).Sound := by
  refine ⟨Nat.zero_le 6, Nat.zero_le 3, fun _ => .inl ⟨rfl, rfl⟩, fun _ => Nat.zero_le 3, fun p hp => ?_, List.Pairwise.nil⟩
  cases (hp : p ∈ [])

namespace Device.Sound

/-! ## Runs -/

theorem endRun (h : d.Sound) (o : OutcomePair) : (d.endRun o).Sound :=
  (h.withRun (by simpa [RunList.finish] using h.engine.runSize) (by rintro _ ⟨⟩)).runHoldEnds.moveOwed

/-- A run list that differs by its entries' states and its next ordinal. -/
theorem withRun_of (h : d.Sound) {l : RunList} (hsize : l.entries.length = d.engine.run.entries.length)
    (htimer : l.timer = d.engine.run.timer) : (d.withRun l).Sound :=
  h.withRun (hsize.trans_le h.engine.runSize) (htimer ▸ h.engine.runTimer)

theorem advanceRun (h : d.Sound) (restart : Bool) : (d.advanceRun restart).1.Sound := by
  obtain ⟨hsize, htimer⟩ := skipWithdrawn_keeps (d.engine.run.entries.length + 1) d.engine.run
  unfold Device.advanceRun
  dsimp only
  split
  · exact (h.withRun_of hsize htimer).endRun _
  · refine h.withRun (hsize.trans_le h.engine.runSize) ?_
    intro n hn
    cases restart with
    | true =>
      obtain rfl := Option.some.inj hn
      decide
    | false => exact h.engine.runTimer n (htimer ▸ hn)

theorem runRecordEnded (h : d.Sound) (n : Nat) (o : OutcomePair) : (d.runRecordEnded n o).1.Sound := by
  have hdone := h.withRun_of (l := { d.engine.run.setEntry n .done with next := n + 1 }) (setEntry_length ..) rfl
  unfold Device.runRecordEnded
  dsimp only
  split
  · split
    · split
      · exact hdone.endRun _
      · exact hdone.advanceRun _
    · exact (h.withRun_of (setEntry_length ..) (setEntry_timer ..)).endRun _
  · exact h

theorem runRecordCeded (h : d.Sound) (n : Nat) : (d.runRecordCeded n).Sound := by
  unfold Device.runRecordCeded
  dsimp only
  split
  · exact (h.withRun_of (setEntry_length ..) (setEntry_timer ..)).endRun _
  · exact h

theorem serviceTick (h : d.Sound) : d.serviceTick.Sound := by
  unfold Device.serviceTick
  split
  · split
    · split
      · next hn => exact h.withRun h.engine.runSize (by rintro _ ⟨⟩; exact hn)
      · exact h.endRun _
    · exact h
  · exact h

theorem leaveTurn (h : d.Sound) (t : Tag) : (d.leaveTurn t).Sound := by
  unfold Device.leaveTurn
  split
  · exact h.withCeding h.engine.attempts
  · exact h

/-! ## The ends of records -/

/-- R111: a giver record ends; its own fields need to be sound only once it is ENDED. -/
theorem endGiver_of {v : Nat} (hr : d.recordAt i = some r) (h : (d.setSlot i (some (r.giverEnded o v))).Sound) : (d.endGiver i o v).Sound := by
  have hleft := h.leaveTurn (r.giverEnded o v).tag
  rw [setSlot_left] at hleft
  rw [endGiver_eq hr]
  refine Device.Sound.raise (Device.Sound.recordStakeEnds ?_ _ _) ..
  unfold Device.runHears
  split
  · exact hleft
  · exact hleft.runRecordEnded ..

theorem endGiver (h : d.Sound) (i : Nat) (o : OutcomePair) (v : Nat) : (d.endGiver i o v).Sound := by
  cases hr : d.recordAt i with
  | none =>
    unfold Device.endGiver
    rw [hr]
    exact h
  | some r =>
    obtain ⟨ht, ho, -, -, hn⟩ := h.record hr
    exact endGiver_of hr (h.rewrite hr (Record.sound_giverEnded ht ho hn v))

/-- R126: a taker record ends; its own fields need to be sound only once it is ENDED. -/
theorem endTaker_of (hr : d.recordAt i = some r) (h : ∀ v, (d.setSlot i (some (r.takerEnded o v))).Sound) : (d.endTaker i o).Sound := by
  have hleft := (h (d.shadowE i r)).leaveTurn (r.takerEnded o (d.shadowE i r)).tag
  rw [setSlot_left] at hleft
  have hgone : ((d.withoutShadow i r).left i (r.takerEnded o (d.shadowE i r))).Sound := by
    unfold Device.withoutShadow
    split
    · exact hleft.removeAccount (.slot i)
    · exact hleft
  rw [endTaker_of_record hr]
  exact hgone.raise ..

theorem endTaker (h : d.Sound) (i : Nat) (o : OutcomePair) : (d.endTaker i o).Sound := by
  cases hr : d.recordAt i with
  | none =>
    unfold Device.endTaker
    rw [hr]
    exact h
  | some r =>
    obtain ⟨ht, ho, -, -, hn⟩ := h.record hr
    exact endTaker_of hr fun v => h.rewrite hr (Record.sound_takerEnded ht ho hn v)

/-! ## The giver -/

theorem createGiver (h : d.Sound) (i : Nat) (a : Account) (c : Cell) (taker : Station) (n : Nat) :
    (d.createGiver i a c taker n).Sound := by
  have hcounted := h.withTagCounter (d.newTag.seq + 1#8)
  have hfree : d.slotOf d.newTag = none := slotOf_newTag h.engine.slots.le
  have hmade := (hcounted.newRecord i (Record.sound_new d.newTag (.giver .pending) taker a.bin a.cls c n) hfree).clearWait
  unfold Device.createGiver
  dsimp only
  split
  · exact hmade.enterStaking i
  · exact hmade

theorem sendCancel (h : d.Sound) (t : Tag) (b : Byte) : (d.sendCancel t b).Sound := h.sendAbsorbed ..

theorem setdownDropped (h : d.Sound) (i : Nat) : (d.setdownDropped i).Sound :=
  h.modRecord i (f := fun r => if r.state = .giver .placed then { r with setdownOwed := true, setdownFrame := none } else r)
    (fun r hr => by split <;> exact hr) fun r => by split <;> rfl

theorem sendSetdown (h : d.Sound) (i : Nat) : (d.sendSetdown i).Sound := by
  unfold Device.sendSetdown
  split
  · next r _ =>
    have hoffered := h.offer .engine (.setdown { tag := r.tag, cell := r.cell, bin := r.bin, e := BitVec.ofNat 16 (d.slotE i) })
    dsimp only
    split
    · next seq _ =>
      exact hoffered.modRecord i (f := fun r => if r.state = .giver .placed then { r with setdownOwed := false, setdownFrame := some seq } else r)
        (fun r hr => by split <;> exact hr) fun r => by split <;> rfl
    · exact hoffered.setdownDropped i
  · exact h

/-- R99, R101, R108, R109: a record goes to UNBOUND and tells why. -/
theorem unbound (h : d.Sound) (hr : d.recordAt i = some r) : (d.setSlot i (some r.unbound)).Sound := by
  obtain ⟨ht, ho, -, -, hn⟩ := h.record hr
  exact h.rewrite hr (Record.sound_unbound ht ho hn)

theorem bindDropped (h : d.Sound) (i : Nat) : (d.bindDropped i).Sound := by
  unfold Device.bindDropped
  split
  · next r hr =>
    split
    · exact ((h.unbound hr).raisePartnerLost ..).sendCancel ..
    · exact h
  · exact h

theorem sendBind (h : d.Sound) (i : Nat) : (d.sendBind i).Sound := by
  unfold Device.sendBind
  split
  · next r _ =>
    have hoffered := h.offer .engine (.bind { tag := r.tag, taker := r.partner })
    dsimp only
    split
    · exact hoffered.modRecord i fun _ => id
    · exact hoffered.bindDropped i
  · exact h

/-- R96: the offer window of a sound record counts on, and closes after 6 with the record out of OFFERING. -/
theorem offerTick (h : d.Sound) (i : Nat) : (d.offerTick i).Sound := by
  unfold Device.offerTick
  split
  · next r hr =>
    split
    · next hs =>
      obtain ⟨hstate, hsent⟩ := hs
      obtain ⟨-, hoffers, hoffering, -, hnotices⟩ := h.record hr
      obtain ⟨hsends, htimer⟩ := (hoffering hstate).resolve_left fun hz => by omega
      have hcounted : (d.setSlot i (some { r with timer := r.timer + 1 })).recordAt i = some { r with timer := r.timer + 1 } :=
        recordAt_setSlot_self d _ (recordAt_lt d hr)
      have hsound (n : Nat) (hn : n = (r.timer + 1) / 2 + 1) (ht : r.timer + 1 ≤ 5) (b : Bool) :
          ({ r with timer := r.timer + 1, offers := n, addressed := b } : Record).Sound := by
        refine ⟨by show r.timer + 1 ≤ 6; omega, by show n ≤ 3; omega, fun _ => .inr ⟨hn, ht⟩, fun hw => ?_, hnotices⟩
        have : r.state = .taker .invited ∨ r.state = .taker .agreed := hw
        rw [hstate] at this
        simp at this
      have hagain (ht : (r.timer + 1) / 2 + 1 = r.offers + 1) (ht5 : r.timer + 1 ≤ 5) :
          ((d.setSlot i (some { r with timer := r.timer + 1 })).queueOffer i).Sound := by
        refine queueOffer_of hcounted ?_
        rw [setSlot_setSlot]
        exact h.rewrite hr (hsound _ ht.symm ht5 true)
      dsimp only
      split
      · next hsecond =>
        obtain ⟨h2, h1⟩ := hsecond
        have : r.timer + 1 = 2 := h2
        exact hagain (by omega) (by omega)
      · split
        · next hthird =>
          obtain ⟨h4, h2⟩ := hthird
          have : r.timer + 1 = 4 := h4
          exact hagain (by omega) (by omega)
        · split
          · have hlast : r.timer + 1 ≤ 6 := by omega
            unfold Device.offerWindowExpires
            rw [hcounted]
            dsimp only
            split
            · rw [setSlot_setSlot]
              exact (h.rewrite hr (Record.sound_unbound (r := { r with timer := r.timer + 1 }) hlast hoffers hnotices)).raisePartnerLost ..
            · refine endGiver_of hcounted ?_
              rw [setSlot_setSlot]
              exact h.rewrite hr (Record.sound_giverEnded (r := { r with timer := r.timer + 1 }) hlast hoffers hnotices _)
          · next h2 h4 h6 =>
            have h2 : ¬(r.timer + 1 = 2 ∧ r.offers = 1) := h2
            have h4 : ¬(r.timer + 1 = 4 ∧ r.offers = 2) := h4
            have h6 : ¬(r.timer + 1 = 6 ∧ r.offers = 3) := h6
            exact h.rewrite hr (hsound r.offers (by omega) (by omega) r.addressed)
    · exact h
  · exact h

theorem setdownTick (h : d.Sound) (i : Nat) : (d.setdownTick i).Sound := by
  unfold Device.setdownTick
  split
  · exact (h.modRecord i (f := fun r => { r with setdownOwed := false }) fun _ => id).sendSetdown i
  · exact h

theorem giverAgree (h : d.Sound) (hr : d.recordAt i = some r) (st : Station) : (d.giverAgree i r st).Sound := by
  have hsent (g : GiverState) (hg : g ≠ .offering) := ((h.rewrite (q := { r with
    partner := st, state := .giver g, bindFrame := none, setdownFrame := none }) hr
    ((h.record hr).leaves (h1 := by simpa using hg))).raise i .bound outcomeDone [st]).sendBind i
  unfold Device.giverAgree
  dsimp only
  split
  · exact (hsent .placed (by simp)).sendSetdown i
  · exact hsent .bound (by simp)

theorem giverDecline (h : d.Sound) (hr : d.recordAt i = some r) (b : Byte) : (d.giverDecline i r b).Sound := by
  unfold Device.giverDecline
  split
  · exact (h.unbound hr).raisePartnerLost ..
  · exact h

theorem giverLifted (h : d.Sound) (i : Nat) : (d.giverLifted i).Sound := (h.removeAccount (.slot i)).endGiver ..

theorem giverHearLifted (h : d.Sound) (i : Nat) (r : Record) (b : BinId) : (d.giverHearLifted i r b).Sound := by
  unfold Device.giverHearLifted
  split_ifs
  · exact h.giverLifted i
  · exact h.raiseCustody i
  · exact h.raiseCustody i
  · exact h

theorem giverHearCancel (h : d.Sound) (hr : d.recordAt i = some r) (b : Byte) : (d.giverHearCancel i r b).Sound := by
  unfold Device.giverHearCancel
  split
  · exact (h.unbound hr).raisePartnerLost ..
  · exact h

theorem giverPartnerLost (h : d.Sound) (hr : d.recordAt i = some r) : (d.giverPartnerLost i r).Sound := by
  unfold Device.giverPartnerLost
  split_ifs
  · exact h.raisePartnerLost ..
  · exact (h.unbound hr).raisePartnerLost ..
  · exact h

theorem giverSetdown (h : d.Sound) (hr : d.recordAt i = some r) : (d.giverSetdown i r).Sound := by
  have hmoved := h.moveAccount .hoist (.slot i) .cell
  have hrec : (d.moveAccount .hoist (.slot i) .cell).recordAt i = some r := by
    unfold Device.moveAccount
    split <;> exact hr
  have hdown (g : GiverState) (hg : g ≠ .offering) := (hmoved.rewrite (q := { r with
    state := .giver g, placed := true, bindFrame := none, setdownFrame := none }) hrec
    ((h.record hr).leaves (h1 := by simpa using hg))).placeStake i
  unfold Device.giverSetdown
  dsimp only
  split
  · exact (hdown .placed (by simp)).sendSetdown i
  · exact hdown .unbound (by simp)

theorem giverRecover (h : d.Sound) (i : Nat) (r : Record) : (d.giverRecover i r).Sound := by
  have hmoved := h.moveAccount (.slot i) .hoist .hoist
  unfold Device.giverRecover
  dsimp only
  split
  · exact (hmoved.sendCancel ..).endGiver ..
  · exact hmoved.endGiver ..

theorem giverCancel (h : d.Sound) (i : Nat) (r : Record) : (d.giverCancel i r).Sound := by
  unfold Device.giverCancel
  dsimp only
  split
  · exact (h.sendCancel ..).endGiver ..
  · exact h.endGiver ..

theorem giverReoffer (h : d.Sound) (hr : d.recordAt i = some r) (t : Station) : (d.giverReoffer i r t).Sound :=
  ((h.rewrite (q := { r with partner := t }) hr (id (h.record hr) : r.Sound)).leaveTurn r.tag).enterOffering i

/-- R94, R95: a sound record that is OFFERING without an OFFER queues its first one. -/
theorem engineActive (h : d.Sound) : d.engineActive.Sound :=
  h.forSlots fun i e he => by
    split
    · exact he.enterStaking i
    · split
      · next hs =>
        refine he.queueOffer fun r hr => ?_
        rw [recordIs_of_record hr] at hs
        simpa using hs
      · exact he

/-! ## The taker -/

theorem sendDecline (h : d.Sound) (t : Tag) (b : Byte) : (d.sendDecline t b).Sound := h.sendAbsorbed ..

theorem invite (h : d.Sound) (i : Nat) (st : Station) (b : OfferBody) (ht : d.slotOf b.tag = none) : (d.invite i st b).Sound := by
  have hnew := Record.sound_new b.tag (.taker .invited) st b.bin (BinClass.ofByte b.cls) b.cell b.ordinal.toNat
  exact Device.Sound.raise (h.newRecord i (q := { Record.new b.tag (.taker .invited) st b.bin (BinClass.ofByte b.cls) b.cell
    b.ordinal.toNat with placed := b.placed == 1#8 }) hnew ht) ..

theorem hearOffer (h : d.Sound) (st : Station) (b : OfferBody) : (d.hearOffer st b).Sound := by
  unfold Device.hearOffer
  split
  · next hfree =>
    split
    · unfold Device.newOffer
      split
      · exact h
      · split
        · exact h.sendDecline ..
        · split
          · exact h.invite _ st b hfree
          · split
            · exact h.sendDecline ..
            · exact h
    · exact h
  · split
    · exact h.modRecord _ fun _ => id
    · exact h

theorem agreeDropped (h : d.Sound) (i : Nat) (x : DropReason) : (d.agreeDropped i x).Sound := by
  unfold Device.agreeDropped
  split
  · exact h.endTaker ..
  · exact h

theorem takerAgree (h : d.Sound) (hr : d.recordAt i = some r) : (d.takerAgree i r).Sound := by
  obtain ⟨-, ho, -, -, hn⟩ := h.record hr
  have hagreed := h.rewrite (q := { r with state := .taker .agreed, timer := 0 }) hr
    ⟨Nat.zero_le 6, ho, fun hs => by simp at hs, fun _ => Nat.zero_le 3, hn⟩
  have hoffered := hagreed.offer .engine (.agree { tag := r.tag, taker := d.own })
  unfold Device.takerAgree
  dsimp only
  split
  · exact hoffered.modRecord i fun _ => id
  · exact hoffered.agreeDropped ..

theorem takerDecline (h : d.Sound) (i : Nat) (r : Record) : (d.takerDecline i r).Sound := (h.sendDecline ..).endTaker ..

/-- R115: an answer window that does not close keeps its timer below 4. -/
theorem answerTick (h : d.Sound) (i : Nat) : (d.answerTick i).Sound := by
  unfold Device.answerTick
  split
  · next r hr =>
    split
    · next hs =>
      obtain ⟨-, ho, -, hwindow, hn⟩ := h.record hr
      have ht : r.timer ≤ 3 := hwindow (.inl hs)
      have hcounted : (d.setSlot i (some { r with timer := r.timer + 1 })).recordAt i = some { r with timer := r.timer + 1 } :=
        recordAt_setSlot_self d _ (recordAt_lt d hr)
      dsimp only
      split
      · next hlt =>
        have hlt : r.timer + 1 < 4 := hlt
        exact h.rewrite hr ⟨show r.timer + 1 ≤ 6 by omega, ho, fun hg => (by simp [hs] at hg),
          fun _ => show r.timer + 1 ≤ 3 by omega, hn⟩
      · refine endTaker_of (r := { r with timer := r.timer + 1 }) hcounted fun v => ?_
        have hended := (h.rewrite hr (Record.sound_takerEnded (r := { r with timer := r.timer + 1 }) (o := ⟨.refused, .noAnswer⟩)
          (show r.timer + 1 ≤ 6 by omega) ho hn v)).sendDecline r.tag 2#8
        rw [← setSlot_setSlot d i (some { r with timer := r.timer + 1 })] at hended
        exact hended
    · exact h
  · exact h

/-- R117: an AGREED timer that does not expire stays below 4. -/
theorem agreedTick (h : d.Sound) (i : Nat) : (d.agreedTick i).Sound := by
  unfold Device.agreedTick
  split
  · next r hr =>
    split
    · next hs =>
      obtain ⟨-, ho, -, hwindow, hn⟩ := h.record hr
      have ht : r.timer ≤ 3 := hwindow (.inr hs.1)
      have hcounted : (d.setSlot i (some { r with timer := r.timer + 1 })).recordAt i = some { r with timer := r.timer + 1 } :=
        recordAt_setSlot_self d _ (recordAt_lt d hr)
      dsimp only
      split
      · next hlt =>
        have hlt : r.timer + 1 < 4 := hlt
        exact h.rewrite hr ⟨show r.timer + 1 ≤ 6 by omega, ho, fun hg => (by simp [hs.1] at hg),
          fun _ => show r.timer + 1 ≤ 3 by omega, hn⟩
      · refine endTaker_of hcounted fun v => ?_
        rw [setSlot_setSlot]
        exact h.rewrite hr (Record.sound_takerEnded (r := { r with timer := r.timer + 1 }) (show r.timer + 1 ≤ 6 by omega) ho hn v)
    · exact h
  · exact h

theorem takerHearBind (h : d.Sound) (hr : d.recordAt i = some r) (t : Station) : (d.takerHearBind i r t).Sound := by
  unfold Device.takerHearBind
  split_ifs
  · exact (h.rewrite (q := { r with state := .taker .bound, agreeFrame := none }) hr (h.record hr).leaves).raise ..
  · exact h
  · exact h
  · exact h.endTaker ..

theorem takerHearSetdown (h : d.Sound) (hr : d.recordAt i = some r) (b : SetdownBody) : (d.takerHearSetdown i r b).Sound := by
  have hshadow := h.setAccount (.slot i)
    (a := some { bin := r.bin, cls := r.cls, e := b.e.toNat, location := .shadow, spent := false, wait := 0 }) (by
      rintro _ ⟨⟩
      exact ⟨Nat.le_of_lt_succ b.e.isLt, Nat.zero_le _⟩)
  unfold Device.takerHearSetdown
  split_ifs
  · exact h.raiseCustody i
  · exact h.raiseCustody i
  · exact ((hshadow.rewrite (q := { r with state := .taker .ready }) hr (h.record hr).leaves).raise i .placed outcomeDone
      (bytes16 b.e)).spentCheck (.slot i)
  · exact h

theorem liftedDropped (h : d.Sound) (i : Nat) : (d.liftedDropped i).Sound :=
  h.modRecord i (f := fun r => if r.lifted = .awaited then { r with lifted := .owed, liftedFrame := none } else r)
    (fun r hr => by split <;> exact hr) fun r => by split <;> rfl

theorem sendLifted (h : d.Sound) (i : Nat) : (d.sendLifted i).Sound := by
  unfold Device.sendLifted
  split
  · next r hr =>
    have hoffered := (h.rewrite (q := { r with lifted := .awaited }) hr (id (h.record hr) : r.Sound)).offer .engine
      (.lifted { tag := r.tag, taker := d.own, bin := r.bin })
    dsimp only
    split
    · exact hoffered.modRecord i fun _ => id
    · exact hoffered.liftedDropped i
  · exact h

theorem liftedSent (h : d.Sound) (i : Nat) : (d.liftedSent i).Sound := (h.modRecord i (f := fun r => { r with lifted := .sent, liftedFrame := none }) fun _ => id).raiseEnded i

theorem takerLift (h : d.Sound) (hr : d.recordAt i = some r) : (d.takerLift i r).Sound := by
  have hmoved := h.moveAccount (.slot i) .hoist .hoist
  have hrec : (d.moveAccount (.slot i) .hoist .hoist).recordAt i = some r := by
    unfold Device.moveAccount
    split <;> exact hr
  exact ((hmoved.rewrite (q := { r with
    state := .taker .ended, outcome := some outcomeDone, endValue := d.slotE i, endCollected := false }) hrec
    (h.record hr).leaves).leaveTurn r.tag).sendLifted i

theorem liftedTick (h : d.Sound) (i : Nat) : (d.liftedTick i).Sound := by
  unfold Device.liftedTick
  split
  · exact h.sendLifted i
  · exact h

theorem recordTick (h : d.Sound) (i : Nat) : (d.recordTick i).Sound :=
  ((((h.offerTick i).setdownTick i).answerTick i).agreedTick i).liftedTick i

theorem takerCancel (h : d.Sound) (i : Nat) (r : Record) : (d.takerCancel i r).Sound := (h.sendCancel ..).endTaker ..

theorem takerHearCancel (h : d.Sound) (i : Nat) (r : Record) (b : Byte) : (d.takerHearCancel i r b).Sound := by
  unfold Device.takerHearCancel
  dsimp only
  split
  · split
    · exact h.endTaker ..
    · exact h.raisePartnerLost ..
  · split_ifs
    · exact h.raiseCustody i
    · exact h
  · exact h.endTaker ..
  · exact h

theorem takerPartnerLost (h : d.Sound) (i : Nat) (r : Record) : (d.takerPartnerLost i r).Sound := by
  unfold Device.takerPartnerLost
  split
  · exact h.raisePartnerLost ..
  · exact h
  · exact h.endTaker ..
  · exact h

/-! ## Every record of a partner -/

theorem partnerLost (h : d.Sound) (st : Station) : (d.partnerLost st).Sound :=
  h.forSlots fun i e he => by
    split
    · next r hr =>
      split
      · split
        · exact he.giverPartnerLost hr
        · exact he.takerPartnerLost i r
      · exact he
    · exact he

theorem partnerLapsed (h : d.Sound) (st : Station) : (d.partnerLapsed st).Sound :=
  h.forSlots fun i e he => by
    split
    · exact he.raise ..
    · exact he

theorem partnerChanged (h : d.Sound) (t : Tag) (ceder adopter : Station) : (d.partnerChanged t ceder adopter).Sound := by
  unfold Device.partnerChanged
  split
  · next i _ =>
    have hchanged := h.modRecord i (f := fun r => { r with partner := adopter }) fun _ => id
    split
    · dsimp only
      split
      · exact hchanged.raise ..
      · exact hchanged
    · exact h
  · exact h

/-! ## Frames that concern a record (R30) -/

theorem concerned_record {t : Tag} {st : Station} (hc : d.concerned t st = some (i, r)) : d.recordAt i = some r := by
  unfold Device.concerned at hc
  split at hc
  · split at hc
    · next hr =>
      split at hc
      · obtain ⟨rfl, rfl⟩ := Prod.mk.inj (Option.some.inj hc)
        exact hr
      · cases hc
    · cases hc
  · cases hc

theorem hearAgree (h : d.Sound) (st : Station) (b : AgreeBody) : (d.hearAgree st b).Sound := by
  unfold Device.hearAgree
  split
  · split
    · next hr =>
      split
      · exact h.giverAgree hr st
      · exact h
    · exact h
  · exact h

theorem hearDecline (h : d.Sound) (st : Station) (b : DeclineBody) : (d.hearDecline st b).Sound := by
  unfold Device.hearDecline
  split
  · next hc =>
    split
    · exact h.giverDecline (concerned_record hc) _
    · exact h
  · exact h

theorem hearBind (h : d.Sound) (st : Station) (b : BindBody) : (d.hearBind st b).Sound := by
  unfold Device.hearBind
  split
  · next hc =>
    split
    · exact h
    · exact h.takerHearBind (concerned_record hc) _
  · exact h

theorem hearSetdown (h : d.Sound) (st : Station) (b : SetdownBody) : (d.hearSetdown st b).Sound := by
  unfold Device.hearSetdown
  split
  · next hc =>
    split
    · exact h
    · exact h.takerHearSetdown (concerned_record hc) _
  · exact h

theorem hearLifted (h : d.Sound) (st : Station) (b : LiftedBody) : (d.hearLifted st b).Sound := by
  unfold Device.hearLifted
  split
  · split
    · exact h.giverHearLifted ..
    · exact h
  · exact h

theorem hearCancel (h : d.Sound) (st : Station) (b : CancelBody) : (d.hearCancel st b).Sound := by
  unfold Device.hearCancel
  split
  · next hc =>
    split
    · exact h.giverHearCancel (concerned_record hc) _
    · exact h.takerHearCancel ..
  · exact h

theorem inferLift (h : d.Sound) (b : BinId) : (d.inferLift b).Sound := by
  unfold Device.inferLift
  split
  · exact h.forSlots fun i e he => by
      split
      · exact he.giverLifted i
      · exact he
  · exact h

end Device.Sound

end Sys2Proof.Machine
end

section
/-! PROOF. Every command keeps a sound part sound: the station's state, the adoption, the double holds and the roster. -/

namespace Sys2Proof.Machine

set_option Elab.async false

variable {d : Device} {i : Nat} {r : Record} {o : OutcomePair} {c : Cell}

theorem makeRoom_engine (s : Option Station) : (d.makeRoom s).1.engine = d.engine := by
  unfold Device.makeRoom
  split
  · rfl
  · unfold Device.evict
    split <;> rfl

theorem takeAdoptedStake_engine (c : Cell) (i : Nat) (t : Tag) (st : Station) : (d.takeAdoptedStake c i t st).1.engine = d.engine := by
  unfold Device.takeAdoptedStake
  dsimp only
  split
  · rfl
  · exact makeRoom_engine none

namespace Device.Sound

/-! ## The own station state -/

theorem withPeers (h : d.Sound) {p : PeerRoster} (hp : p.Sound d.line.station)
    (hb : p.state = .unconfigured → p.roster = [] ∧ d.claims.entries = []) : (d.withPeers p).Sound :=
  ⟨h.line, hp, h.claims, h.accounts, h.engine, h.notices, h.backup, hb⟩

/-- The station's state, its timers and its mark change; the roster stays. -/
theorem withStation (h : d.Sound) (p : PeerRoster) (hroster : p.roster = d.peers.roster := by rfl)
    (hs : p.state = .unconfigured → d.peers.state = .unconfigured) (hjoin : ∀ n ∈ p.joinTimer, 1 ≤ n ∧ n ≤ 4)
    (hsilence : ∀ n ∈ p.silenceTimer, 1 ≤ n ∧ n ≤ 20) : (d.withPeers p).Sound := by
  refine h.withPeers ⟨?_, ?_, ?_, ?_, hjoin, hsilence⟩ fun hu => ?_
  · exact hroster ▸ h.peers.size
  · exact hroster ▸ h.peers.ordered
  · exact hroster ▸ h.peers.others
  · exact hroster ▸ h.peers.ages
  · exact hroster ▸ h.blank (hs hu)

theorem setStation (h : d.Sound) {st : StationState} (hs : st ≠ .unconfigured) : (d.setStation st).Sound :=
  h.withStation _ rfl (fun hu => absurd hu hs) h.peers.joinTimer h.peers.silenceTimer

theorem becomeActive (h : d.Sound) : d.becomeActive.Sound := (h.setStation (by simp)).engineActive

theorem lapseEnded (h : d.Sound) : d.lapseEnded.Sound := h.pushNotice _

theorem silenceExpires (h : d.Sound) : d.silenceExpires.Sound := by
  have hstopped := h.withStation { d.peers with silenceTimer := none } rfl id h.peers.joinTimer (by rintro _ ⟨⟩)
  unfold Device.silenceExpires
  dsimp only
  split
  · exact Device.Sound.withCeding (hstopped.setStation (by simp)) h.engine.attempts
  · exact hstopped.withStation _ rfl id hstopped.peers.joinTimer hstopped.peers.silenceTimer
  · exact hstopped

theorem joinExpires (h : d.Sound) (order : List Station) : (d.joinExpires order).Sound :=
  foldl (fun _ st he => he.partnerLost st)
    (h.withStation { d.peers with joinTimer := none } rfl id (by rintro _ ⟨⟩) h.peers.silenceTimer).becomeActive _

theorem joinTick (h : d.Sound) (order : List Station) : (d.joinTick order).Sound := by
  unfold Device.joinTick
  split
  · split
    · next n hn =>
      have hrange := h.peers.joinTimer n hn
      split
      · exact h.joinExpires order
      · exact h.withStation _ rfl id (by rintro _ ⟨⟩; omega) h.peers.silenceTimer
    · exact h
  · exact h

theorem silenceTick (h : d.Sound) : d.silenceTick.Sound := by
  unfold Device.silenceTick
  split
  · next n hn =>
    have hrange := h.peers.silenceTimer n hn
    split
    · exact h.silenceExpires
    · exact h.withStation _ rfl id h.peers.joinTimer (by rintro _ ⟨⟩; omega)
  · exact h

theorem requestCompleted (h : d.Sound) : d.requestCompleted.Sound := by
  have hrestarted := h.withStation { d.peers with silenceTimer := some Config.hostSilence } rfl id h.peers.joinTimer
    (by rintro _ ⟨⟩; decide)
  unfold Device.requestCompleted
  dsimp only
  split
  · exact h
  · exact hrestarted.becomeActive.lapseEnded
  · exact hrestarted.withStation _ rfl id hrestarted.peers.joinTimer hrestarted.peers.silenceTimer
  · exact hrestarted

/-! ## The adopter -/

theorem endAdoption (h : d.Sound) (o : OutcomePair) : (d.endAdoption o).Sound := (h.withAdoption (by rintro _ ⟨⟩)).pushNotice _

theorem adoptDropped (h : d.Sound) (x : DropReason) : (d.adoptDropped x).Sound := by
  unfold Device.adoptDropped
  split
  · exact h.endAdoption _
  · exact h

theorem adoptSent (h : d.Sound) : d.adoptSent.Sound := by
  unfold Device.adoptSent
  split
  · exact h.withAdoption (by rintro _ ⟨⟩; decide)
  · exact h

theorem startAdoption (h : d.Sound) (t : Station) : (d.startAdoption t).Sound := by
  have hoffered := (h.withAdoption (a := { phase := .sending, target := t, timer := none, arrived := [], frame := none })
    (by rintro _ ⟨⟩)).offer .engine (.adopt { target := t })
  unfold Device.startAdoption
  dsimp only
  split
  · exact hoffered.withAdoption hoffered.engine.adoption
  · exact hoffered.adoptDropped _

theorem adoptionTick (h : d.Sound) : d.adoptionTick.Sound := by
  unfold Device.adoptionTick
  split
  · next n hn =>
    have hrange := h.engine.adoption n hn
    split
    · exact h.endAdoption _
    · exact h.withAdoption (by rintro _ ⟨⟩; omega)
  · exact h

theorem sendReceipt (h : d.Sound) (t : Tag) (st : Station) (x y : Byte) (c : Option Cell) : (d.sendReceipt t st x y c).Sound :=
  h.sendAbsorbed ..

theorem adoptRecord (h : d.Sound) (i : Nat) (p : CedePart) (ht : d.slotOf p.tag = none) : (d.adoptRecord i p).Sound := by
  have hnew : (adoptedRecord p).Sound :=
    Record.sound_new p.tag (CedePart.recState p) p.partner p.bin (BinClass.ofByte p.cls) p.cell 0
  have hmade := h.newRecord i (q := adoptedRecord p) hnew ht
  have harrived := hmade.withAdoption (a := { d.engine.adoption with arrived := d.engine.adoption.arrived ++ [p.tag] }) h.engine.adoption
  unfold Device.adoptRecord
  dsimp only
  split
  · exact harrived.createAccount _ _ _ (Nat.le_of_lt_succ p.e.isLt) _
  · exact harrived

theorem adoptAnnounce (h : d.Sound) (i : Nat) (p : CedePart) (st : Station) : (d.adoptAnnounce i p st).Sound := by
  have htold (n : Nat) := (h.raise i .arrived outcomeDone (bytesOfNat16 n)).sendReceipt p.tag st 0#8 0#8 (CedePart.receiptCell p)
  unfold Device.adoptAnnounce
  dsimp only
  split
  · exact (htold _).sendSetdown i
  · exact htold _

theorem acceptCede (h : d.Sound) (i : Nat) (p : CedePart) (st : Station) (hc : d.peers.state ≠ .unconfigured)
    (hgranted : CedePart.isGiver p = true → d.adoptedStakeGranted p.cell = true) (ht : d.slotOf p.tag = none) :
    (d.acceptCede i p st).Sound := by
  unfold Device.acceptCede
  dsimp only
  split
  · next hg =>
    have hstaked := h.takeAdoptedStake p.cell i p.tag st hc (hgranted hg)
    refine ((hstaked.adoptRecord i p ?_).adoptAnnounce ..).retryRemoved _
    unfold Device.slotOf
    rw [takeAdoptedStake_engine]
    exact ht
  · exact ((h.adoptRecord i p ht).adoptAnnounce ..).retryRemoved _

theorem judgeCede (h : d.Sound) (p : CedePart) (st : Station) (hc : d.peers.state ≠ .unconfigured) : (d.judgeCede p st).Sound := by
  unfold Device.judgeCede
  split
  · exact h.sendReceipt ..
  · split
    · exact h.sendReceipt ..
    · split
      · exact h.sendReceipt ..
      · next hgranted =>
        split
        · exact h.sendReceipt ..
        · split
          · exact h.sendReceipt ..
          · next hknown =>
            refine h.acceptCede _ p st hc (fun hg => by simpa [hg] using hgranted) ?_
            simp only [Bool.or_eq_true, not_or, Bool.not_eq_true, Option.isSome_eq_false_iff, Option.isNone_iff_eq_none] at hknown
            exact hknown.1

theorem hearCede (h : d.Sound) (st : Station) (b : CedeBody) (hc : d.peers.state ≠ .unconfigured) : (d.hearCede st b).Sound := by
  unfold Device.hearCede
  dsimp only
  split
  · have hwait : 1 ≤ (if cedeLast b then Config.adoptionLastWait else Config.adoptionWait) ∧
        (if cedeLast b then Config.adoptionLastWait else Config.adoptionWait) ≤ 8 := by split <;> decide
    generalize (if cedeLast b then Config.adoptionLastWait else Config.adoptionWait) = wait at hwait ⊢
    have hlistening := h.withAdoption (a := { d.engine.adoption with phase := .listening, timer := some wait })
      (by rintro _ ⟨⟩; exact hwait)
    split
    · exact hlistening
    · split
      · exact hlistening.judgeCede _ st hc
      · exact hlistening
  · exact h

/-! ## The ceder -/

theorem queueCede (h : d.Sound) (t : Tag) (ha : d.engine.ceding.attempts < Config.cedeAttempts) : (d.queueCede t).Sound := by
  unfold Device.queueCede
  split
  · split
    · exact (h.withCeding (c := { d.engine.ceding with attempts := d.engine.ceding.attempts + 1 }) ha).sendAbsorbed ..
    · exact h
  · exact h

theorem countStranded (h : d.Sound) (t : Tag) : (d.countStranded t).Sound := by
  unfold Device.countStranded
  split
  · split
    · exact h.withCeding h.engine.attempts
    · exact h
  · exact h

theorem endCeding (h : d.Sound) : d.endCeding.Sound := by
  have hover := h.withCeding (c := { d.engine.ceding with
    adopter := none, tags := [], turn := .none, attempts := 0, broken := false, frame := none }) (Nat.zero_le _)
  unfold Device.endCeding
  dsimp only
  split
  · exact (hover.withStation { d.peers with hostReturned := false } rfl id h.peers.joinTimer h.peers.silenceTimer).becomeActive.lapseEnded
  · exact hover.setStation (by simp)

theorem openEmpty (h : d.Sound) : d.openEmpty.Sound := by
  have hoffered := (h.withCeding (c := { d.engine.ceding with turn := .emptyCede, attempts := 1, broken := false })
    (show 1 ≤ 3 by decide)).offer
    .engine (.cede { adopter := d.engine.ceding.adopter.getD 0#8, flags := 1#8, part := none })
  unfold Device.openEmpty
  dsimp only
  split
  · exact hoffered.withCeding hoffered.engine.attempts
  · exact hoffered.endCeding

theorem openTurn (h : d.Sound) (t : Tag) : (d.openTurn t).Sound :=
  (h.withCeding (c := { d.engine.ceding with turn := .tag t, attempts := 0, broken := false }) (Nat.zero_le _)).queueCede t (show 0 < 3 by decide)

theorem openNext (h : d.Sound) (l : List Tag) (b : Bool) : (Device.openNext l b d).Sound := by
  induction l generalizing d b with
  | nil =>
    unfold Device.openNext
    split
    · exact h.openEmpty
    · exact h.endCeding
  | cons t l ih =>
    unfold Device.openNext
    split
    · exact h.openTurn t
    · exact ih (h.countStranded t) true

theorem closeTurn (h : d.Sound) (t : Tag) : (d.closeTurn t).Sound := by
  unfold Device.closeTurn
  split
  · exact h.endCeding
  · exact h.openNext _ _

theorem beginCeding (h : d.Sound) (st : Station) : (d.beginCeding st).Sound := by
  have hceding := h.withStation { d.peers with state := .ceding, hostReturned := false } rfl (fun hu => nomatch hu) h.peers.joinTimer
    h.peers.silenceTimer
  have hopen (n : Nat) := hceding.withCeding (c := { d.engine.ceding with
    adopter := some st, tags := d.cedableTags, turn := .none, attempts := 0, broken := false, stranded := n, frame := none }) (Nat.zero_le _)
  unfold Device.beginCeding
  dsimp only
  split
  · exact (hopen _).openEmpty
  · exact (hopen _).openTurn _

theorem hearAdopt (h : d.Sound) (st : Station) (b : AdoptBody) : (d.hearAdopt st b).Sound := by
  unfold Device.hearAdopt
  split
  · exact h.beginCeding st
  · exact h

theorem turnTick (h : d.Sound) : d.turnTick.Sound := by
  unfold Device.turnTick
  split
  · split
    · next ha => exact h.queueCede _ ha.1
    · exact (h.countStranded _).closeTurn _
  · exact h

theorem emptyCedeEnded (h : d.Sound) : d.emptyCedeEnded.Sound := by
  unfold Device.emptyCedeEnded
  split
  · exact h.endCeding
  · exact h

theorem cedeRecord (h : d.Sound) (i : Nat) (r : Record) : (d.cedeRecord i r).Sound := by
  have hgone := ((h.cedeStake i).removeAccount (.slot i)).freeSlot i
  unfold Device.cedeRecord
  dsimp only
  split
  · exact (hgone.runRecordCeded _).withCeding (hgone.runRecordCeded _).engine.attempts
  · exact hgone.withCeding hgone.engine.attempts

theorem answerTurn (h : d.Sound) (t : Tag) (b : Bool) : (d.answerTurn t b).Sound := by
  refine Device.Sound.closeTurn ?_ t
  split
  · split
    · split
      · split
        · exact h.cedeRecord ..
        · exact (h.raiseCustody _).countStranded t
      · exact h
    · exact h
  · exact h.countStranded t

theorem hearReceipt (h : d.Sound) {st : Station} (b : ReceiptBody) (hc : d.peers.state ≠ .unconfigured) (hst : st ≠ d.line.station) :
    (d.hearReceipt st b).Sound := by
  unfold Device.hearReceipt
  dsimp only
  split
  · split
    · exact h.answerTurn ..
    · exact h
  · split
    · have hchanged := h.partnerChanged b.tag b.ceder st
      have hmoves : Moves False False d (d.partnerChanged b.tag b.ceder st) := Moves.partnerChanged _ _ _ (.refl d)
      split
      · refine hchanged.transferClaim _ _ ?_ ?_
        · rw [hmoves.state_eq]
          exact hc
        · rw [hmoves.line_setting.station]
          exact hst
      · exact hchanged
    · exact h

/-! ## Double holds -/

theorem recordYields (h : d.Sound) (i : Nat) : (d.recordYields i).Sound := by
  unfold Device.recordYields
  split
  · next r hr =>
    split
    · exact h.rewrite (q := { r with state := .giver .staking, offers := 0, timer := 0, request := some .blocked }) hr
        (h.record hr).reset
    · split
      · exact h.rewrite (q := { r with state := .giver .staking, request := some .blocked }) hr (h.record hr).leaves
      · split
        · exact (h.sendCancel ..).endGiver ..
        · exact h
  · exact h

theorem heldYields (h : d.Sound) (x : Claim) : (d.heldYields x).Sound := by
  refine Device.Sound.retryReleased ?_ _
  split
  · exact (h.dropStake x).recordYields _
  · exact h.dropStake x

theorem raiseCellConflict (h : d.Sound) (i : Nat) (c : Cell) (st : Station) : (d.raiseCellConflict i c st).Sound :=
  (h.modRecord i fun _ hr => hr.addNotice (p := { kind := .cellConflict, outcome := ⟨.upset, .cellConflict⟩, station := st, values := cellBytes c })
    (show IsRecordNotice .cellConflict by decide)).moveOwed

theorem cellConflict (h : d.Sound) (x : Claim) (st : Station) : (d.cellConflict x st).Sound := by
  have hmarked := h.modOwn x.cell (f := fun y => { y with own := y.own.map fun o => { o with rival := some st } }) fun _ _ =>
    Claim.keeps_of_map (fun o => { o with rival := some st }) fun _ => id
  unfold Device.cellConflict
  split
  · split
    · exact h
    · dsimp only
      split
      · exact hmarked.raiseCellConflict ..
      · exact hmarked
  · exact h

theorem judgeStake (h : d.Sound) (st : Station) (k : StakeItem) : (d.judgeStake st k).Sound := by
  unfold Device.judgeStake
  split
  · exact h
  · split
    · split
      · exact h.contestedYields ..
      · exact h
    · exact h.contestedYields ..
    · exact h
    · exact h.heldYields _
    · exact h
    · split
      · exact h.heldYields _
      · exact h
    · exact h.cellConflict ..

end Device.Sound

/-! ## A PRESENCE's stake list (R53) -/

/-- The entries heard of a station stand on these cells. -/
def Device.HeardOn (d : Device) (st : Station) (cells : List Cell) : Prop :=
  ∀ x ∈ d.claims.entries, x.own = none → x.claimant = st → x.cell ∈ cells

section HeardOn

variable {st : Station} {cells : List Cell}

theorem removeHeard_heardOn (h : d.HeardOn st cells) (c : Cell) (st' : Station) : (d.removeHeard c st').HeardOn st cells := by
  intro y hy hown hclaimant
  rw [removeHeard_entries] at hy
  obtain ⟨x, hx, rfl⟩ := List.mem_map.mp hy
  have hx := (List.mem_filter.mp hx).1
  split at hown
  · next hc =>
    simp only [Bool.and_eq_true, Option.isSome_iff_exists] at hc
    obtain ⟨⟨o, ho⟩, -⟩ := hc
    simp [ho] at hown
  · next hc =>
    rw [if_neg hc] at hclaimant ⊢
    exact h x hx hown hclaimant

theorem makeRoom_heardOn (h : d.HeardOn st cells) (s : Option Station) : (d.makeRoom s).1.HeardOn st cells := by
  unfold Device.makeRoom
  split
  · exact h
  · by_cases hne : d.evictable s = []
    · unfold Device.evict
      rw [hne]
      exact h
    · obtain ⟨x, -, -, -, he, -⟩ := evict_cases d hne
      unfold Device.HeardOn
      rw [he]
      exact removeHeard_heardOn h x.cell x.claimant

theorem writeHeard_heardOn (h : d.HeardOn st cells) (hc : c ∈ cells) (st' : Station) (t : Tag) (k : Nat) (p : Phase) :
    (d.writeHeard c st' t k p).HeardOn st cells := by
  have hwritten : (d.withEntries (insertClaim
      { cell := c, claimant := st', tag := t, key := k, phase := p, age := 0, own := none } d.claims.entries)).HeardOn st cells := by
    intro y hy hown hclaimant
    rcases mem_insertClaim hy with rfl | hy
    · exact hc
    · exact h y hy hown hclaimant
  unfold Device.writeHeard
  split
  · exact hwritten
  · intro y hy hown hclaimant
    obtain ⟨x, hx, rfl⟩ := List.mem_map.mp hy
    split at hown
    · next hi =>
      simp only [Bool.and_eq_true, Option.isSome_iff_exists] at hi
      obtain ⟨⟨o, ho⟩, -⟩ := hi
      simp [ho] at hown
    · next hi =>
      rw [if_neg hi] at hclaimant ⊢
      exact hwritten x hx hown hclaimant

theorem recordHeard_heardOn (h : d.HeardOn st cells) (hc : c ∈ cells) (s : Option Station) (st' : Station) (t : Tag) (k : Nat) (p : Phase) :
    (d.recordHeard s c st' t k p).1.HeardOn st cells := by
  unfold Device.recordHeard
  split
  · exact writeHeard_heardOn h hc _ _ _ _
  · exact writeHeard_heardOn (makeRoom_heardOn h s) hc _ _ _ _

theorem watchHits_heardOn (h : d.HeardOn st cells) (c : Cell) (st' : Station) : (d.watchHits c st').HeardOn st cells := by
  rw [watchHits_link]
  exact h

/-- R49, R53: a station has one entry at most on a cell, so no more of them than cells. -/
theorem Device.HeardOn.count (h : d.HeardOn st cells)
    (hordered : d.claims.entries.Pairwise fun x y => claimRank x.cell x.claimant < claimRank y.cell y.claimant) :
    d.claims.entries.countP (fun x => x.own.isNone && some x.claimant == some st) ≤ cells.length := by
  have hmem {x : Claim} (hx : x ∈ d.claims.entries.filter fun x => x.own.isNone && some x.claimant == some st) :
      x.claimant = st ∧ x.cell ∈ cells := by
    obtain ⟨hx, hp⟩ := List.mem_filter.mp hx
    simp only [Bool.and_eq_true, Option.isNone_iff_eq_none, beq_iff_eq, Option.some.injEq] at hp
    exact ⟨hp.2, h x hx hp.1 hp.2⟩
  have hnodup : ((d.claims.entries.filter fun x => x.own.isNone && some x.claimant == some st).map (·.cell)).Nodup := by
    refine List.pairwise_map.mpr (List.Pairwise.imp_of_mem (fun {x y} hx hy hlt hcell => ?_) (hordered.filter _))
    rw [hcell, (hmem hx).1, (hmem hy).1] at hlt
    omega
  have hsub : (d.claims.entries.filter fun x => x.own.isNone && some x.claimant == some st).map (·.cell) ⊆ cells := by
    intro c hc
    obtain ⟨x, hx, rfl⟩ := List.mem_map.mp hc
    exact (hmem hx).2
  have hle := (hnodup.subperm hsub).length_le
  rwa [List.length_map, ← List.countP_eq_length_filter] at hle

end HeardOn

namespace Device.Sound

/-- What the writing of a stake list goes on: a sound part, configured, in which the writer's entries stand on its listed cells. -/
structure Listing (d e : Device) (st : Station) (cells : List Cell) : Prop where
  sound : e.Sound
  moves : Moves False False d e
  heardOn : e.HeardOn st cells

theorem writeListed {e : Device} {st : Station} {cells gone : List Cell} {k : StakeItem} (h : Listing d e st cells)
    (hc : d.peers.state ≠ .unconfigured) (hst : st ≠ d.line.station) (hk : k.cell ∈ cells) (hlen : cells.length ≤ 4) :
    Listing d (writeListed st (e, gone) k).1 st cells := by
  have hconf : e.peers.state ≠ .unconfigured := by
    rw [h.moves.state_eq]
    exact hc
  have hother : st ≠ e.line.station := by
    rw [h.moves.line_setting.station]
    exact hst
  have hsound := h.sound.recordHeard (c := k.cell) (s := some st) k.tag k.key.toNat (phaseOfByte k.phase) hconf hother
    ((h.heardOn.count h.sound.claims.ordered).trans hlen)
  have hmoves := Moves.recordHeard (some st) k.cell st k.tag k.key.toNat (phaseOfByte k.phase) h.moves
  have hon := recordHeard_heardOn h.heardOn hk (some st) st k.tag k.key.toNat (phaseOfByte k.phase)
  unfold Machine.writeListed
  dsimp only
  split
  · exact ⟨hsound.watchHits .., hmoves.watchHits .., watchHits_heardOn hon _ _⟩
  · exact ⟨hsound, hmoves, hon⟩

theorem hearStakes (h : d.Sound) {st : Station} {items : List StakeItem} (hlen : items.length ≤ 4) (hc : d.peers.state ≠ .unconfigured)
    (hst : st ≠ d.line.station) : (d.hearStakes st items).Sound := by
  have hwritten (l : List StakeItem) (hl : ∀ k ∈ l, k.cell ∈ items.map (·.cell)) (m : Device × List Cell)
      (hm : Listing d m.1 st (items.map (·.cell))) : Listing d (l.foldl (Machine.writeListed st) m).1 st (items.map (·.cell)) := by
    induction l generalizing m with
    | nil => exact hm
    | cons k l ih =>
      exact ih (fun k hk => hl k (List.mem_cons_of_mem _ hk)) _
        (writeListed (gone := m.2) hm hc hst (hl k List.mem_cons_self) (by simpa using hlen))
  have hstart : Listing d (d.removeHeardAll fun x => x.claimant == st && items.all fun i => i.cell != x.cell).1 st (items.map (·.cell)) := by
    refine ⟨h.removeHeardAll _, Moves.removeHeardAll _ (.refl d), fun y hy hown hclaimant => ?_⟩
    obtain ⟨x, -, hxy, -, hgone⟩ := mem_removeHeardAll hy
    have hxown : x.own = none := by
      have := hxy.own
      rw [hown] at this
      simpa using this.symm
    have := hgone hxown
    rw [← hxy.claimant, hclaimant, ← hxy.cell] at this
    simp only [beq_self_eq_true, Bool.true_and, List.all_eq_false, bne_iff_ne, ne_eq, not_not] at this
    obtain ⟨k, hk, hcell⟩ := this
    exact List.mem_map.mpr ⟨k, hk, hcell⟩
  refine Device.Sound.retryWaiting (foldl (fun _ k he => he.judgeStake st k) ?_ _) _
  exact (hwritten items (fun k hk => List.mem_map_of_mem hk) _ hstart).sound

/-! ## The roster -/

/-- Each entry of the roster changes in place. -/
theorem modEntry (h : d.Sound) (st : Station) {f : RosterEntry → RosterEntry} (hf : ∀ x, (f x).station = x.station)
    (ha : ∀ x ∈ d.peers.roster, x.station = st →
      (f x).age ≤ 255 ∧ (f x).link = if (f x).age < 4 then .heard else if (f x).age < 16 then .quiet else .lost) :
    (d.modEntry st f).Sound := by
  have hstation (x : RosterEntry) : (if x.station == st then f x else x).station = x.station := by
    split
    · exact hf x
    · rfl
  refine h.withPeers ⟨?_, ?_, ?_, ?_, h.peers.joinTimer, h.peers.silenceTimer⟩ fun hu => ⟨?_, (h.blank hu).2⟩
  · exact (List.length_map ..).trans_le h.peers.size
  · refine List.pairwise_map.mpr (h.peers.ordered.imp fun {x y} hxy => ?_)
    rw [hstation, hstation]
    exact hxy
  · intro y hy
    obtain ⟨x, hx, rfl⟩ := List.mem_map.mp hy
    rw [hstation]
    exact h.peers.others x hx
  · intro y hy
    obtain ⟨x, hx, rfl⟩ := List.mem_map.mp hy
    split
    · next hs => exact ha x hx (beq_iff_eq.mp hs)
    · exact h.peers.ages x hx
  · show d.peers.roster.map _ = []
    rw [(h.blank hu).1]
    rfl

theorem peerChange (h : d.Sound) : d.peerChange.Sound := h.withFlags _

theorem peerState (h : d.Sound) (b : Byte) (st : Station) : (d.peerState b st).Sound := h.pushNotice _

theorem stationLost (h : d.Sound) (st : Station) : (d.stationLost st).Sound := by
  have hlost := (h.peerChange.claimantLost st).partnerLost st
  unfold Device.stationLost
  dsimp only
  split
  · exact hlost
  · exact hlost.peerState ..

theorem filterRoster (h : d.Sound) (p : RosterEntry → Bool) : (d.withRoster (d.peers.roster.filter p)).Sound := by
  have hsub : (d.peers.roster.filter p).Sublist d.peers.roster := List.filter_sublist
  refine h.withPeers ⟨hsub.length_le.trans h.peers.size, h.peers.ordered.sublist hsub, fun y hy => h.peers.others y (hsub.subset hy),
    fun y hy => h.peers.ages y (hsub.subset hy), h.peers.joinTimer, h.peers.silenceTimer⟩ fun hu => ⟨?_, (h.blank hu).2⟩
  show d.peers.roster.filter p = []
  rw [(h.blank hu).1]
  rfl

theorem dropEntry (h : d.Sound) : d.dropEntry.Sound := by
  unfold Device.dropEntry
  split
  · dsimp only
    split
    · exact h.filterRoster _
    · exact (h.stationLost _).filterRoster _
  · exact h

/-- A new station joins a roster with room. -/
theorem newStation (h : d.Sound) {st : Station} (hst : st ≠ d.line.station) (hc : d.peers.state ≠ .unconfigured)
    (hroom : d.peers.roster.length < Config.rosterSize) (hnew : ∀ x ∈ d.peers.roster, x.station ≠ st) :
    (d.withRoster (insertEntry (newEntry st) d.peers.roster)).Sound := by
  refine h.withPeers ⟨?_, insertEntry_ordered h.peers.ordered hnew, fun y hy => ?_, fun y hy => ?_, h.peers.joinTimer, h.peers.silenceTimer⟩
    fun hu => absurd hu hc
  · exact (insertEntry_length ..).trans_le hroom
  · rcases mem_insertEntry.mp hy with rfl | hy
    · exact hst
    · exact h.peers.others y hy
  · rcases mem_insertEntry.mp hy with rfl | hy
    · exact ⟨Nat.zero_le _, rfl⟩
    · exact h.peers.ages y hy

end Device.Sound

theorem dropEntry_subset {x : RosterEntry} (hx : x ∈ d.dropEntry.peers.roster) : x ∈ d.peers.roster := by
  unfold Device.dropEntry at hx
  split at hx
  · next y _ =>
    have hlost : (d.stationLost y.station).peers.roster = d.peers.roster :=
      (Moves.stationLost (P := False) (S := False) y.station (.refl d)).roster_eq id
    dsimp only at hx
    have hx := List.mem_of_mem_filter hx
    split at hx
    · exact hx
    · rwa [hlost] at hx
  · exact hx

namespace Device.Sound

/-- R42, R46: a hearing of another station. -/
theorem hear (h : d.Sound) {st : Station} (hst : st ≠ d.line.station) (hc : d.peers.state ≠ .unconfigured) : (d.hear st).Sound := by
  cases hx : d.rosterEntry st with
  | some x =>
    rw [hear_of_known hx]
    exact h.modEntry st (fun _ => rfl) fun _ _ _ => ⟨Nat.zero_le _, rfl⟩
  | none =>
    have hnew := rosterEntry_eq_none.mp hx
    by_cases hroom : d.peers.roster.length < Config.rosterSize
    · rw [hear_of_new hx hroom]
      exact (h.newStation hst hc hroom hnew).peerChange
    · have hne : d.peers.roster ≠ [] := fun hn => by simp [hn, Config.rosterSize] at hroom
      have hmoves : Moves True False d d.dropEntry := Moves.dropEntry trivial (.refl d)
      have hheard : d.hear st = (d.dropEntry.withRoster (insertEntry (newEntry st) d.dropEntry.peers.roster)).peerChange := by
        simp only [Device.hear, hx, hroom, if_false]
      rw [hheard]
      refine (h.dropEntry.newStation ?_ ?_ ((dropEntry_length hne).trans_le h.peers.size) fun x hx => hnew x (dropEntry_subset hx)).peerChange
      · rw [hmoves.line_setting.station]
        exact hst
      · rw [hmoves.state_eq]
        exact hc

theorem announcedChange (h : d.Sound) (st : Station) (old : Option StationState) (new : StationState) :
    (d.announcedChange st old new).Sound := by
  unfold Device.announcedChange
  dsimp only
  split
  · exact h
  · split
    · split
      · exact h.peerChange.partnerLapsed st
      · exact h.peerChange.peerState ..
    · split
      · exact h.peerChange
      · exact h

theorem hearAnnounced (h : d.Sound) (st : Station) (b : PresenceBody) : (d.hearAnnounced st b).Sound := by
  have hwritten := h.modEntry st (f := fun e => { e with
    announced := some (StationState.ofByte b.state), position := some b.position, hoistBin := some b.hoistBin }) (fun _ => rfl)
    fun x hx _ => h.peers.ages x hx
  unfold Device.hearAnnounced
  split
  · exact hwritten.announcedChange ..
  · exact h

theorem hearPresence (h : d.Sound) {st : Station} {b : PresenceBody} (k : Bool) (hlen : b.stakes.length ≤ 4) (hst : st ≠ d.line.station)
    (hc : d.peers.state ≠ .unconfigured) : (d.hearPresence st b k).Sound := by
  have hheard := (h.hear hst hc).hearAnnounced st b
  have hmoves : Moves True False d ((d.hear st).hearAnnounced st b) := Moves.hearAnnounced trivial st b (Moves.hear trivial st (.refl d))
  have hkept {e : Device} (he : Moves True False d e) : e.peers.state ≠ .unconfigured ∧ st ≠ e.line.station := by
    rw [he.state_eq, he.line_setting.station]
    exact ⟨hc, hst⟩
  unfold Device.hearPresence
  dsimp only
  split
  · obtain ⟨hconf, hother⟩ := hkept (Moves.inferLift b.hoistBin hmoves)
    exact (hheard.inferLift _).hearStakes hlen hconf hother
  · obtain ⟨hconf, hother⟩ := hkept hmoves
    exact (hheard.hearStakes hlen hconf hother).inferLift _

/-- R43: the age of an entry saturates, and its link state is that of its age. -/
theorem ageEntry (h : d.Sound) (st : Station) : (d.ageEntry st).Sound := by
  unfold Device.ageEntry
  split
  · next x _ =>
    have haged := h.modEntry st (f := fun e => { e with
      age := min Config.silenceMax (x.age + 1), link := linkOfAge (min Config.silenceMax (x.age + 1)) }) (fun _ => rfl)
      fun _ _ _ => ⟨Nat.min_le_left .., rfl⟩
    dsimp only
    split
    · exact haged.peerChange
    · split
      · exact haged.stationLost st
      · exact haged
  · exact h

theorem rosterAges (h : d.Sound) (order : List Station) : (d.rosterAges order).Sound := foldl (fun _ st he => he.ageEntry st) h _

theorem offerPresence (h : d.Sound) : d.offerPresence.Sound := by
  unfold Device.offerPresence
  split
  · exact h.sendAbsorbed ..
  · exact h

theorem peerRosterBeacon (h : d.Sound) (order : List Station) : (d.peerRosterBeacon order).Sound :=
  (((h.joinTick order).silenceTick).rosterAges order).offerPresence

end Device.Sound

end Sys2Proof.Machine
end

section
/-! PROOF. Every command keeps a sound part sound: medium access, the endings of frames, and frames received. -/

namespace Sys2Proof.Machine

set_option Elab.async false

variable {d : Device} {l : LinePort}

/-! ## The Line Port -/

theorem LinePort.nextGenerator_lt (l : LinePort) : l.nextGenerator < 65536 := by
  unfold LinePort.nextGenerator
  omega

namespace LinePort.Sound

/-- A port that sends or waits to is in NORMAL and has a frame queued. -/
theorem busy_of (h : l.Sound) (hoff : l.tx ≠ .off) (hidle : l.tx ≠ .idle) : l.mode ≠ .mute ∧ l.queue ≠ [] :=
  ⟨fun hm => hoff (h.mute hm), fun hq => (h.resting.mp hq).elim hoff hidle⟩

/-- Medium access moves on: what is queued and remembered stays. -/
theorem access (h : l.Sound) {m : LinePort} (hqueue : m.queue = l.queue) (hmode : m.mode = l.mode) (hwindow : m.window = l.window)
    (hrecent : m.recent = l.recent) (hrest : (m.tx = .off ∨ m.tx = .idle) ↔ (l.tx = .off ∨ l.tx = .idle))
    (hmute : l.mode = .mute → m.tx = .off) (hgenerator : m.generator < 65536) (hremaining : ∀ r, m.remaining = some r → r < 64) :
    m.Sound := by
  refine ⟨?_, ?_, ?_, ?_, ?_, ?_, ?_, hgenerator, hremaining, ?_, ?_⟩
  · exact hqueue ▸ h.queued
  · exact hqueue ▸ h.presences
  · exact hqueue ▸ h.relayed
  · exact hqueue ▸ h.collisions
  · rw [hqueue, hrest]
    exact h.resting
  · exact fun hm => hmute (hmode ▸ hm)
  · exact hwindow ▸ h.window
  · exact hrecent ▸ h.recent
  · exact hrecent ▸ h.recentAges

theorem busy (h : l.Sound) : l.busy.Sound := by
  unfold LinePort.busy
  dsimp only
  split
  · next ht =>
    exact h.access (m := { l with carrier := true, tx := .quietWait }) rfl rfl rfl rfl (by simp [ht])
      (fun hm => absurd hm (h.busy_of (by simp [ht]) (by simp [ht])).1) h.generator h.remaining
  · exact h.access (m := { l with carrier := true }) rfl rfl rfl rfl .rfl h.mute h.generator h.remaining

/-- R9: a waiting port counts down, or goes on the wire. -/
theorem deferWith (h : l.Sound) (hoff : l.tx ≠ .off) (hidle : l.tx ≠ .idle) {r : Nat} (hr : r < 64) : (l.deferWith r).Sound := by
  have hmute : l.mode ≠ .mute := (h.busy_of hoff hidle).1
  unfold LinePort.deferWith
  split
  · exact h.access (m := { l with tx := .send, remaining := none, carrier := true }) rfl rfl rfl rfl (by simp [hoff, hidle])
      (fun hm => absurd hm hmute) h.generator (by rintro _ ⟨⟩)
  · exact h.access (m := { l with tx := .defer, remaining := some r }) rfl rfl rfl rfl (by simp [hoff, hidle])
      (fun hm => absurd hm hmute) h.generator (by rintro _ ⟨⟩; exact hr)

/-- R10: a draw stays below the window. -/
theorem drawn_lt (h : l.Sound) : l.drawn < 64 := by
  have hgen := l.nextGenerator_lt
  have hwindow : l.window ≤ 64 := by
    rcases h.window with hw | hw | hw | hw <;> omega
  have hle : l.nextGenerator * l.window ≤ l.nextGenerator * 64 := Nat.mul_le_mul_left _ hwindow
  unfold LinePort.drawn
  generalize l.nextGenerator * l.window = p at hle ⊢
  omega

theorem withCarrier (h : l.Sound) (b : Bool) : ({ l with carrier := b } : LinePort).Sound :=
  h.access rfl rfl rfl rfl .rfl h.mute h.generator h.remaining

theorem withGenerator (h : l.Sound) {n : Nat} (hn : n < 65536) : ({ l with generator := n } : LinePort).Sound :=
  ⟨h.queued, h.presences, h.relayed, h.collisions, h.resting, h.mute, h.window, hn, h.remaining, h.recent, h.recentAges⟩

theorem quietGap (h : l.Sound) : l.quietGap.Sound := by
  have hquiet := h.withCarrier false
  unfold LinePort.quietGap
  dsimp only
  split
  · next ht =>
    split
    · have hgen := l.nextGenerator_lt
      have hdrawn := hquiet.withGenerator hgen
      exact hdrawn.deferWith (by simp [ht]) (by simp [ht]) hquiet.drawn_lt
    · next r hr => exact hquiet.deferWith (by simp [ht]) (by simp [ht]) (h.remaining r hr)
  · exact hquiet

theorem slot (h : l.Sound) : l.slot.Sound := by
  have hquiet := h.withCarrier (if l.tx = .send then l.carrier else false)
  unfold LinePort.slot
  dsimp only
  split
  · next ht =>
    split
    · next r hr =>
      have hr := h.remaining r hr
      exact hquiet.deferWith (by simp [ht]) (by simp [ht]) (by omega)
    · exact hquiet
  · exact hquiet

theorem deferEnd (h : l.Sound) : l.deferEnd.Sound := by
  unfold LinePort.deferEnd
  split
  · next ht => exact h.deferWith (by simp [ht.1]) (by simp [ht.1]) (by decide)
  · exact h

/-! ### The recent-frame list (R18) -/

theorem withRecent (h : l.Sound) {ps : List RecentPair} (hlen : ps.length ≤ Config.recentSize) (hage : ∀ p ∈ ps, p.age < Config.recentAge) :
    ({ l with recent := ps } : LinePort).Sound :=
  ⟨h.queued, h.presences, h.relayed, h.collisions, h.resting, h.mute, h.window, h.generator, h.remaining, hlen, hage⟩

theorem recentAdd (h : l.Sound) (st : Station) (n : Byte) : (l.recentAdd st n).Sound := by
  have hkept : (if l.recent.length < Config.recentSize then l.recent else l.recent.tail).length + 1 ≤ Config.recentSize ∧
      ∀ p ∈ (if l.recent.length < Config.recentSize then l.recent else l.recent.tail), p.age < Config.recentAge := by
    split
    · next hlt => exact ⟨hlt, h.recentAges⟩
    · next hfull =>
      have : l.recent.length ≤ 32 := h.recent
      have : ¬l.recent.length < 32 := hfull
      refine ⟨?_, fun p hp => h.recentAges p (List.mem_of_mem_tail hp)⟩
      rw [List.length_tail]
      show _ ≤ 32
      omega
  refine h.withRecent (by simpa using hkept.1) fun p hp => ?_
  rcases List.mem_append.mp hp with hp | hp
  · exact hkept.2 p hp
  · rw [List.mem_singleton.mp hp]
    show 0 < 4
    decide

theorem recentAges' (h : l.Sound) : l.recentAges.Sound :=
  h.withRecent ((List.length_filter_le ..).trans (by simpa using h.recent)) fun p hp => by simpa using (List.mem_filter.mp hp).2

theorem recentExpire (h : l.Sound) (st : Station) (n : Byte) : (l.recentExpire st n).Sound :=
  h.withRecent ((List.length_filter_le ..).trans h.recent) fun p hp => h.recentAges p (List.mem_of_mem_filter hp)

/-! ### The queue -/

/-- R4: a stopped port with an empty queue, in either mode. -/
theorem emptied (h : l.Sound) {m : LinePort} (hqueue : m.queue = []) (htx : m.tx = .off) (hwindow : m.window = l.window)
    (hgenerator : m.generator < 65536) (hremaining : m.remaining = none) (hlen : m.recent.length ≤ Config.recentSize)
    (hage : ∀ p ∈ m.recent, p.age < Config.recentAge) : m.Sound := by
  refine ⟨?_, ?_, ?_, ?_, ?_, fun _ => htx, hwindow ▸ h.window, hgenerator, ?_, hlen, hage⟩
  · rw [hqueue]; exact Nat.zero_le _
  · rw [hqueue]; exact Nat.zero_le _
  · rw [hqueue]; exact Nat.zero_le _
  · rw [hqueue]; exact fun _ hx => nomatch hx
  · simp [hqueue, htx]
  · rw [hremaining]; rintro _ ⟨⟩

/-- R11, R12: the head of a port that sends leaves the queue; W changes. -/
theorem popHead (h : l.Sound) (ht : l.tx = .send) {w : Nat} (hw : w = 8 ∨ w = 16 ∨ w = 32 ∨ w = 64) (b : Bool) :
    ({ l.popHead with window := w, carrier := b } : LinePort).Sound := by
  have hmute : l.mode ≠ .mute := (h.busy_of (by simp [ht]) (by simp [ht])).1
  have hsub : l.queue.tail.Sublist l.queue := List.tail_sublist _
  refine ⟨hsub.length_le.trans h.queued, hsub.countP_le.trans h.presences, hsub.countP_le.trans h.relayed,
    fun x hx => h.collisions x (hsub.subset hx), ?_, fun hm => absurd hm hmute, hw, h.generator, by rintro _ ⟨⟩, h.recent, h.recentAges⟩
  show l.queue.tail = [] ↔ (if l.queue.tail.isEmpty then TxState.idle else .quietWait) = .off ∨ (if l.queue.tail.isEmpty then TxState.idle else .quietWait) = .idle
  cases l.queue.tail <;> simp

/-- R12: the head stays for another attempt. -/
theorem again (h : l.Sound) (ht : l.tx = .send) {x : TxEntry} {rest : List TxEntry} (hq : l.queue = x :: rest) {n w : Nat}
    (hn : n < Config.maxCollisions) (hw : w = 8 ∨ w = 16 ∨ w = 32 ∨ w = 64) :
    ({ l with window := w, queue := { x with collisions := n } :: rest, tx := .quietWait, remaining := none } : LinePort).Sound := by
  have hmute : l.mode ≠ .mute := (h.busy_of (by simp [ht]) (by simp [ht])).1
  obtain ⟨hqueued, hpresences, hrelayed, hcollisions, -, -, -, hgen, -, hrecent, hages⟩ := h
  rw [hq] at hqueued hpresences hrelayed hcollisions
  refine ⟨hqueued, ?_, ?_, fun y hy => ?_, by simp, fun hm => absurd hm hmute, hw, hgen, by rintro _ ⟨⟩, hrecent, hages⟩
  · rw [List.countP_cons] at hpresences ⊢
    exact hpresences
  · rw [List.countP_cons] at hrelayed ⊢
    exact hrelayed
  · rcases List.mem_cons.mp hy with rfl | hy
    · exact hn
    · exact hcollisions y (List.mem_cons_of_mem _ hy)

/-- R12: W doubles up to 64. -/
theorem doubled (h : l.Sound) : min Config.windowMax (2 * l.window) = 8 ∨ min Config.windowMax (2 * l.window) = 16 ∨
    min Config.windowMax (2 * l.window) = 32 ∨ min Config.windowMax (2 * l.window) = 64 := by
  rcases h.window with hw | hw | hw | hw <;> rw [hw] <;> decide

theorem offerRelay (h : l.Sound) (hm : l.mode = .normal) (f : Frame) : (l.offerRelay f).Sound := by
  unfold LinePort.offerRelay
  split
  · next hc =>
    obtain ⟨hlt, hpresence⟩ := hc
    have hlt : l.queue.length < 6 := hlt
    refine append_sound h hm _ _ (show l.queue.length < 8 by omega) (fun hb => presenceAt_none (hpresence hb)) fun _ => ?_
    exact List.countP_le_length.trans_lt hlt
  · exact h

end LinePort.Sound

namespace Device.Sound

theorem access (h : d.Sound) {l : LinePort} (hl : l.Sound) (hst : l.station = d.line.station := by rfl) : (d.withLine l).Sound :=
  h.withLine hl hst

/-! ## How frames end (R14) -/

theorem stakeEnded (h : d.Sound) (n : Byte) (e : Ending) : (d.stakeEnded n e).Sound := by
  unfold Device.stakeEnded
  split
  · split
    · exact h.stakeSent _
    · exact h.stakeDropped ..
    · exact h
  · exact h

theorem modRecord_at (h : d.Sound) (i : Nat) {f : Record → Record} (hf : ∀ r, d.recordAt i = some r → (f r).Sound)
    (ht : ∀ r, (f r).tag = r.tag := by intro _; rfl) : (d.modRecord i f).Sound := by
  unfold Device.modRecord
  split
  · next r hr => exact h.rewrite hr (hf r hr) (ht r)
  · exact h

theorem slotWhen_spec {t : Tag} {p : Record → Bool} {i : Nat} (hs : d.slotWhen t p = some i) : d.recordIs i p = true := by
  unfold Device.slotWhen at hs
  split at hs
  · split at hs
    · next hp =>
      rw [← Option.some.inj hs]
      exact hp
    · cases hs
  · cases hs

theorem agreeEnded (h : d.Sound) (t : Tag) (n : Byte) (e : Ending) : (d.agreeEnded t n e).Sound := by
  unfold Device.agreeEnded
  split
  · next i hi =>
    split
    · refine h.modRecord_at i (f := fun r => { r with timer := 0, agreeFrame := none }) fun r hr => ?_
      have hs := slotWhen_spec hi
      rw [recordIs_of_record hr] at hs
      simp only [Bool.and_eq_true, beq_iff_eq] at hs
      obtain ⟨-, ho, -, -, hn⟩ := h.record hr
      exact ⟨Nat.zero_le 6, ho, fun hg => by simp [hs.1] at hg, fun _ => Nat.zero_le 3, hn⟩
    · exact h.agreeDropped ..
  · exact h

theorem bindEnded (h : d.Sound) (t : Tag) (n : Byte) (e : Ending) : (d.bindEnded t n e).Sound := by
  unfold Device.bindEnded
  split
  · split
    · exact h.modRecord _ (f := fun r => { r with bindFrame := none }) fun _ => id
    · exact h.bindDropped _
  · exact h

theorem setdownEnded (h : d.Sound) (t : Tag) (n : Byte) (e : Ending) : (d.setdownEnded t n e).Sound := by
  unfold Device.setdownEnded
  split
  · split
    · exact h.modRecord _ (f := fun r => { r with setdownFrame := none }) fun _ => id
    · exact h.setdownDropped _
  · exact h

theorem liftedEnded (h : d.Sound) (t : Tag) (n : Byte) (e : Ending) : (d.liftedEnded t n e).Sound := by
  unfold Device.liftedEnded
  split
  · split
    · exact h.liftedSent _
    · exact h.liftedDropped _
  · exact h

theorem adoptEnded (h : d.Sound) (n : Byte) (e : Ending) : (d.adoptEnded n e).Sound := by
  unfold Device.adoptEnded
  split
  · split
    · exact h.adoptSent
    · exact h.adoptDropped _
  · exact h

theorem cedeEnded (h : d.Sound) (n : Byte) : (d.cedeEnded n).Sound := by
  unfold Device.cedeEnded
  split
  · exact h.emptyCedeEnded
  · exact h

theorem report (h : d.Sound) (e : Ending) (x : TxEntry) : (d.report e x).Sound := by
  unfold Device.report
  dsimp only
  split
  · exact h
  · split
    · exact h
    · exact h.stakeEnded ..
    · exact h
    · exact h
    · exact h.agreeEnded ..
    · exact h
    · exact h.bindEnded ..
    · exact h.setdownEnded ..
    · exact h.liftedEnded ..
    · exact h
    · exact h.adoptEnded ..
    · exact h.cedeEnded _
    · exact h

/-! ## Flush and line mode (R3, R4) -/

/-- R4: a flush of a port whose mode has just changed, though its transmitter still runs. -/
theorem flush_of (h : (d.withLine d.line.flushed).Sound) : d.flush.Sound := by
  rw [flush_eq]
  exact foldl (fun _ x he => he.report _ x) h _

theorem setMode (h : d.Sound) (m : LineMode) (b : Bool) : (d.setMode m b).Sound := by
  unfold Device.setMode
  dsimp only
  split
  · refine flush_of (h.access (h.line.emptied (m := { d.line with requested := m, forcedMute := b }.flushed) rfl rfl rfl
      h.line.generator rfl h.line.recent h.line.recentAges))
  · next hold hnew =>
    have hq : d.line.queue = [] := h.line.mute_queue hold
    refine h.access (l := { d.line with requested := m, forcedMute := b, tx := .idle }) ⟨h.line.queued, h.line.presences,
      h.line.relayed, h.line.collisions, by simp [hq], fun hm => ?_, h.line.window, h.line.generator, h.line.remaining, h.line.recent,
      h.line.recentAges⟩
    have hnormal : ({ d.line with requested := m, forcedMute := b } : LinePort).mode = .normal := hnew
    rw [show ({ d.line with requested := m, forcedMute := b, tx := .idle } : LinePort).mode = .normal from hnormal] at hm
    cases hm
  · next hne hne' =>
    have hmode : ({ d.line with requested := m, forcedMute := b } : LinePort).mode = d.line.mode := by
      cases hold : d.line.mode <;> cases hnew : ({ d.line with requested := m, forcedMute := b } : LinePort).mode
      · rfl
      · exact (hne hold hnew).elim
      · exact (hne' hold hnew).elim
      · rfl
    exact h.access (h.line.access rfl hmode rfl rfl .rfl h.line.mute h.line.generator h.line.remaining)

/-! ## The end of a transmission (R11, R12) -/

theorem cleanSend (h : d.Sound) : d.cleanSend.Sound := by
  unfold Device.cleanSend
  split
  · next ht =>
    split
    · exact Device.Sound.report (h.access (h.line.popHead ht (.inl rfl) false)) ..
    · exact h
  · exact h

theorem collision (h : d.Sound) : d.collision.Sound := by
  unfold Device.collision
  split
  · next ht =>
    split
    · next hq =>
      dsimp only
      split
      · next hn => exact h.access (h.line.again ht hq hn h.line.doubled)
      · exact Device.Sound.report (h.access (h.line.popHead ht h.line.doubled d.line.carrier)) ..
    · exact h
  · exact h

/-! ## Frames received -/

theorem dispatch (h : d.Sound) {st : Station} {b : Body} (k : Bool) (hb : bodyValid st b = true) (hst : st ≠ d.line.station)
    (hc : d.peers.state ≠ .unconfigured) : (d.dispatch st b k).Sound := by
  cases b with
  | presence b =>
    simp only [bodyValid, Bool.and_eq_true, decide_eq_true_eq] at hb
    exact h.hearPresence k hb.1.1.2 hst hc
  | stake b => exact h.hearStake b hc hst
  | unstake b => exact h.hearUnstake st b
  | offer b => exact h.hearOffer st b
  | agree b => exact h.hearAgree st b
  | decline b => exact h.hearDecline st b
  | bind b => exact h.hearBind st b
  | setdown b => exact h.hearSetdown st b
  | lifted b => exact h.hearLifted st b
  | cancel b => exact h.hearCancel st b
  | adopt b => exact h.hearAdopt st b
  | cede b => exact h.hearCede st b hc
  | receipt b => exact h.hearReceipt b hc hst

theorem takeBody (h : d.Sound) (st : Station) (b : Body) (k : Bool) : (d.takeBody st b k).Sound := by
  unfold Device.takeBody
  split
  · next hc =>
    simp only [Bool.and_eq_true, bne_iff_ne, ne_eq] at hc
    obtain ⟨⟨⟨⟨-, hconf⟩, -⟩, hst⟩, hb⟩ := hc
    exact h.dispatch k hb hst (by simpa [Device.configured] using hconf)
  · exact h

theorem clash (h : d.Sound) : d.clash.Sound := by
  unfold Device.clash
  dsimp only
  split
  · exact h.withFlags _
  · exact ((h.withFlags _).pushNotice _).setMode ..

theorem relayCopy (h : d.Sound) (f : Frame) : (d.relayCopy f).Sound := by
  unfold Device.relayCopy
  split
  · next hc =>
    have hm : d.line.mode = .normal := by
      simp only [Bool.and_eq_true, Device.muted, Bool.not_eq_true', beq_eq_false_iff_ne] at hc
      cases hmode : d.line.mode with
      | normal => rfl
      | mute => exact absurd hmode hc.2
    refine h.access (h.line.offerRelay hm f) ?_
    unfold LinePort.offerRelay
    split
    · exact (append_setting ..).station
    · rfl
  · exact h

end Device.Sound

end Sys2Proof.Machine
end

section
/-! PROOF. Every command keeps a sound part sound: frames received, the requests, the power commands and the step. -/

namespace Sys2Proof.Machine

set_option Elab.async false

variable {d : Device} {s : State} {i : Nat} {r : Record}

/-! ## A station stays configured -/

theorem openEmpty_configured (hc : d.peers.state ≠ .unconfigured) : d.openEmpty.peers.state ≠ .unconfigured := by
  unfold Device.openEmpty
  dsimp only
  split
  · exact hc
  · rcases endCeding_state (d := Prod.fst (Device.offer _ _ _)) with h | h <;> rw [h] <;> simp

theorem openNext_configured (l : List Tag) (b : Bool) (hc : d.peers.state ≠ .unconfigured) :
    (Device.openNext l b d).peers.state ≠ .unconfigured := by
  induction l generalizing d b with
  | nil =>
    unfold Device.openNext
    split
    · exact openEmpty_configured hc
    · rcases endCeding_state d with h | h <;> rw [h] <;> simp
  | cons t l ih =>
    have hopen : Moves False False d (d.openTurn t) := Moves.openTurn t (.refl d)
    have hcount : Moves False False d (d.countStranded t) := Moves.countStranded t (.refl d)
    unfold Device.openNext
    split
    · rw [hopen.state_eq]
      exact hc
    · exact ih true (hcount.state_eq ▸ hc)

theorem closeTurn_configured (t : Tag) (hc : d.peers.state ≠ .unconfigured) : (d.closeTurn t).peers.state ≠ .unconfigured := by
  unfold Device.closeTurn
  split
  · rcases endCeding_state d with h | h <;> rw [h] <;> simp
  · exact openNext_configured _ _ hc

theorem answerTurn_configured (t : Tag) (b : Bool) (hc : d.peers.state ≠ .unconfigured) : (d.answerTurn t b).peers.state ≠ .unconfigured := by
  have hrefl : Moves False False d d := .refl d
  unfold Device.answerTurn
  refine closeTurn_configured t fun hu => hc (Eq.trans (Eq.symm ?_) hu)
  split
  · split
    · split
      · split
        · exact (hrefl.cedeRecord ..).state_eq
        · exact ((hrefl.raiseCustody _).countStranded t).state_eq
      · rfl
    · rfl
  · exact (hrefl.countStranded t).state_eq

theorem beginCeding_configured (st : Station) : (d.beginCeding st).peers.state ≠ .unconfigured := by
  unfold Device.beginCeding
  dsimp only
  split
  · exact openEmpty_configured (by simp)
  · next t _ _ =>
    have hopen (e : Device) : (e.openTurn t).peers.state = e.peers.state := (Moves.openTurn (P := False) (S := False) t (.refl e)).state_eq
    rw [hopen]
    simp

theorem dispatch_configured (st : Station) (b : Body) (k : Bool) (hc : d.peers.state ≠ .unconfigured) :
    (d.dispatch st b k).peers.state ≠ .unconfigured := by
  have hrefl : Moves True False d d := .refl d
  cases b with
  | presence b => exact (hrefl.hearPresence trivial st b k).state_eq ▸ hc
  | stake b => exact (hrefl.hearStake st b).state_eq ▸ hc
  | unstake b => exact (hrefl.hearUnstake st b).state_eq ▸ hc
  | offer b => exact (hrefl.hearOffer st b).state_eq ▸ hc
  | agree b => exact (hrefl.hearAgree st b).state_eq ▸ hc
  | decline b => exact (hrefl.hearDecline st b).state_eq ▸ hc
  | bind b => exact (hrefl.hearBind st b).state_eq ▸ hc
  | setdown b => exact (hrefl.hearSetdown st b).state_eq ▸ hc
  | lifted b => exact (hrefl.hearLifted st b).state_eq ▸ hc
  | cancel b => exact (hrefl.hearCancel st b).state_eq ▸ hc
  | cede b => exact (hrefl.hearCede st b).state_eq ▸ hc
  | adopt b =>
    show (d.hearAdopt st b).peers.state ≠ _
    unfold Device.hearAdopt
    split
    · exact beginCeding_configured st
    · exact hc
  | receipt b =>
    have hchanged : Moves True False d (d.partnerChanged b.tag b.ceder st) := hrefl.partnerChanged ..
    show (d.hearReceipt st b).peers.state ≠ _
    unfold Device.hearReceipt
    dsimp only
    split
    · split
      · exact answerTurn_configured _ _ hc
      · exact hc
    · split
      · split
        · exact (hchanged.transferClaim ..).state_eq ▸ hc
        · exact hchanged.state_eq ▸ hc
      · exact hc

/-! ## A START RUN names as many entries as it carries -/

theorem parseRunItems_length {l : List Byte} {es : List RunItem} (h : parseRunItems l = some es) : l.length = 6 * es.length := by
  induction l using parseRunItems.induct generalizing es with
  | case1 =>
    rw [parseRunItems] at h
    cases h
    rfl
  | case2 b3 b2 b1 b0 cl tk rest items hitems ih =>
    rw [parseRunItems, hitems] at h
    cases h
    have := ih hitems
    simp only [List.length_cons]
    omega
  | case3 b3 b2 b1 b0 cl tk rest hnone ih =>
    rw [parseRunItems, hnone] at h
    cases h
  | case4 l hne hne' =>
    rw [parseRunItems] at h
    · cases h
    · exact hne
    · exact hne'

/-- No code but 14 spells a START RUN: for each code, its parameters one by one. -/
theorem parseRequest_ne_startRun {m : Nat} {ps : List Byte} {c : Cell} {k n : BitVec 4} {es : List RunItem}
    (hm : m < 14 ∨ 14 < m ∧ m < 24) : parseRequest (BitVec.ofNat 8 m) ps ≠ some (.startRun c k n es) := by
  intro h
  rcases ps with _ | ⟨a0, _ | ⟨a1, _ | ⟨a2, _ | ⟨a3, _ | ⟨a4, _ | ⟨a5, _ | ⟨a6, _ | ⟨a7, ps⟩⟩⟩⟩⟩⟩⟩⟩
  all_goals
    obtain hm | ⟨hlo, hhi⟩ := hm <;> interval_cases m <;> cases h

theorem parseStartRun_length {ps : List Byte} {c : Cell} {k n : BitVec 4} {es : List RunItem}
    (h : parseStartRun ps = some (.startRun c k n es)) : n.toNat = es.length := by
  unfold parseStartRun at h
  split at h
  · split at h
    · next hlen =>
      obtain ⟨items, hitems, heq⟩ := Option.map_eq_some_iff.mp h
      injection heq with _ _ hn hes
      have := parseRunItems_length hitems
      rw [← hn, ← hes]
      omega
    · cases h
  · cases h

theorem parsed_spelled {code : Byte} {ps : List Byte} {q : Request} (hc : code.toNat < 24) (h : parseRequest code ps = some q) :
    Request.Spelled q := by
  rintro c k n es rfl
  have hcode : code = BitVec.ofNat 8 code.toNat := BitVec.eq_of_toNat_eq (by simp)
  by_cases h14 : code.toNat = 14
  · obtain rfl : code = 14#8 := BitVec.eq_of_toNat_eq h14
    exact parseStartRun_length h
  · rw [hcode] at h
    exact absurd h (parseRequest_ne_startRun (by omega))

namespace Device.Sound

/-! ## Frames received -/

/-- What an accepted frame's steps go on: a sound part, configured, under its own number. -/
structure Accepting (d e : Device) : Prop where
  sound : e.Sound
  configured : e.peers.state ≠ .unconfigured
  station : e.line.station = d.line.station

theorem acceptStep {e : Device} {f : Frame} (k : Bool) (hb : bodyValid f.origin f.body = true) (hst : f.origin ≠ d.line.station)
    (h : Accepting d e) (x : FrameStep) : Accepting d (e.acceptStep f k x) := by
  have hother : f.origin ≠ e.line.station := h.station ▸ hst
  cases x with
  | relayCopy =>
    have hline : (e.relayCopy f).line.station = e.line.station ∧ (e.relayCopy f).peers = e.peers := by
      unfold Device.relayCopy
      split
      · refine ⟨?_, rfl⟩
        show (e.line.offerRelay f).station = _
        unfold LinePort.offerRelay
        split
        · exact (append_setting ..).station
        · rfl
      · exact ⟨rfl, rfl⟩
    refine ⟨h.sound.relayCopy f, ?_, hline.1.trans h.station⟩
    show (e.relayCopy f).peers.state ≠ _
    rw [hline.2]
    exact h.configured
  | hearing =>
    have hmoves : Moves True False e (e.hear f.origin) := Moves.hear trivial f.origin (.refl e)
    exact ⟨h.sound.hear hother h.configured, hmoves.state_eq ▸ h.configured, hmoves.line_setting.station.trans h.station⟩
  | body =>
    have hmoves : Moves True True e (e.dispatch f.origin f.body k) := Moves.dispatch trivial trivial f.origin f.body k (.refl e)
    exact ⟨h.sound.dispatch k hb hother h.configured, dispatch_configured _ _ _ h.configured, hmoves.line_setting.station.trans h.station⟩

theorem acceptFrame (h : d.Sound) {f : Frame} (order : List FrameStep) (k : Bool) (hb : bodyValid f.origin f.body = true)
    (hst : f.origin ≠ d.line.station) (hc : d.peers.state ≠ .unconfigured) : (d.acceptFrame f order k).Sound := by
  have hsteps (l : List FrameStep) (e : Device) (he : Accepting d e) : Accepting d (l.foldl (Device.acceptStep f k) e) := by
    induction l generalizing e with
    | nil => exact he
    | cons x l ih => exact ih _ (acceptStep k hb hst he x)
  exact (hsteps _ d ⟨h, hc, rfl⟩).sound

theorem judgeBody (h : d.Sound) {f : RawFrame} (order : List FrameStep) (k : Bool) (hst : f.origin ≠ d.line.station)
    (hc : d.peers.state ≠ .unconfigured) : (d.judgeBody f order k).Sound := by
  unfold Device.judgeBody
  split
  · split
    · next hb => exact h.acceptFrame order k hb hst hc
    · exact h
  · exact h

theorem filterFrame (h : d.Sound) (f : RawFrame) (order : List FrameStep) (k : Bool) (hc : d.peers.state ≠ .unconfigured) :
    (d.filterFrame f order k).Sound := by
  unfold Device.filterFrame
  split
  · exact h
  · split
    · exact h
    · split
      · split
        · exact h
        · exact h.clash
      · next hst =>
        split
        · exact h
        · exact (h.access (h.line.recentAdd f.origin f.seq)).judgeBody order k hst hc

theorem frameReceived (h : d.Sound) (bytes : List Byte) (order : List FrameStep) (k : Bool) : (d.frameReceived bytes order k).Sound := by
  unfold Device.frameReceived
  split
  · next hc =>
    simp only [Bool.and_eq_true] at hc
    split
    · exact h.filterFrame _ order k (by simpa [Device.configured] using hc.1.2)
    · exact h
  · exact h

/-! ## The requests -/

theorem withLink (h : d.Sound) {l : DriveLink} (hn : l.notices.length ≤ d.link.notices.length := by rfl) : (d.withLink l).Sound :=
  ⟨h.line, h.peers, h.claims, h.accounts, h.engine, hn.trans h.notices, h.backup, h.blank⟩

theorem endedCollected (h : d.Sound) (i : Nat) (t : Tag) : (d.endedCollected i t).Sound := by
  unfold Device.endedCollected
  split
  · next r hr =>
    split
    · split
      · exact h.freeSlot i
      · exact h.rewrite (q := { r with endCollected := true }) hr (id (h.record hr) : r.Sound)
    · exact h
  · exact h

theorem noticeCollected (h : d.Sound) (n : Notice) : (d.noticeCollected n).Sound := by
  unfold Device.noticeCollected
  split
  · exact h.endedCollected ..
  · exact h.withRun (Nat.zero_le _) h.engine.runTimer
  · exact h

/-- R153: a station that is configured starts from a blank part. -/
theorem configure (h : d.Sound) (hu : d.peers.state = .unconfigured) {st se : Byte} (re : Bool) (m : LineMode) :
    ((d.withLine (d.line.configured st se re m)).withPeers d.peers.joining).Sound := by
  obtain ⟨hroster, hentries⟩ := h.blank hu
  have hline : (d.line.configured st se re m).Sound := by
    refine ⟨Nat.zero_le _, Nat.zero_le _, Nat.zero_le _, fun _ hx => (nomatch hx), ?_, fun hm => ?_, .inl rfl, ?_, by rintro _ ⟨⟩,
      Nat.zero_le _, fun _ hp => nomatch hp⟩
    · cases m <;> simp [LinePort.configured]
    · cases m with
      | normal => simp [LinePort.configured, LinePort.mode] at hm
      | mute => rfl
    · exact st.isLt.trans (by decide)
  refine ⟨hline, ⟨?_, ?_, ?_, ?_, ?_, ?_⟩, ⟨?_, ?_, ?_, ?_, ?_, ?_, h.claims.watches⟩, h.accounts, h.engine, h.notices, h.backup,
    fun hs => nomatch hs⟩
  · exact h.peers.size
  · exact h.peers.ordered
  · show ∀ e ∈ d.peers.roster, _
    rw [hroster]
    exact fun _ hx => nomatch hx
  · exact h.peers.ages
  · rintro _ ⟨⟩
    decide
  · rintro _ ⟨⟩
    decide
  · exact h.claims.size
  · exact h.claims.ordered
  · show ∀ x ∈ d.claims.entries, _
    rw [hentries]
    exact fun _ hx => nomatch hx
  · exact h.claims.limit
  · exact h.claims.ages
  · exact h.claims.counts

/-- R150: a request that is refused, or that takes its effects, keeps a sound part. -/
theorem perform (h : d.Sound) {q : Request} (hq : Request.Spelled q) : (d.perform q).1.Sound := by
  cases q with
  | configure st se re mo => exact reqConfigure_keeps h fun hu _ => h.configure hu _ _
  | setLineMode mo => exact reqSetLineMode_keeps h fun _ => ⟨h.setMode .., h.setMode ..⟩
  | readStatus => exact h.withLink
  | setPosition c => exact reqSetPosition_keeps h h.withLink
  | loadBin b cl e0 => exact reqLoadBin_keeps h (h.createAccount _ _ _ (Nat.le_of_lt_succ e0.isLt) _)
  | unloadBin => exact reqUnloadBin_keeps h (h.removeAccount _)
  | postHandover c t => exact reqPostHandover_keeps h fun i a _ => h.createGiver ..
  | reoffer g t => exact reqReoffer_keeps h fun i r hr _ => h.giverReoffer hr _
  | reportSetdown g => exact reqReportSetdown_keeps h fun i r hr _ => h.giverSetdown hr
  | reportLift g => exact reqReportLift_keeps h fun i r hr _ => h.takerLift hr
  | recover g => exact reqRecover_keeps h fun i r _ _ => h.giverRecover ..
  | answerInvite g a => exact reqAnswerInvite_keeps h fun i r hr _ => ⟨h.takerAgree hr, h.takerDecline ..⟩
  | cancel g => exact reqCancel_keeps h (fun i r _ _ => h.giverCancel ..) fun i r _ _ => h.takerCancel ..
  | startRun c k n es =>
    refine reqStartRun_keeps h fun hn => h.withRun ?_ (by rintro _ ⟨⟩; decide)
    rw [hq c k n es rfl] at hn
    exact (List.length_map ..).trans_le hn
  | nextEntry o =>
    have hhanding : (d.withRun (d.engine.run.handing o.toNat)).Sound :=
      h.withRun ((setEntry_length ..).trans_le h.engine.runSize) (by rintro _ ⟨⟩)
    exact reqNextEntry_keeps h fun i a t _ => hhanding.createGiver i a _ t _
  | withdrawEntry o =>
    have hwithdrawn := h.withRun_of (l := d.engine.run.setEntry o.toNat .withdrawn) (setEntry_length ..) rfl
    exact reqWithdrawEntry_keeps h hwithdrawn (hwithdrawn.advanceRun _)
  | endRun => exact reqEndRun_keeps h (h.endRun _) (h.withRun_of rfl rfl)
  | adopt t => exact reqAdopt_keeps h (h.startAdoption _)
  | setWatch i f r c s =>
    refine reqSetWatch_keeps h fun w => ⟨h.line, h.peers, { h.claims with watches := ?_ }, h.accounts, h.engine, h.notices, h.backup, h.blank⟩
    exact (List.length_set ..).trans h.claims.watches
  | collect =>
    refine reqCollect_keeps h fun n rest hn => Device.Sound.moveOwed (Device.Sound.noticeCollected (h.withLink ?_) n)
    rw [hn]
    exact Nat.le_succ _
  | readRecord s => exact h
  | readClaims p => exact h
  | readRoster p => exact h

theorem complete (h : d.Sound) (code length : Byte) (ps : List Byte) : (d.complete code length ps).Sound := by
  have hjudged : (d.judgeRequest code length ps).1.Sound := by
    unfold Device.judgeRequest
    split
    · exact h
    · next hcode =>
      split
      · exact h
      · split
        · next hq => exact h.perform (parsed_spelled (Nat.lt_of_not_le hcode) hq)
        · exact h
  exact (hjudged.withLink (l := { (d.judgeRequest code length ps).1.link with
    phase := .result, gathered := [], result := (d.judgeRequest code length ps).2.bytes })).requestCompleted

theorem gatherByte (h : d.Sound) (g : List Byte) : (d.gatherByte g).Sound := by
  unfold Device.gatherByte
  split
  · split
    · exact h.complete ..
    · exact h.withLink
  · exact h.withLink

theorem linkByte (h : d.Sound) (b : Byte) : (d.linkByte b).Sound := by
  unfold Device.linkByte
  split
  · split
    · dsimp only
      split
      · exact h.withLink
      · exact Device.Sound.gatherByte h.withLink _
    · exact Device.Sound.gatherByte h.withLink _
    · exact h.withLink
  · exact h

theorem linkBytes (h : d.Sound) (bs : List Byte) : (d.linkBytes bs).Sound := foldl (fun _ b he => he.linkByte b) h bs

theorem hostRequest (h : d.Sound) (q : Request) : (d.hostRequest q).Sound := h.linkBytes _

theorem selectRelease (h : d.Sound) (bs : List Byte) : (d.selectRelease bs).Sound := by
  unfold Device.selectRelease
  split
  · unfold Device.selectHigh
    dsimp only
    split
    · exact (h.linkBytes bs).withLink
    · exact (h.linkBytes bs).withLink
  · exact h

end Device.Sound

end Sys2Proof.Machine
end

section
/-! PROOF. Every command keeps a sound part sound: power, retention and start, the beacon period, and the step. -/

namespace Sys2Proof.Machine

set_option Elab.async false

variable {d : Device} {s : State} {i : Nat} {r q : Record}

theorem spentCheck_line (p : AccountPos) : (d.spentCheck p).line = d.line := by
  unfold Device.spentCheck
  split
  · split
    · dsimp only
      split
      · unfold Device.pushNotice
        split <;> rfl
      · exact raise_line ..
    · rfl
  · rfl

/-- R87: the downtime leaves the Line Port alone. -/
theorem chargeDowntime_line (n : Nat) : (d.chargeDowntime n).line = d.line := by
  refine foldl_keeps (Q := fun e => e.line = d.line) (fun e p he => ?_) _ rfl
  unfold Device.chargePosition
  split
  · rw [spentCheck_line, ← he]
    cases p <;> rfl
  · exact he

/-- R9: medium access leaves the station's number. -/
theorem access_station (l : LinePort) :
    l.busy.station = l.station ∧ l.quietGap.station = l.station ∧ l.deferEnd.station = l.station ∧ l.slot.station = l.station := by
  have hdefer (l : LinePort) (r : Nat) : (l.deferWith r).station = l.station := by
    unfold LinePort.deferWith
    split <;> rfl
  refine ⟨?_, ?_, ?_, ?_⟩
  · unfold LinePort.busy
    dsimp only
    split <;> rfl
  · unfold LinePort.quietGap
    dsimp only
    split
    · split <;> exact hdefer ..
    · rfl
  · unfold LinePort.deferEnd
    split
    · exact hdefer ..
    · rfl
  · unfold LinePort.slot
    dsimp only
    split
    · split
      · exact hdefer ..
      · rfl
    · rfl

namespace Device.Sound

/-! ## Entry to RETAIN (R161) -/

theorem withPower (h : d.Sound) {p : Power} (hp : p.backup ≤ 65535) : (d.withPower p).Sound :=
  ⟨h.line, h.peers, h.claims, h.accounts, h.engine, h.notices, hp, h.blank⟩

/-- Entries may go and lose their counts, with the rest of the map kept. -/
theorem claims_filter_map (h : d.Sound) (p : Claim → Bool) {f : Claim → Claim} (hf : ∀ x : Claim, x.Keeps (f x))
    (ha : ∀ x : Claim, x.age < Config.claimAge → (f x).age < Config.claimAge) :
    ({ d.claims with entries := (d.claims.entries.filter p).map f } : ClaimMap).Sound d.line.station :=
  (h.filter_map p hf ha).claims

theorem stopped (h : d.Sound) : d.stopped.Sound := by
  have hclaims := h.claims_filter_map (fun _ => true) (f := Claim.stopped)
    (fun x => Claim.keeps_of_map (fun o => { o with settle := none, linger := none }) fun o _ => ⟨by rintro _ ⟨⟩, by rintro _ ⟨⟩⟩)
    fun _ => id
  rw [List.filter_true] at hclaims
  refine ⟨h.line.emptied rfl rfl rfl h.line.generator rfl h.line.recent h.line.recentAges,
    ⟨h.peers.size, h.peers.ordered, h.peers.others, h.peers.ages, by rintro _ ⟨⟩, by rintro _ ⟨⟩⟩, hclaims, h.accounts,
    ⟨h.engine.slots, h.engine.records, h.engine.tags, h.engine.runSize, by rintro _ ⟨⟩, by rintro _ ⟨⟩, h.engine.attempts⟩,
    h.notices, h.backup, fun hu => ?_⟩
  obtain ⟨hroster, hentries⟩ := h.blank hu
  refine ⟨hroster, ?_⟩
  show d.claims.entries.map _ = []
  rw [hentries]
  rfl

theorem enterRetain (h : d.Sound) (a b : Bool) : (d.enterRetain a b).Sound := h.stopped.withPower (Nat.zero_le _)

theorem mainPowerLoss (h : d.Sound) : d.mainPowerLoss.Sound := by
  unfold Device.mainPowerLoss
  split
  · exact h.enterRetain ..
  · exact h.withPower h.backup
  · exact h

theorem resetAssert (h : d.Sound) : d.resetAssert.Sound := by
  unfold Device.resetAssert
  split
  · exact h.enterRetain ..
  · exact h.withPower h.backup

theorem backupSecond (h : d.Sound) : d.backupSecond.Sound := by
  unfold Device.backupSecond
  split
  · exact h.withPower (Nat.min_le_left ..)
  · exact h

theorem thresholdDip (h : d.Sound) : d.thresholdDip.Sound := by
  unfold Device.thresholdDip
  split
  · exact h.withPower h.backup
  · exact h

/-! ## Starts (R165, R166) -/

theorem coldStart (d : Device) : d.coldStart.Sound := Device.Sound.withFreeCount resetIsSound d.freeCount

theorem retained (h : d.Sound) : d.retained.Sound := by
  refine ⟨?_, ⟨Nat.zero_le _, List.Pairwise.nil, fun _ hx => (nomatch hx), fun _ hx => (nomatch hx), by rintro _ ⟨⟩, by rintro _ ⟨⟩⟩,
    h.claims_filter_map d.keepsClaim (f := Claim.resumed)
      (fun x => Claim.keeps_of_map (fun o => { o with outcome := none, settle := none, linger := none, rival := none })
        fun o _ => ⟨by rintro _ ⟨⟩, by rintro _ ⟨⟩⟩) fun _ _ => Nat.zero_lt_succ 7,
    h.accounts,
    ⟨h.engine.slots, h.engine.records, h.engine.tags, h.engine.runSize, h.engine.runTimer, by rintro _ ⟨⟩, Nat.zero_le _⟩,
    Nat.zero_le _, h.backup, fun hu => ⟨rfl, ?_⟩⟩
  · exact ⟨Nat.zero_le _, Nat.zero_le _, Nat.zero_le _, fun _ hx => (nomatch hx), ⟨fun _ => .inl rfl, fun _ => rfl⟩, fun _ => rfl,
      .inl rfl, h.line.generator,
      by rintro _ ⟨⟩, Nat.zero_le _, fun _ hp => nomatch hp⟩
  · show (d.claims.entries.filter _).map _ = []
    rw [(h.blank hu).2]
    rfl

theorem rejoin (h : d.Sound) (hq : d.line.queue = []) : d.rejoin.Sound := by
  unfold Device.rejoin
  split
  · have hjoined := h.withStation { d.peers with
      state := .joining, joinTimer := some Config.joinListen, silenceTimer := some Config.hostSilence } rfl (fun hu => nomatch hu)
      (by rintro _ ⟨⟩; decide) (by rintro _ ⟨⟩; decide)
    refine hjoined.withLine (l := { d.line with
      generator := d.line.station.toNat, tx := if d.line.mode = .normal then .idle else .off }) ⟨h.line.queued, h.line.presences,
      h.line.relayed, h.line.collisions, ?_, fun hm => ?_, h.line.window, ?_, h.line.remaining, h.line.recent, h.line.recentAges⟩ rfl
    · simp only [hq, true_iff]
      split <;> simp
    · have hm : d.line.mode = .mute := hm
      simp [hm]
    · exact d.line.station.isLt.trans (by decide)
  · exact h

/-! ## Revalidation (R167) -/

/-- R167: a record with its timer at 0 is sound, but for one whose offer window had opened. -/
theorem resumed (h : d.Sound) (hr : d.recordAt i = some r) (hs : r.state ≠ .giver .offering) : (d.setSlot i (some r.resumed)).Sound := by
  obtain ⟨-, ho, -, -, hn⟩ := h.record hr
  exact h.rewrite (q := r.resumed) hr ⟨Nat.zero_le 6, ho, fun hg => absurd hg hs, fun _ => Nat.zero_le 3, hn⟩

theorem revertGiver (h : d.Sound) (hr : d.recordAt i = some r) : ((d.setSlot i (some r.resumed)).revertGiver i r.resumed).Sound := by
  obtain ⟨-, -, -, -, hn⟩ := h.record hr
  have hpending := h.rewrite (q := { r.resumed with
      state := .giver .pending, offers := 0, frozenKey := none, request := none, addressed := false }) hr
    (Record.sound_of_windowless (Nat.zero_le 6) (Nat.zero_le 3) hn (by simp) (by simp) (by simp))
  rw [← setSlot_setSlot d i (some r.resumed)] at hpending
  unfold Device.revertGiver
  dsimp only
  split
  · exact hpending.sendCancel ..
  · exact hpending

theorem revalidate (h : d.Sound) (i : Nat) : (d.revalidate i).Sound := by
  unfold Device.revalidate
  split
  · next r hr =>
    obtain ⟨-, ho, -, -, hn⟩ := h.record hr
    have hkept {x : RecState} (hs : r.resumed.state = x) (hx : x ≠ .giver .offering) : (d.setSlot i (some r.resumed)).Sound :=
      h.resumed hr fun hg => hx (hs.symm.trans hg)
    have hrec : (d.setSlot i (some r.resumed)).recordAt i = some r.resumed := recordAt_setSlot_self d _ (recordAt_lt d hr)
    unfold Device.revalidateAs
    split
    · next hs => exact (hkept hs (by simp)).raiseEnded i
    · next hs =>
      have hs := hkept hs (by simp)
      exact hs.rewrite (q := { r.resumed with setdownOwed := true }) hrec (id (hs.record hrec) : r.resumed.Sound)
    · split
      · rw [setSlot_setSlot]
        exact h.rewrite hr (Record.sound_unbound (r := r.resumed) (Nat.zero_le 6) ho hn)
      · exact h.revertGiver hr
    · next hs =>
      split
      · exact hkept hs (by simp)
      · exact h.revertGiver hr
    · exact h.revertGiver hr
    · next hs => exact ((hkept hs (by simp)).sendDecline ..).endTaker ..
    · next hs => exact ((hkept hs (by simp)).sendCancel ..).endTaker ..
    · next hs => exact ((hkept hs (by simp)).sendCancel ..).endTaker ..
    · next hs => exact hkept hs (by simp)
    · next hs =>
      have hs := hkept hs (by simp)
      split
      · exact hs.rewrite (q := { r.resumed with lifted := .owed }) hrec (id (hs.record hrec) : r.resumed.Sound)
      · exact hs.raiseEnded i
  · exact h

theorem announceStart (h : d.Sound) (n : Nat) : (d.announceStart n).Sound := by
  have htold := (h.withLink (l := { d.link with retentionRead := true })).pushNotice (Notice.start n)
  exact Device.Sound.moveOwed (htold.withPower htold.backup)

theorem resumeRun (h : d.Sound) : (d.withRun d.engine.run.resumed).Sound := by
  refine h.withRun h.engine.runSize fun n hn => ?_
  have hn : n ∈ (if d.engine.run.state = .awaitingNext then some 0 else none) := hn
  split at hn
  · obtain rfl := Option.some.inj hn
    decide
  · cases hn

theorem resume (h : d.Sound) : d.resume.Sound := by
  have hcharged := h.retained.chargeDowntime d.power.backup
  have hline : (d.retained.chargeDowntime d.power.backup).line.queue = [] := by
    rw [chargeDowntime_line]
    rfl
  have hrejoined := hcharged.rejoin hline
  have hvalid := hrejoined.forSlots (f := fun i d => d.revalidate i) fun i e he => he.revalidate i
  exact hvalid.resumeRun.announceStart _

theorem tryColdStart (h : d.Sound) : d.tryColdStart.Sound := by
  unfold Device.tryColdStart
  split
  · exact coldStart d
  · split
    · exact coldStart d
    · exact h
  · exact h

theorem tryResume (h : d.Sound) : d.tryResume.Sound := by
  unfold Device.tryResume
  split
  · exact h.resume
  · exact h

theorem mainPowerReturn (h : d.Sound) : d.mainPowerReturn.Sound := by
  unfold Device.mainPowerReturn
  split
  · exact h
  · split
    · exact h.withPower h.backup
    · exact h.tryColdStart.tryResume
  · split
    · exact h.withPower (Nat.zero_le _)
    · exact coldStart d

/-! ## The beacon period and the other timers -/

theorem beaconTask (h : d.Sound) (o : BeaconOrder) (x : BeaconTask) : (d.beaconTask o x).Sound := by
  cases x with
  | linePort => exact h.access h.line.recentAges'
  | peerRoster => exact h.peerRosterBeacon _
  | claimMap => exact h.claimMapBeacon _
  | record i => exact h.recordTick i
  | run => exact h.serviceTick
  | adoption => exact h.adoptionTick
  | ceding => exact h.turnTick

theorem beaconPeriod (h : d.Sound) (o : BeaconOrder) : (d.beaconPeriod o).Sound := foldl (fun _ x he => he.beaconTask o x) h _

theorem whenRunning {f : Device → Device} (h : d.Sound) (hf : (f d).Sound) : (whenRunning f d).Sound := by
  unfold Machine.whenRunning
  split
  · exact hf
  · exact h

theorem whenConfigured {f : Device → Device} (h : d.Sound) (hf : (f d).Sound) : (whenConfigured f d).Sound := by
  unfold Machine.whenConfigured
  split
  · exact hf
  · exact h

theorem whenDue {p : Device → Bool} {f : Device → Device} (h : d.Sound) (hf : (f d).Sound) : (whenDue p f d).Sound := by
  unfold Machine.whenDue
  split
  · exact hf
  · exact h

theorem onLine {f : LinePort → LinePort} (h : d.Sound) (hf : (f d.line).Sound) (hst : (f d.line).station = d.line.station) :
    (onLine f d).Sound := h.whenConfigured (h.withLine hf hst)

end Device.Sound

theorem sound_of_act {f : Device → Device} {t : State} (h : (f s.toDevice).Sound) (hx : act f s = .next t) : t.toDevice.Sound := by
  obtain rfl := Host.Outcome.next.inj hx
  exact h

/-- Every command keeps a sound part sound. -/
theorem exec_sound {t : State} (h : s.toDevice.Sound) (c : Instr) (hx : exec c s = .next t) : t.toDevice.Sound := by
  cases c with
  | configure st se re mo => exact sound_of_act (h.hostRequest _) hx
  | setLineMode mo => exact sound_of_act (h.hostRequest _) hx
  | readStatus => exact sound_of_act (h.hostRequest _) hx
  | setPosition row col => exact sound_of_act (h.hostRequest _) hx
  | loadBin b cl e0 => exact sound_of_act (h.hostRequest _) hx
  | unloadBin => exact sound_of_act (h.hostRequest _) hx
  | postHandover row col tk => exact sound_of_act (h.hostRequest _) hx
  | reoffer g n tk => exact sound_of_act (h.hostRequest _) hx
  | reportSetdown g n => exact sound_of_act (h.hostRequest _) hx
  | reportLift g n => exact sound_of_act (h.hostRequest _) hx
  | recover g n => exact sound_of_act (h.hostRequest _) hx
  | answerInvite g n a => exact sound_of_act (h.hostRequest _) hx
  | cancel g n => exact sound_of_act (h.hostRequest _) hx
  | startRun row col k es => exact sound_of_act (h.hostRequest _) hx
  | nextEntry o => exact sound_of_act (h.hostRequest _) hx
  | withdrawEntry o => exact sound_of_act (h.hostRequest _) hx
  | endRun => exact sound_of_act (h.hostRequest _) hx
  | adopt st => exact sound_of_act (h.hostRequest _) hx
  | setWatch i f row col st => exact sound_of_act (h.hostRequest _) hx
  | collect => exact sound_of_act (h.hostRequest _) hx
  | readRecord k => exact sound_of_act (h.hostRequest _) hx
  | readClaims k => exact sound_of_act (h.hostRequest _) hx
  | readRoster k => exact sound_of_act (h.hostRequest _) hx
  | invalidRequest code len ps => exact sound_of_act (f := fun d => d.linkBytes ([code, len] ++ ps)) (h.linkBytes _) hx
  | fillByte => exact sound_of_act (h.linkByte _) hx
  | resultByte b => exact sound_of_act (h.linkByte _) hx
  | selectRelease bs => exact sound_of_act (h.selectRelease _) hx
  | mainPowerLoss => exact sound_of_act h.mainPowerLoss hx
  | resetAssert => exact sound_of_act h.resetAssert hx
  | backupSecond => exact sound_of_act h.backupSecond hx
  | holdThresholdDip => exact sound_of_act h.thresholdDip hx
  | coldStart => exact sound_of_act h.tryColdStart hx
  | resume => exact sound_of_act h.tryResume hx
  | mainPowerReturn => exact sound_of_act h.mainPowerReturn hx
  | beaconPeriodExpiry o => exact sound_of_act (h.whenRunning (h.beaconPeriod o)) hx
  | accountingSecond o => exact sound_of_act (h.whenRunning (h.accountingSecond o)) hx
  | joinListenExpiry o => exact sound_of_act (h.whenDue (h.joinTick o)) hx
  | hostSilenceExpiry => exact sound_of_act (h.whenDue h.silenceTick) hx
  | rosterEntryQuiet st => exact sound_of_act (h.whenDue (h.ageEntry st)) hx
  | rosterEntryLost st => exact sound_of_act (h.whenDue (h.ageEntry st)) hx
  | recentPairExpiry st n => exact sound_of_act (h.whenRunning (h.access (h.line.recentExpire st n))) hx
  | claimAgeOut row col st => exact sound_of_act (h.whenDue ((h.removeHeard ⟨row, col⟩ st).retryRemoved _)) hx
  | settleExpiry row col => exact sound_of_act (h.whenDue (h.settleTick _)) hx
  | lingerExpiry row col => exact sound_of_act (h.whenDue (h.lingerTick _)) hx
  | offerRepeat i => exact sound_of_act (h.whenDue (h.offerTick i)) hx
  | offerWindowExpiry i => exact sound_of_act (h.whenDue (h.offerTick i)) hx
  | answerWindowExpiry i => exact sound_of_act (h.whenDue (h.answerTick i)) hx
  | agreedTimerExpiry i => exact sound_of_act (h.whenDue (h.agreedTick i)) hx
  | serviceWindowExpiry => exact sound_of_act (h.whenDue h.serviceTick) hx
  | adoptionTimerExpiry => exact sound_of_act (h.whenDue h.adoptionTick) hx
  | cedeRetry => exact sound_of_act (h.whenDue h.turnTick) hx
  | turnCloseUnanswered => exact sound_of_act (h.whenDue h.turnTick) hx
  | owedNoticeMove => exact sound_of_act h.moveOwed hx
  | lineBusy => exact sound_of_act (h.onLine h.line.busy (access_station s.line).1) hx
  | quietGapComplete => exact sound_of_act (h.onLine h.line.quietGap (access_station s.line).2.1) hx
  | deferralEnd => exact sound_of_act (h.onLine h.line.deferEnd (access_station s.line).2.2.1) hx
  | lineSlot => exact sound_of_act (h.onLine h.line.slot (access_station s.line).2.2.2) hx
  | cleanSend => exact sound_of_act (h.whenConfigured h.cleanSend) hx
  | collision => exact sound_of_act (h.whenConfigured h.collision) hx
  | frameReceived bytes order k => exact sound_of_act (h.frameReceived ..) hx
  | presenceHeard st b k => exact sound_of_act (h.takeBody ..) hx
  | stakeHeard st b => exact sound_of_act (h.takeBody ..) hx
  | unstakeHeard st b => exact sound_of_act (h.takeBody ..) hx
  | offerHeard st b => exact sound_of_act (h.takeBody ..) hx
  | agreeHeard st b => exact sound_of_act (h.takeBody ..) hx
  | declineHeard st b => exact sound_of_act (h.takeBody ..) hx
  | bindHeard st b => exact sound_of_act (h.takeBody ..) hx
  | setdownHeard st b => exact sound_of_act (h.takeBody ..) hx
  | liftedHeard st b => exact sound_of_act (h.takeBody ..) hx
  | cancelHeard st b => exact sound_of_act (h.takeBody ..) hx
  | adoptHeard st b => exact sound_of_act (h.takeBody ..) hx
  | cedeHeard st b => exact sound_of_act (h.takeBody ..) hx
  | receiptHeard st b => exact sound_of_act (h.takeBody ..) hx

/-- Settles O59: every elementary change keeps a sound part sound, and so every command, and so a step. -/
theorem everyStepKeepsThePartSound : Obligations.EveryStepKeepsThePartSound := by
  intro s t h hx
  unfold step at hx
  split at hx
  · obtain rfl := Host.Outcome.next.inj hx
    exact h
  · next c rest _ => exact exec_sound (s := s.withPending rest) h c hx

end Sys2Proof.Machine
end

section
/-! PROOF. A resume (R166): the downtime charged (R87), the records revalidated (R167) and the start announced. The part does not run before
the last step, so that notices raised are only owed. -/

namespace Sys2Proof.Machine

set_option Elab.async false

variable {d e : Device} {s : State} {i : Nat} {r : Record}

/-! ## A part that does not run -/

/-- A notice raised for a record. -/
def Record.withRaised (r : Record) (k : NoticeKind) (o : OutcomePair) (v : List Byte) : Record :=
  { r with notices := addPending { kind := k, outcome := o, station := r.partner, values := v } r.notices }

theorem raise_of_still (h : d.running = false) (hr : d.recordAt i = some r) (k : NoticeKind) (o : OutcomePair) (v : List Byte) :
    d.raise i k o v = d.setSlot i (some (r.withRaised k o v)) := by
  rw [← modRecord_of_record (f := fun r => r.withRaised k o v) hr]
  refine moveOwed_of_still ?_
  rw [modRecord_of_record hr]
  exact h

/-! ## The records, their notices aside -/

/-- A record without the notices that are owed to its host. -/
def Record.hushed (r : Record) : Record := { r with notices := [] }

def Device.hushed (d : Device) : List (Option Record) := d.engine.table.map (Option.map Record.hushed)

theorem setSlot_hushed (hr : d.recordAt i = some r) {q : Record} (h : q.hushed = r.hushed) : (d.setSlot i (some q)).hushed = d.hushed := by
  refine List.ext_getElem? fun j => ?_
  simp only [Device.hushed, setSlot_engine, List.getElem?_map, List.getElem?_set]
  by_cases hj : i = j
  · subst hj
    have hlt := recordAt_lt d hr
    rw [(recordAt_eq d i r).mp hr]
    simp [hlt, h]
  · rw [if_neg hj]

theorem hushed_recordAt (h : e.hushed = d.hushed) (i : Nat) : (e.recordAt i).map Record.hushed = (d.recordAt i).map Record.hushed := by
  have hat (d : Device) : (d.recordAt i).map Record.hushed = (d.hushed[i]?).join := by
    unfold Device.recordAt Device.hushed
    rw [List.getElem?_map]
    cases d.engine.table[i]? with
    | none => rfl
    | some o => cases o <;> rfl
  rw [hat, hat, h]

/-! ## The downtime (R87) -/

/-- What charging the downtime leaves of a part that does not run. -/
structure Device.Downtime (d e : Device) : Prop where
  beside : e = { d with
    accounts := e.accounts, engine := { d.engine with table := e.engine.table },
    link := { d.link with notices := e.link.notices, flags := { d.link.flags with budget := e.link.flags.budget } } }
  records : e.hushed = d.hushed

theorem Device.Downtime.refl (d : Device) : d.Downtime d := ⟨rfl, rfl⟩

theorem Device.Downtime.trans {a b c : Device} (h : a.Downtime b) (g : b.Downtime c) : a.Downtime c :=
  ⟨by rw [g.beside, h.beside], g.records.trans h.records⟩

theorem Device.Downtime.running (h : d.Downtime e) : e.running = d.running := by rw [h.beside]; rfl

theorem setAccount_downtime (d : Device) (p : AccountPos) (a : Option Account) : d.Downtime (d.setAccount p a) := by
  cases p <;> exact ⟨rfl, rfl⟩

theorem spend_downtime (d : Device) (p : AccountPos) (a : Account) : d.Downtime (d.spend p a) := by
  cases p <;> exact ⟨rfl, rfl⟩

/-- Only the hoist's spent budget is told at once, while the part does not run (R79, R158). -/
def toldAtOnce : AccountPos → Nat
  | .hoist => 1
  | .slot _ => 0

theorem tellSpent_downtime (h : d.running = false) (hn : d.link.notices.length < 8) (p : AccountPos) (a : Account) :
    d.Downtime (d.tellSpent p a) ∧ (d.tellSpent p a).link.notices.length ≤ d.link.notices.length + toldAtOnce p := by
  cases p with
  | hoist =>
    have htold : d.tellSpent .hoist a = d.withLink { d.link with
        notices := d.link.notices ++ [plainNotice .budgetSpent ⟨.done, .budgetSpent⟩ (bytesOfNat16 a.e) 0#8] } := if_pos hn
    rw [htold]
    exact ⟨⟨rfl, rfl⟩, by simp [toldAtOnce]⟩
  | slot i =>
    cases hr : d.recordAt i with
    | none =>
      have htold : d.tellSpent (.slot i) a = d := by
        simp only [Device.tellSpent, Device.raise, Device.modRecord, hr]
        exact moveOwed_of_still h
      rw [htold]
      exact ⟨.refl d, Nat.le_refl _⟩
    | some r =>
      have htold : d.tellSpent (.slot i) a = d.setSlot i (some (r.withRaised .budgetSpent ⟨.done, .budgetSpent⟩ (bytesOfNat16 a.e))) :=
        raise_of_still h hr ..
      rw [htold]
      exact ⟨⟨rfl, setSlot_hushed hr rfl⟩, Nat.le_refl _⟩

theorem chargePosition_downtime (h : d.running = false) (hn : d.link.notices.length < 8) (k : Nat) (p : AccountPos) :
    d.Downtime (d.chargePosition k p) ∧ (d.chargePosition k p).link.notices.length ≤ d.link.notices.length + toldAtOnce p := by
  cases ha : d.accountAt p with
  | none =>
    have hsame : d.chargePosition k p = d := by simp [Device.chargePosition, ha]
    rw [hsame]
    exact ⟨.refl d, Nat.le_add_right ..⟩
  | some a =>
    let m := d.setAccount p (some (a.charged k))
    have hdm : d.Downtime m := setAccount_downtime ..
    have hm : m.accountAt p = some (a.charged k) := (accountAt_setAccount ha).trans (if_pos rfl)
    have hml : m.link = d.link := by cases p <;> rfl
    have hcharge : d.chargePosition k p = m.spentCheck p := by simp only [Device.chargePosition, ha, m]
    rw [hcharge]
    by_cases hc : (a.charged k).crosses = true
    · rw [spentCheck_of_crosses hm hc]
      have hmn := spend_downtime m p (a.charged k)
      have hnl : (m.spend p (a.charged k)).link.notices = d.link.notices := by rw [← hml]; cases p <;> rfl
      have hst : (m.spend p (a.charged k)).running = false := by rw [hmn.running, hdm.running]; exact h
      obtain ⟨htold, hlen⟩ := tellSpent_downtime hst (by rw [hnl]; exact hn) p (a.charged k)
      exact ⟨(hdm.trans hmn).trans htold, by rw [hnl] at hlen; exact hlen⟩
    · rw [spentCheck_of_not_crosses hm (by simpa using hc)]
      exact ⟨hdm, by rw [hml]; exact Nat.le_add_right ..⟩

/-- R87, R79: the downtime raises notices, of which the hoist's alone is queued. -/
theorem chargeDowntime_downtime (h : d.running = false) (hn : d.link.notices = []) (k : Nat) :
    d.Downtime (d.chargeDowntime k) ∧ (d.chargeDowntime k).link.notices.length ≤ 1 := by
  obtain ⟨hhoist, hlen⟩ := chargePosition_downtime h (by simp [hn]) k .hoist
  rw [hn] at hlen
  unfold Device.chargeDowntime allPositions
  rw [List.foldl_cons, List.foldl_map]
  refine List.foldlRecOn slotList _ (motive := fun e => d.Downtime e ∧ e.link.notices.length ≤ 1) ⟨hhoist, hlen⟩ ?_
  rintro e ⟨he, hle⟩ i -
  obtain ⟨hstep, hstep'⟩ := chargePosition_downtime (he.running.trans h) (Nat.lt_of_le_of_lt hle (by decide)) k (.slot i)
  exact ⟨he.trans hstep, hstep'.trans hle⟩

/-! ## Frames offered to a queue without relayed ones -/

/-- Own frames other than PRESENCE are offered to the Line Port in turn. -/
def LinePort.offerAll (l : LinePort) (bs : List Body) : LinePort := bs.foldl (fun l b => (l.offer .engine b).1) l

theorem lastIdx_eq_none {α : Type} {p : α → Bool} {q : List α} (h : ∀ x ∈ q, p x = false) : lastIdx p q = none := by
  induction q with
  | nil => rfl
  | cons x q ih => simp [lastIdx, ih fun y hy => h y (List.mem_cons_of_mem _ hy), h x List.mem_cons_self]

/-- What the Line Port makes of own frames in a queue without relayed ones (R4 to R6, R21). -/
structure LinePort.Took (l : LinePort) (bs : List Body) (m : LinePort) : Prop where
  rest : m = { l with queue := m.queue, seqCounter := m.seqCounter, tx := m.tx, remaining := m.remaining }
  bodies : m.bodies = if l.mode = .mute then l.bodies else (l.bodies ++ bs).take 8
  number : m.seqCounter + BitVec.ofNat 8 l.queue.length = l.seqCounter + BitVec.ofNat 8 m.queue.length
  own : ∀ x ∈ m.queue, (x.sender == .relay) = false

theorem LinePort.bodies_length (l : LinePort) : l.bodies.length = l.queue.length := List.length_map _

theorem LinePort.offer_took {l : LinePort} (hown : ∀ x ∈ l.queue, (x.sender == .relay) = false) (hlen : l.queue.length ≤ 8) {b : Body}
    (hb : bodyIsPresence b = false) : l.Took [b] (l.offer .engine b).1 := by
  unfold LinePort.offer
  split
  · next hm => exact ⟨rfl, by rw [if_pos hm], rfl, hown⟩
  · next hm =>
    rw [if_neg (by simp [hb])]
    unfold LinePort.offerPlain
    split
    · next hroom =>
      have hroom : l.queue.length < 8 := hroom
      have hjoin : (l.joinTail .engine b).1.queue = l.queue ++ [{ frame := l.ownFrame b l.seqCounter, sender := .engine, collisions := 0 }] :=
        joinTail_queue ..
      refine ⟨?_, ?_, ?_, ?_⟩
      · unfold LinePort.joinTail LinePort.append
        dsimp only
        split <;> rfl
      · have hbodies : (l.joinTail .engine b).1.bodies = l.bodies ++ [b] := by
          rw [LinePort.bodies, hjoin, List.map_append]
          rfl
        rw [hbodies, if_neg hm, List.take_of_length_le]
        rw [List.length_append, l.bodies_length]
        exact hroom
      · rw [hjoin, List.length_append, List.length_singleton, BitVec.ofNat_add]
        show l.seqCounter + 1#8 + _ = _
        ac_rfl
      · intro x hx
        rw [hjoin] at hx
        rcases List.mem_append.mp hx with hx | hx
        · exact hown x hx
        · rw [List.mem_singleton.mp hx]
          rfl
    · next hroom =>
      have hfull : l.queue.length = 8 := Nat.le_antisymm hlen (Nat.not_lt.mp hroom)
      have hnone : l.newestRelayed = none := by
        unfold LinePort.newestRelayed
        dsimp only
        rw [lastIdx_eq_none hown, lastIdx_eq_none fun x hx => hown x (List.mem_of_mem_tail hx)]
        split <;> rfl
      rw [hnone]
      refine ⟨rfl, ?_, rfl, hown⟩
      rw [if_neg hm, List.take_append_of_le_length (by rw [l.bodies_length, hfull]),
        List.take_of_length_le (by rw [l.bodies_length, hfull])]

theorem LinePort.Took.length {l m : LinePort} {bs : List Body} (h : l.Took bs m) (hlen : l.queue.length ≤ 8) : m.queue.length ≤ 8 := by
  rw [← LinePort.bodies_length, h.bodies]
  split
  · rw [l.bodies_length]
    exact hlen
  · exact List.length_take_le ..

theorem LinePort.Took.mode {l m : LinePort} {bs : List Body} (h : l.Took bs m) : m.mode = l.mode := by rw [h.rest]; rfl

theorem LinePort.Took.trans {l m n : LinePort} {bs cs : List Body} (h : l.Took bs m) (g : m.Took cs n) : l.Took (bs ++ cs) n := by
  refine ⟨by rw [g.rest, h.rest], ?_, ?_, g.own⟩
  · rw [g.bodies, h.mode, h.bodies]
    split
    · rfl
    · rw [← List.append_assoc, List.take_append, List.take_take, List.take_append (l₁ := l.bodies ++ bs), List.length_take]
      congr 2
      omega
  · have hg := g.number
    have hh := h.number
    generalize BitVec.ofNat 8 l.queue.length = x at *
    generalize BitVec.ofNat 8 m.queue.length = y at *
    generalize BitVec.ofNat 8 n.queue.length = z at *
    generalize n.seqCounter = a at *
    generalize m.seqCounter = b at *
    generalize l.seqCounter = c at *
    bv_omega

theorem LinePort.offerAll_took {l : LinePort} (hown : ∀ x ∈ l.queue, (x.sender == .relay) = false) (hlen : l.queue.length ≤ 8)
    {bs : List Body} (hbs : ∀ b ∈ bs, bodyIsPresence b = false) : l.Took bs (l.offerAll bs) := by
  induction bs generalizing l with
  | nil =>
    refine ⟨rfl, ?_, rfl, hown⟩
    rw [List.append_nil, List.take_of_length_le (by rw [l.bodies_length]; exact hlen), ite_self]
    rfl
  | cons b bs ih =>
    have hstep := LinePort.offer_took hown hlen (hbs b List.mem_cons_self)
    exact hstep.trans (ih hstep.own (hstep.length hlen) fun c hc => hbs c (List.mem_cons_of_mem _ hc))


/-! ## Revalidation (R167) -/

/-- R167: the frames with which a record tells the line of the resume, from the station of this number. -/
def Record.resumeFrames (r : Record) (own : Station) : List Body :=
  match r.state with
  | .giver .ended => []
  | .giver .placed => []
  | .giver g =>
    if r.addressed = true ∧ ¬(r.placed = true ∧ (g = .offering ∨ g = .unbound)) then [.cancel { tag := r.tag, reason := 1 }] else []
  | .taker .invited => [.decline { tag := r.tag, taker := own, reason := 2 }]
  | .taker .agreed => [.cancel { tag := r.tag, reason := 1 }]
  | .taker .bound => [.cancel { tag := r.tag, reason := 1 }]
  | .taker _ => []

/-- R167: a giver record before set-down, PENDING again. -/
def Record.reverted (r : Record) : Record :=
  { r with state := .giver .pending, offers := 0, frozenKey := none, request := none, addressed := false }

/-- R167: a taker record that ends at a resume, with its ENDED notice owed. -/
def Record.endsResumed (r : Record) (o : OutcomePair) : Record := (r.takerEnded o 0).withRaised .ended o (bytesOfNat16 0)

/-- R167: an ended record tells its ENDED again. -/
def Record.toldAgain (r : Record) : Record := r.withRaised .ended (r.outcome.getD outcomeDone) (bytesOfNat16 r.endValue)

/-- R167: a record as a resume leaves it. -/
def Record.revalidated (r : Record) : Record :=
  match r.state with
  | .giver .ended => r.resumed.toldAgain
  | .giver .placed => { r.resumed with setdownOwed := true }
  | .giver .offering => if r.placed then r.resumed.unbound else r.resumed.reverted
  | .giver .unbound => if r.placed then r.resumed else r.resumed.reverted
  | .giver _ => r.resumed.reverted
  | .taker .invited => r.resumed.endsResumed ⟨.refused, .noAnswer⟩
  | .taker .agreed => r.resumed.endsResumed ⟨.upset, .resumed⟩
  | .taker .bound => r.resumed.endsResumed ⟨.upset, .resumed⟩
  | .taker .ready => r.resumed
  | .taker .ended => if r.lifted = .awaited ∨ r.lifted = .owed then { r.resumed with lifted := .owed } else r.resumed.toldAgain

/-- No own frame of the resume is a PRESENCE. -/
theorem resumeFrames_plain (r : Record) (own : Station) : ∀ b ∈ r.resumeFrames own, bodyIsPresence b = false := by
  intro b hb
  unfold Record.resumeFrames at hb
  split at hb <;> simp_all [bodyIsPresence]

theorem endTaker_of_still (h : d.running = false) (ht : d.engine.ceding.turn = .none) (hr : d.recordAt i = some r)
    (hst : r.state ≠ .taker .ready) (o : OutcomePair) : d.endTaker i o = d.setSlot i (some (r.endsResumed o)) := by
  have hturn : (d.setSlot i (some (r.takerEnded o 0))).leaveTurn r.tag = d.setSlot i (some (r.takerEnded o 0)) := if_neg (by simp [ht])
  have hrec : (d.setSlot i (some (r.takerEnded o 0))).recordAt i = some (r.takerEnded o 0) := recordAt_setSlot_self d _ (recordAt_lt d hr)
  have hend : d.endTaker i o = ((d.setSlot i (some (r.takerEnded o 0))).leaveTurn r.tag).raiseEnded i := by
    simp only [Device.endTaker, hr, if_neg hst]
    rfl
  rw [hend, hturn, raiseEnded_of_record hrec, raise_of_still (d := d.setSlot i _) h hrec, setSlot_setSlot]
  rfl

theorem raiseEnded_of_still (h : d.running = false) (hr : d.recordAt i = some r) : d.raiseEnded i = d.setSlot i (some r.toldAgain) := by
  rw [raiseEnded_of_record hr, raise_of_still h hr]
  rfl

/-- R167: the revalidation of one record queues its frames and leaves it as `Record.revalidated` says. -/
theorem revalidate_of_record (h : d.running = false) (ht : d.engine.ceding.turn = .none) (hr : d.recordAt i = some r) :
    d.revalidate i = (d.withLine (d.line.offerAll (r.resumeFrames d.own))).setSlot i (some r.revalidated) := by
  have hrec (q : Record) : (d.setSlot i (some q)).recordAt i = some q := recordAt_setSlot_self d _ (recordAt_lt d hr)
  have hrev : d.revalidate i = (d.setSlot i (some r.resumed)).revalidateAs i r.resumed := by simp only [Device.revalidate, hr]
  have hgiver (x : List Body) (hx : x = if r.addressed = true then [.cancel { tag := r.tag, reason := 1 }] else []) :
      (d.setSlot i (some r.resumed)).revertGiver i r.resumed =
        (d.withLine (d.line.offerAll x)).setSlot i (some r.resumed.reverted) := by
    unfold Device.revertGiver
    rw [setSlot_setSlot, hx]
    by_cases ha : r.addressed = true
    · rw [if_pos ha]
      exact if_pos ha
    · rw [if_neg ha]
      exact if_neg ha
  have htaker {b : Body} {o : OutcomePair} (hst : r.state ≠ .taker .ready) :
      ((d.setSlot i (some r.resumed)).sendAbsorbed .engine b).endTaker i o =
        (d.withLine (d.line.offerAll [b])).setSlot i (some (r.resumed.endsResumed o)) := by
    have hsent : ((d.setSlot i (some r.resumed)).sendAbsorbed .engine b).recordAt i = some r.resumed := hrec _
    rw [endTaker_of_still (d := (d.setSlot i (some r.resumed)).sendAbsorbed .engine b) h ht hsent hst]
    exact setSlot_setSlot (d.withLine (d.line.offerAll [b])) ..
  rw [hrev]
  have hended := (raiseEnded_of_still (d := d.setSlot i (some r.resumed)) h (hrec _)).trans (setSlot_setSlot ..)
  unfold Device.revalidateAs
  split
  · next hs =>
    replace hs : r.state = .giver .ended := hs
    simp only [Record.revalidated, Record.resumeFrames, hs]
    exact hended
  · next hs =>
    replace hs : r.state = .giver .placed := hs
    simp only [Record.revalidated, Record.resumeFrames, hs]
    exact setSlot_setSlot ..
  · next hs =>
    replace hs : r.state = .giver .offering := hs
    by_cases hp : r.placed = true
    · rw [if_pos (show r.resumed.placed = true from hp)]
      simp only [Record.revalidated, Record.resumeFrames, hs, hp, if_true, true_and, true_or, not_true, and_false, if_false]
      exact setSlot_setSlot ..
    · rw [if_neg (show ¬r.resumed.placed = true from hp)]
      simp only [Record.revalidated, hs, if_neg hp]
      exact hgiver _ (by simp [Record.resumeFrames, hs, hp])
  · next hs =>
    replace hs : r.state = .giver .unbound := hs
    by_cases hp : r.placed = true
    · rw [if_pos (show r.resumed.placed = true from hp)]
      simp only [Record.revalidated, Record.resumeFrames, hs, hp, if_true, true_and, or_true, not_true, and_false, if_false]
      rfl
    · rw [if_neg (show ¬r.resumed.placed = true from hp)]
      simp only [Record.revalidated, hs, if_neg hp]
      exact hgiver _ (by simp [Record.resumeFrames, hs, hp])
  · next g hne hnp hno hnu hs =>
    replace hs : r.state = .giver g := hs
    cases g with
    | ended => exact absurd rfl hne
    | placed => exact absurd rfl hnp
    | offering => exact absurd rfl hno
    | unbound => exact absurd rfl hnu
    | pending | staking | bound =>
      simp only [Record.revalidated, hs]
      exact hgiver _ (by simp [Record.resumeFrames, hs])
  · next hs =>
    replace hs : r.state = .taker .invited := hs
    simp only [Record.revalidated, Record.resumeFrames, hs]
    exact htaker (by simp [hs])
  · next hs =>
    replace hs : r.state = .taker .agreed := hs
    simp only [Record.revalidated, Record.resumeFrames, hs]
    exact htaker (by simp [hs])
  · next hs =>
    replace hs : r.state = .taker .bound := hs
    simp only [Record.revalidated, Record.resumeFrames, hs]
    exact htaker (by simp [hs])
  · next hs =>
    replace hs : r.state = .taker .ready := hs
    simp only [Record.revalidated, Record.resumeFrames, hs]
    rfl
  · next hs =>
    replace hs : r.state = .taker .ended := hs
    by_cases hl : r.lifted = .awaited ∨ r.lifted = .owed
    · rw [if_pos (show r.resumed.lifted = .awaited ∨ r.resumed.lifted = .owed from hl)]
      simp only [Record.revalidated, Record.resumeFrames, hs, if_pos hl]
      exact setSlot_setSlot ..
    · rw [if_neg (show ¬(r.resumed.lifted = .awaited ∨ r.resumed.lifted = .owed) from hl)]
      simp only [Record.revalidated, Record.resumeFrames, hs, if_neg hl]
      exact hended

theorem revalidate_of_none (hr : d.recordAt i = none) : d.revalidate i = d := by simp only [Device.revalidate, hr]


/-- R167: the frames of the record in a slot. -/
def Device.resumeFramesAt (d : Device) (i : Nat) : List Body :=
  match d.recordAt i with
  | some r => r.resumeFrames d.own
  | none => []

/-- What the revalidation of some slots makes of a part. -/
structure Device.Revalidates (d : Device) (l : List Nat) (e : Device) : Prop where
  beside : e = { d with line := e.line, engine := { d.engine with table := e.engine.table } }
  line : d.line.Took (l.flatMap d.resumeFramesAt) e.line
  record : ∀ j, e.recordAt j = if j ∈ l then (d.recordAt j).map Record.revalidated else d.recordAt j

theorem Device.Revalidates.link {l : List Nat} (g : d.Revalidates l e) : e.link = d.link := by rw [g.beside]

theorem Device.Revalidates.accounts {l : List Nat} (g : d.Revalidates l e) : e.accounts = d.accounts := by rw [g.beside]

theorem Device.Revalidates.peers {l : List Nat} (g : d.Revalidates l e) : e.peers = d.peers := by rw [g.beside]

/-- A part in which the records can be revalidated: it does not run, no turn is open, and its queue holds own frames alone. -/
structure Device.Waking (d : Device) : Prop where
  still : d.running = false
  turn : d.engine.ceding.turn = .none
  own : ∀ x ∈ d.line.queue, (x.sender == .relay) = false
  room : d.line.queue.length ≤ 8

theorem Device.Waking.revalidated (h : d.Waking) {l : List Nat} (g : d.Revalidates l e) : e.Waking := by
  obtain ⟨hbeside, hline, -⟩ := g
  refine ⟨?_, ?_, hline.own, hline.length h.room⟩
  · rw [hbeside]
    exact h.still
  · rw [hbeside]
    exact h.turn

theorem revalidate_revalidates (h : d.Waking) (i : Nat) : d.Revalidates [i] (d.revalidate i) := by
  have hnil : d.line.Took [] d.line := LinePort.offerAll_took h.own h.room (bs := []) fun b hb => nomatch hb
  cases hr : d.recordAt i with
  | none =>
    rw [revalidate_of_none hr]
    refine ⟨rfl, ?_, fun j => ?_⟩
    · simpa [Device.resumeFramesAt, hr] using hnil
    · split
      · next hj => rw [List.mem_singleton.mp hj, hr]; rfl
      · rfl
  | some r =>
    rw [revalidate_of_record h.still h.turn hr]
    refine ⟨rfl, ?_, fun j => ?_⟩
    · simpa [Device.resumeFramesAt, hr] using LinePort.offerAll_took h.own h.room (resumeFrames_plain r d.own)
    · by_cases hj : j = i
      · subst hj
        rw [if_pos (List.mem_singleton.mpr rfl), hr]
        exact recordAt_setSlot_self (d.withLine _) _ (recordAt_lt d hr)
      · rw [if_neg (by simpa using hj)]
        exact recordAt_setSlot_of_ne (d.withLine _) _ (Ne.symm hj)

theorem foldl_revalidates (h : d.Waking) {l : List Nat} (hl : l.Nodup) :
    d.Revalidates l (l.foldl (fun d i => d.revalidate i) d) := by
  induction l generalizing d with
  | nil => exact ⟨rfl, LinePort.offerAll_took h.own h.room (bs := []) (fun b hb => nomatch hb), fun j => by simp⟩
  | cons i l ih =>
    obtain ⟨hi, hl⟩ := List.nodup_cons.mp hl
    have hstep := revalidate_revalidates h i
    have hrest := ih (h.revalidated hstep) hl
    have hown : (d.revalidate i).own = d.own := by
      unfold Device.own
      rw [hstep.line.rest]
    have hother (j : Nat) (hj : j ∈ l) : (d.revalidate i).recordAt j = d.recordAt j := by
      rw [hstep.record, if_neg]
      rintro hji
      exact hi (List.mem_singleton.mp hji ▸ hj)
    have hframes : l.flatMap (d.revalidate i).resumeFramesAt = l.flatMap d.resumeFramesAt := by
      refine List.flatMap_congr fun j hj => ?_
      unfold Device.resumeFramesAt
      rw [hother j hj, hown]
    refine ⟨?_, ?_, fun j => ?_⟩
    · rw [List.foldl_cons, hrest.beside, hstep.beside]
    · have hline := hstep.line.trans hrest.line
      rw [hframes] at hline
      simpa using hline
    · rw [List.foldl_cons, hrest.record, hstep.record]
      by_cases hj : j = i
      · subst hj
        simp [hi]
      · by_cases hjl : j ∈ l <;> simp [hj, hjl]

/-! ## The whole resume (R166) -/

/-- R164, R87, R166: what is retained, with the downtime charged, joining again. -/
def Device.rejoined (d : Device) : Device := (d.retained.chargeDowntime d.power.backup).rejoin

/-- R166, R127: the run list taken up, the retention-read flag and START; the part runs again. -/
def Device.announced (d : Device) (downtime : Nat) : Device :=
  ((d.withRun d.engine.run.resumed).withLink { d.link with
    retentionRead := true, notices := d.link.notices ++ [Notice.start downtime] }).withPower
      { d.power with state := .run, mainPower := true, resetHeld := false }

theorem announceStart_of_room (h : d.link.notices.length < 8) (n : Nat) :
    (d.withRun d.engine.run.resumed).announceStart n = (d.announced n).moved := by
  unfold Device.announceStart
  dsimp only
  rewrite [pushNotice_of_room]
  · exact moveOwed_eq_moved rfl
  · exact h

theorem rejoin_beside (d : Device) : d.rejoin = { d with peers := d.rejoin.peers, line := d.rejoin.line } := by
  unfold Device.rejoin
  split <;> rfl

theorem rejoin_queue (d : Device) : d.rejoin.line.queue = d.line.queue := by
  unfold Device.rejoin
  split <;> rfl

theorem rejoin_running (d : Device) : d.rejoin.running = d.running := by
  unfold Device.rejoin
  split <;> rfl

theorem rejoin_accounts (d : Device) : d.rejoin.accounts = d.accounts := by
  unfold Device.rejoin
  split <;> rfl

theorem rejoin_engine (d : Device) : d.rejoin.engine = d.engine := by
  unfold Device.rejoin
  split <;> rfl

theorem rejoin_link (d : Device) : d.rejoin.link = d.link := by
  unfold Device.rejoin
  split <;> rfl

/-- R166: a resume charges the downtime, revalidates the records and announces the start. -/
structure Device.Resumes (d e : Device) : Prop where
  downtime : d.retained.Downtime (d.retained.chargeDowntime d.power.backup)
  told : (d.retained.chargeDowntime d.power.backup).link.notices.length ≤ 1
  valid : d.rejoined.Revalidates slotList e
  eq : d.resume = (e.announced d.power.backup).moved

theorem resume_resumes (h : d.power.state = .retain) : ∃ e, d.Resumes e := by
  have hstill : d.retained.running = false := by
    show (d.power.state == .run) = false
    rw [h]
    rfl
  obtain ⟨hdown, htold⟩ := chargeDowntime_downtime hstill rfl d.power.backup
  have hqueue : d.rejoined.line.queue = [] := by
    unfold Device.rejoined
    rw [rejoin_queue, hdown.beside]
    rfl
  have hwake : d.rejoined.Waking := by
    refine ⟨?_, ?_, fun x hx => ?_, by rewrite [hqueue]; exact Nat.zero_le _⟩
    · exact (rejoin_running _).trans (hdown.running.trans hstill)
    · unfold Device.rejoined
      rw [rejoin_engine, hdown.beside]
      rfl
    · rw [hqueue] at hx
      cases hx
  have hvalid : d.rejoined.Revalidates slotList (forSlots (fun i d => d.revalidate i) d.rejoined) :=
    foldl_revalidates hwake List.nodup_range
  generalize hv : forSlots (fun i d => d.revalidate i) d.rejoined = v at hvalid
  refine ⟨v, hdown, htold, hvalid, ?_⟩
  have hlink : v.link.notices.length < 8 := by
    rw [hvalid.link, Device.rejoined, rejoin_link]
    exact Nat.lt_succ_of_le (htold.trans (by decide))
  rw [← announceStart_of_room hlink, ← hv]
  unfold Device.resume Device.rejoined
  rfl

theorem exec_resume_eq (hr : s.power.state = .retain) (hl : s.power.holdLatch = false) : exec .resume s = .next (s.after s.resume) := by
  show act Device.tryResume s = _
  unfold act Device.tryResume
  rw [if_pos ⟨hr, hl⟩]
  rfl

/-- Settles O8. -/
theorem resumeChargesTheDowntime : Obligations.ResumeChargesTheDowntime := by
  intro s hr hl hlen
  obtain ⟨e, hres⟩ := resume_resumes hr
  refine ⟨s.resume, exec_resume_eq hr hl, fun p => ?_⟩
  have hacc : s.resume.accounts = (s.retained.chargeDowntime s.power.backup).accounts := by
    have hmoved : (e.announced s.power.backup).moved.accounts = e.accounts := rfl
    rw [hres.eq, hmoved, hres.valid.accounts, Device.rejoined, rejoin_accounts]
  have hcharged := (foldl_charged s.power.backup s.retained allPositions_nodup).account p
  have hp : s.resume.accountAt p = _ := (accountAt_congr hacc p).trans hcharged
  rw [hp]
  cases ha : s.accountAt p with
  | none =>
    have ha : s.retained.accountAt p = none := ha
    simp [ha]
  | some a =>
    have ha' : s.retained.accountAt p = some a := ha
    obtain ⟨hbin, hcls, hloc⟩ := judged_class (a.charged s.power.backup)
    rw [if_pos (mem_allPositions hlen ha), ha']
    exact ⟨_, rfl, hbin, hcls, hloc, judged_wait _, judged_e _⟩


/-! ## The records after a resume (R167) -/

/-- R167: the record of a slot ends at the resume, or tells its end again. -/
def Record.TellsEnd (r : Record) : Prop :=
  match r.state with
  | .giver g => g = .ended
  | .taker .ready => False
  | .taker .ended => r.lifted ≠ .awaited ∧ r.lifted ≠ .owed
  | .taker _ => True

theorem revalidated_spec (r : Record) (ns : List PendingNotice) : r.Revalidated { r.revalidated with notices := ns } := by
  unfold Record.Revalidated Record.revalidated
  cases hs : r.state with
  | giver g =>
    cases g with
    | ended | placed | pending | staking | bound => simp [hs, Record.resumed, Record.toldAgain, Record.withRaised, Record.reverted]
    | offering | unbound =>
      cases hp : r.placed <;> simp [hs, hp, Record.resumed, Record.unbound, Record.reverted]
  | taker t =>
    cases t with
    | invited | agreed | bound | ready =>
      simp [hs, Record.resumed, Record.endsResumed, Record.takerEnded, Record.withRaised]
    | ended =>
      by_cases hl : r.lifted = .awaited ∨ r.lifted = .owed <;>
        simp [hs, hl, Record.resumed, Record.toldAgain, Record.withRaised]

/-- R167: a record that ends at the resume owes its ENDED, with the outcome it has. -/
theorem revalidated_tells (h : r.TellsEnd) : ∃ q : Record, r.revalidated = q.toldAgain := by
  unfold Record.TellsEnd at h
  unfold Record.revalidated
  cases hs : r.state with
  | giver g =>
    rw [hs] at h
    obtain rfl : g = .ended := h
    exact ⟨_, rfl⟩
  | taker t =>
    rw [hs] at h
    cases t with
    | invited => exact ⟨r.resumed.takerEnded ⟨.refused, .noAnswer⟩ 0, rfl⟩
    | agreed | bound => exact ⟨r.resumed.takerEnded ⟨.upset, .resumed⟩ 0, rfl⟩
    | ready => exact h.elim
    | ended =>
      refine ⟨r.resumed, if_neg ?_⟩
      rintro (hl | hl)
      · exact h.1 hl
      · exact h.2 hl

theorem revalidated_endCollected (r : Record) : r.revalidated.endCollected = false := by
  unfold Record.revalidated
  split
  any_goals rfl
  all_goals split <;> rfl

theorem moveOwed_recordAt_none (h : d.recordAt i = none) : d.moveOwed.recordAt i = none := by
  refine moveOwed_keeps (Q := fun e => e.recordAt i = none) (fun e he => ?_) h
  rcases moveOne_record e i with hsame | ⟨q, rest, hq, -⟩
  · exact hsame.trans he
  · rw [he] at hq
    cases hq

theorem recordAt_of_length (hlen : d.engine.table.length = 16) (hr : d.recordAt i = some r) : i ∈ slotList :=
  List.mem_range.mpr (Nat.lt_of_lt_of_eq (recordAt_lt d hr) hlen)

theorem flatMap_range {α β : Type} (t : List (Option α)) (f : Option α → List β) :
    (List.range t.length).flatMap (fun i => f (t[i]?).join) = t.flatMap f := by
  have ht : (List.range t.length).map (fun i => (t[i]?).join) = t := by
    refine List.ext_getElem (by simp) fun i h1 h2 => ?_
    simp [h2]
  conv_rhs => rw [← ht]
  rw [List.flatMap_map]

/-- R167: the frames of the records, in the order of the slots. -/
theorem resumeFrames_table (hlen : d.engine.table.length = 16) :
    slotList.flatMap d.resumeFramesAt =
      d.engine.table.flatMap fun x => match x with
        | some r => r.resumeFrames d.own
        | none => [] := by
  rw [← flatMap_range, hlen]
  refine List.flatMap_congr fun i _ => ?_
  unfold Device.resumeFramesAt Device.recordAt
  cases d.engine.table[i]? with
  | none => rfl
  | some o => cases o <;> rfl

theorem rejoin_settings (d : Device) : d.rejoin.own = d.own ∧ d.rejoin.line.mode = d.line.mode := by
  unfold Device.rejoin
  split <;> exact ⟨rfl, rfl⟩

/-- R164: the records as they are revalidated are the retained ones, but for notices raised in the downtime. -/
theorem Device.Resumes.hushed (h : d.Resumes e) : d.rejoined.hushed = d.hushed := by
  unfold Device.hushed Device.rejoined
  rw [rejoin_engine]
  exact h.downtime.records

theorem Device.Resumes.record (h : d.Resumes e) (hr : d.recordAt i = some r) :
    ∃ q, d.rejoined.recordAt i = some q ∧ q.hushed = r.hushed := by
  have hh := hushed_recordAt h.hushed i
  rw [hr] at hh
  exact Option.map_eq_some_iff.mp hh

theorem Device.Resumes.record_none (h : d.Resumes e) (hr : d.recordAt i = none) : d.rejoined.recordAt i = none := by
  have hh := hushed_recordAt h.hushed i
  rw [hr] at hh
  exact Option.map_eq_none_iff.mp hh

theorem Device.Resumes.own (h : d.Resumes e) : d.rejoined.own = d.own := by
  unfold Device.rejoined
  rw [(rejoin_settings _).1, h.downtime.beside]
  rfl

theorem Device.Resumes.mode (h : d.Resumes e) : d.rejoined.line.mode = .mute ↔ d.line.requested = .mute := by
  unfold Device.rejoined
  rw [(rejoin_settings _).2, h.downtime.beside]
  unfold LinePort.mode
  simp [Device.retained]

theorem Device.Resumes.queue (h : d.Resumes e) : d.rejoined.line.queue = [] := by
  unfold Device.rejoined
  rw [rejoin_queue, h.downtime.beside]
  rfl

theorem Device.Resumes.framesAt (h : d.Resumes e) (i : Nat) : d.rejoined.resumeFramesAt i = d.resumeFramesAt i := by
  unfold Device.resumeFramesAt
  rw [h.own]
  cases hr : d.recordAt i with
  | none => rw [h.record_none hr]
  | some r =>
    obtain ⟨q, hq, hqr⟩ := h.record hr
    rw [hq]
    have hframes : q.hushed.resumeFrames d.own = r.hushed.resumeFrames d.own := congrArg (Record.resumeFrames · d.own) hqr
    exact hframes

/-- Settles O9. -/
theorem resumeRevalidatesEveryRecord : Obligations.ResumeRevalidatesEveryRecord := by
  intro s hr hl hlen frames told
  obtain ⟨e, hres⟩ := resume_resumes hr
  have hmoved : s.resume = (e.announced s.power.backup).moveOwed := hres.eq.trans (moveOwed_eq_moved rfl).symm
  refine ⟨s.resume, exec_resume_eq hr hl, fun i => ?_, ?_⟩
  · rw [hmoved]
    cases hi : s.recordAt i with
    | none =>
      refine moveOwed_recordAt_none (d := e.announced _) (?_ : e.recordAt i = none)
      rw [hres.valid.record, hres.record_none hi]
      split <;> rfl
    | some r =>
      obtain ⟨q, hq, hqr⟩ := hres.record hi
      have hrec : e.recordAt i = some q.revalidated := by
        rw [hres.valid.record, if_pos (recordAt_of_length hlen hi), hq]
        rfl
      obtain ⟨r', hr', hkept⟩ := moveOwed_hasRecord (d := e.announced s.power.backup) (i := i) (r := q.revalidated)
        (by rw [revalidated_endCollected, Bool.and_false]) ⟨q.revalidated, hrec, rfl⟩
      refine ⟨r', hr', ?_, fun htold o ho => moveOwed_tells (d := e.announced _) ?_⟩
      · have hvalid := revalidated_spec q r'.notices
        rw [← hkept] at hvalid
        have hvalid : q.hushed.Revalidated r' := hvalid
        rw [hqr] at hvalid
        exact hvalid
      · have htold : q.TellsEnd := by
          have hh : q.hushed.TellsEnd := by
            rw [hqr]
            exact htold
          exact hh
        obtain ⟨x, hx⟩ := revalidated_tells htold
        rw [hx] at hrec hkept
        have hxo : x.outcome = some o := by
          rw [hkept] at ho
          exact ho
        refine .inr ⟨_, _, hrec, self_mem_addPending .., ?_⟩
        rw [hkept, hxo]
        rfl
  · have hline : s.resume.line = e.line := by
      rw [hmoved, moveOwed_line]
      rfl
    rw [hline]
    refine hres.valid.line.bodies.trans ?_
    have hbodies : s.rejoined.line.bodies = [] := by
      rw [LinePort.bodies, hres.queue]
      rfl
    have hframes : slotList.flatMap s.rejoined.resumeFramesAt = slotList.flatMap s.resumeFramesAt :=
      List.flatMap_congr fun i _ => hres.framesAt i
    rw [hbodies, hframes, resumeFrames_table hlen, List.nil_append]
    exact if_congr hres.mode rfl rfl


/-! ## What a resume keeps (R164, R166) -/

theorem Device.Resumes.power (h : d.Resumes e) : e.power = d.power := by
  have hrejoin (d : Device) : d.rejoin.power = d.power := by rw [rejoin_beside]
  rw [h.valid.beside, Device.rejoined, hrejoin, h.downtime.beside]
  rfl

theorem Device.Resumes.claims (h : d.Resumes e) : e.claims = d.retained.claims := by
  have hrejoin (d : Device) : d.rejoin.claims = d.claims := by rw [rejoin_beside]
  rw [h.valid.beside, Device.rejoined, hrejoin, h.downtime.beside]

theorem Device.Resumes.engine (h : d.Resumes e) :
    e.engine = { d.engine with adoption := Adoption.initial, ceding := Ceding.initial, table := e.engine.table } := by
  have hengine : e.engine = { d.rejoined.engine with table := e.engine.table } := by
    conv_lhs => rw [h.valid.beside]
  rw [hengine, Device.rejoined, rejoin_engine, h.downtime.beside]
  rfl

theorem Device.Resumes.link (h : d.Resumes e) :
    e.link = { d.retained.link with
      notices := e.link.notices, flags := { SummaryFlags.clear with budget := e.link.flags.budget } } := by
  have hlink : e.link = (d.retained.chargeDowntime d.power.backup).link := by rw [h.valid.link, Device.rejoined, rejoin_link]
  rw [hlink]
  conv_lhs => rw [h.downtime.beside]
  rfl

theorem Device.Resumes.notices (h : d.Resumes e) : e.link.notices.length ≤ 1 := by
  rw [h.valid.link, Device.rejoined, rejoin_link]
  exact h.told

theorem rejoin_line (d : Device) :
    ∃ g t, d.rejoin.line = { d.line with generator := g, tx := t } ∧ (d.configured = true → g = d.line.station.toNat) := by
  unfold Device.rejoin
  split
  · exact ⟨_, _, rfl, fun _ => rfl⟩
  · next h => exact ⟨_, _, rfl, fun hc => absurd hc h⟩

/-- R164, R166 step 2: the Line Port after a resume. -/
theorem Device.Resumes.line (h : d.Resumes e) :
    ∃ q n t m g, e.line = { d.retained.line with queue := q, seqCounter := n, tx := t, remaining := m, generator := g } ∧
      n = d.line.seqCounter + BitVec.ofNat 8 q.length ∧ (d.configured = true → g = d.line.station.toNat) := by
  obtain ⟨g, t, hl, hg⟩ := rejoin_line (d.retained.chargeDowntime d.power.backup)
  have hcharged : (d.retained.chargeDowntime d.power.backup).line = d.retained.line := chargeDowntime_line _
  have hconf : (d.retained.chargeDowntime d.power.backup).configured = d.configured := by
    rw [h.downtime.beside]
    rfl
  rw [hcharged] at hl hg
  have hnumber := h.valid.line.number
  have hrest := h.valid.line.rest
  rw [h.queue, List.length_nil] at hnumber
  have hl : d.rejoined.line = { d.retained.line with generator := g, tx := t } := hl
  rw [hl] at hrest hnumber
  exact ⟨_, _, _, _, g, hrest, by simpa [Device.retained] using hnumber, fun hc => hg (hconf.trans hc)⟩

theorem rejoin_peers (d : Device) :
    d.rejoin.peers = if d.peers.state = .unconfigured then d.peers
      else { d.peers with state := .joining, joinTimer := some 4, silenceTimer := some 20 } := by
  unfold Device.rejoin Device.configured
  by_cases hu : d.peers.state = .unconfigured
  · rw [if_pos hu, if_neg (by simp [hu])]
  · rw [if_neg hu, if_pos (by simpa using hu)]
    rfl

theorem Device.Resumes.peers (h : d.Resumes e) :
    e.peers = if d.peers.state = .unconfigured then d.retained.peers
      else { d.retained.peers with state := .joining, joinTimer := some 4, silenceTimer := some 20 } := by
  rw [h.valid.peers, Device.rejoined, rejoin_peers, h.downtime.beside]
  rfl

/-- R79, R87: a budget is spent in the downtime when the seconds take an account to its limit. -/
theorem charged_crosses_iff (a : Account) (k : Nat) :
    (a.charged k).crosses = true ↔ a.spent = false ∧ ∃ l, a.cls.limit = some l ∧ l ≤ a.e + a.rate * k := by
  have hmin (n x : Nat) (hn : n ≤ 65535) : n ≤ min 65535 x ↔ n ≤ x := by omega
  unfold Account.crosses Account.charged
  cases h : a.cls with
  | ambient => simp [BinClass.limit]
  | chilled | frozen => simp [BinClass.limit, Config.countMax, hmin, and_comm]

theorem Device.Resumes.budget (h : d.Resumes e) (hlen : d.accounts.slots.length = 16) :
    e.link.flags.budget = true ↔ ∃ p a l, d.accountAt p = some a ∧ a.spent = false ∧ a.cls.limit = some l ∧
      l ≤ a.e + a.rate * d.power.backup := by
  rw [h.valid.link, Device.rejoined, rejoin_link]
  unfold Device.chargeDowntime
  rw [(foldl_charged d.power.backup d.retained allPositions_nodup).budget]
  constructor
  · rintro (hflag | ⟨p, -, a, ha, hc⟩)
    · cases hflag
    · obtain ⟨hs, l, hlim, hle⟩ := (charged_crosses_iff a _).mp hc
      exact ⟨p, a, l, ha, hs, hlim, hle⟩
  · rintro ⟨p, a, l, ha, hs, hlim, hle⟩
    exact .inr ⟨p, mem_allPositions hlen ha, a, ha, (charged_crosses_iff a _).mpr ⟨hs, l, hlim, hle⟩⟩

/-- R49, R164: the own claims that a resume finds again. -/
theorem retained_claims (d : Device) : d.retained.claims = { entries := d.keptClaims, watches := d.claims.watches } := by
  have hkept : (d.claims.entries.filter d.keepsClaim).map Claim.resumed = d.keptClaims := by
    rw [← List.filterMap_eq_filter, List.map_filterMap]
    refine List.filterMap_congr fun x _ => ?_
    unfold Device.keepsClaim ownUse Claim.resumed
    cases hx : x.own with
    | none => simp [hx]
    | some o =>
      obtain ⟨use, _, _, _, _⟩ := o
      cases use with
      | runHold | linger => simp [hx]
      | slot i =>
        cases hr : d.recordAt i with
        | none => simp [hx, Device.recordIs, hr]
        | some r =>
          by_cases hk : r.isGiver = true ∧ r.isEnded = false ∧ r.placed = true
          · simp [hx, Device.recordIs, hr, hk]
          · simp only [hr, if_neg hk]
            simpa [hx, Device.recordIs, hr] using hk
  rw [← hkept]
  rfl


theorem exec_mainPowerReturn_eq (hr : s.power.state = .retain) (hl : s.power.holdLatch = false) (hreset : s.power.resetHeld = false) :
    exec .mainPowerReturn s = .next (s.after s.resume) := by
  have hreturn : s.mainPowerReturn = s.resume := by
    have hcold : s.tryColdStart = s.toDevice := by simp [Device.tryColdStart, hr, hl]
    have hres : s.tryResume = s.resume := if_pos ⟨hr, hl⟩
    simp [Device.mainPowerReturn, hr, hreset, hcold, hres]
  show act Device.mainPowerReturn s = _
  unfold act
  rw [hreturn]
  rfl

/-- R159: RUN_ENDED is queued, or the queue is full. -/
theorem moved_runEnded (hn : d.link.notices.length ≤ 8) (hm : d.engine.run.mark = .owed) :
    (d.moved.engine.run.mark = .queued ∧ d.runEndedOwed ∈ d.moved.link.notices) ∨
      (d.moved.engine.run.mark = .owed ∧ d.moved.link.notices.length = 8) := by
  by_cases hroom : d.owedNotices.length ≤ 8 - d.link.notices.length
  · have hmem : d.runEndedOwed ∈ d.owedNotices := by simp [Device.owedNotices, hm]
    refine .inl ⟨if_pos ⟨hm, hroom⟩, List.mem_append_right _ ?_⟩
    rwa [List.take_of_length_le hroom]
  · refine .inr ⟨(if_neg fun h => hroom h.2).trans hm, ?_⟩
    have hlen : d.moved.link.notices.length = d.link.notices.length + min (8 - d.link.notices.length) d.owedNotices.length := by
      simp [Device.moved]
    omega

/-- Settles O7. -/
theorem resumeKeepsWhatIsRetained : Obligations.ResumeKeepsWhatIsRetained := by
  intro s hr hl
  obtain ⟨e, hres⟩ := resume_resumes hr
  obtain ⟨q, n, t, m, g, hline, hn, hg⟩ := hres.line
  have hengine := hres.engine
  have hlink := hres.link
  have hd : s.resume = (e.announced s.power.backup).moved := hres.eq
  have hdline : s.resume.line = e.line := by rw [hd]; rfl
  have hdpeers : s.resume.peers = e.peers := by rw [hd]; rfl
  have hrun : (e.announced s.power.backup).engine.run = s.engine.run.resumed := by
    show e.engine.run.resumed = _
    rw [hengine]
  have hdrun : s.resume.engine.run = { s.engine.run.resumed with mark := s.resume.engine.run.mark } := by
    rw [hd, ← hrun]
    rfl
  have hflags : s.resume.link.flags = { SummaryFlags.clear with budget := s.resume.link.flags.budget } := by
    rw [hd]
    show e.link.flags = { SummaryFlags.clear with budget := e.link.flags.budget }
    conv_lhs => rw [hlink]
  have hnotices : (e.announced s.power.backup).link.notices.length ≤ 8 := by
    show (e.link.notices ++ [_]).length ≤ 8
    have := hres.notices
    simp
    omega
  refine ⟨s.resume, exec_resume_eq hr hl, fun hreset => exec_mainPowerReturn_eq hr hl hreset, by rw [hd]; rfl, ?_, ?_⟩
  · rw [hd]
    show e.power.holdLatch = _
    rw [hres.power, hl]
  rw [hdline, hline, hdpeers, hres.peers]
  refine ⟨rfl, rfl, rfl, rfl, rfl, rfl, rfl, hn, ?_, ?_, ?_, hdrun, fun o hend ho => ?_, fun hne hno => ?_, ?_⟩
  · rw [hd]
    show e.link.position = _
    rw [hlink]
    rfl
  · rw [hd]
    show e.engine.tagCounter = _
    rw [hengine]
  · rw [hd, ← retained_claims]
    exact hres.claims
  · have hmark : (e.announced s.power.backup).engine.run.mark = .owed := by
      rw [hrun]
      exact if_pos hend
    have howed : (e.announced s.power.backup).runEndedOwed =
        { kind := NoticeKind.runEnded, outcome := o, slot := none, tag := none, values := s.engine.run.endValues, station := 0 } := by
      unfold Device.runEndedOwed
      rw [hrun]
      simp only [RunList.resumed, ho]
      rfl
    rw [hd, ← howed]
    exact moved_runEnded hnotices hmark
  · have hmark : (e.announced s.power.backup).engine.run.mark = s.engine.run.mark := by
      rw [hrun]
      exact if_neg hne
    rw [hd, ← hmark]
    exact if_neg fun h => hno (hmark.symm.trans h.1)
  · have hceding : s.resume.engine.adoption = Adoption.initial ∧ s.resume.engine.ceding = Ceding.initial := by
      rw [hd]
      show e.engine.adoption = _ ∧ e.engine.ceding = _
      rw [hengine]
      exact ⟨rfl, rfl⟩
    have hdlink : s.resume.link = { s.retained.link with
        retentionRead := true, notices := s.resume.link.notices, flags := s.resume.link.flags } := by
      rw [hd]
      have hmoved : (e.announced s.power.backup).moved.link =
          { e.link with retentionRead := true, notices := (e.announced s.power.backup).moved.link.notices } := rfl
      refine hmoved.trans ?_
      conv_lhs => rw [hlink]
      conv_rhs => rw [show (e.announced s.power.backup).moved.link.flags = e.link.flags from rfl, hlink]
    have hbudget : s.resume.link.flags.budget = e.link.flags.budget := by rw [hd]; rfl
    have hstart : Notice.start s.power.backup ∈ s.resume.link.notices := by
      rw [hd]
      exact List.mem_append_left _ (List.mem_append_right _ (List.mem_singleton.mpr rfl))
    refine ⟨?_, ?_, by rw [hceding.1]; rfl, by rw [hceding.2]; rfl, by rw [hceding.2]; rfl, by rw [hdlink]; rfl, by rw [hdlink]; rfl,
      by rw [hdlink]; rfl, by rw [hdlink]; rfl, by rw [hdlink]; rfl, by rw [hdlink], hflags, fun hlen => ?_, hstart, ?_⟩
    · split <;> rfl
    · split <;> rfl
    · rw [hbudget]
      exact hres.budget hlen
    · by_cases hu : s.peers.state = .unconfigured
      · rw [if_pos hu, if_pos hu]
        exact ⟨hu, rfl, rfl⟩
      · rw [if_neg hu, if_neg hu]
        exact ⟨rfl, rfl, rfl, hg (by simpa [Device.configured] using hu)⟩

end Sys2Proof.Machine
end

section
/-! PROOF. A station falls silent (R43, R44): what the retries of staking requests leave alone (R57), and the loss of a partner. -/

namespace Sys2Proof.Machine

set_option Elab.async false

variable {d e : Device} {s : State} {i j : Nat} {r q x : Record} {st : Station}

/-! ## What staking attempts leave alone (R55 to R57) -/

/-- What the single moves of a staking attempt keep, for the record in STAKING that they serve. -/
structure KeptByStaking (Q : Device → Prop) : Prop where
  pass : ∀ e c j t q, e.recordAt j = some q → q.state = .giver .staking → Q e → Q (e.passStake c j t)
  request : ∀ e j q x, e.recordAt j = some q → q.state = .giver .staking → Q e → Q (e.setRequest j x)
  stake : ∀ e j q k, e.recordAt j = some q → q.state = .giver .staking → Q e → Q (e.stakeCell j q k).1

theorem KeptByStaking.attempt {Q : Device → Prop} (hQ : KeptByStaking Q) (n i : Nat) (h : Q d) : Q (attempt n i d) := by
  induction n generalizing i d with
  | zero => exact h
  | succ n ih =>
    unfold Machine.attempt
    split
    · exact h
    · next r hr =>
      split
      · next hst =>
        split
        · split
          · exact hQ.pass _ _ _ _ r hr hst.1 h
          · exact hQ.request _ _ r _ hr hst.1 h
        · split
          · exact hQ.request _ _ r _ hr hst.1 h
          · dsimp only
            split
            · exact hQ.request _ _ r _ hr hst.1 h
            · split
              · exact hQ.request _ _ r _ hr hst.1 h
              · refine foldl_keeps (Q := Q) (fun e c he => foldl_keeps (Q := Q) (fun e j he => ?_) _ he) _ (hQ.stake _ _ r _ hr hst.1 h)
                split
                · exact ih j he
                · exact he
      · exact h

theorem KeptByStaking.retry {Q : Device → Prop} (hQ : KeptByStaking Q) (cells : List Cell) (p : RequestStatus → Bool) (h : Q d) :
    Q (d.retry cells p) := by
  refine forSlots_keeps (Q := Q) (fun e i he => ?_) h
  split
  · exact hQ.attempt _ i he
  · exact he

theorem modRecord_recordAt_of_ne (h : j ≠ i) (f : Record → Record) : (d.modRecord j f).recordAt i = d.recordAt i := by
  unfold Device.modRecord
  split
  · exact recordAt_setSlot_of_ne d _ h
  · rfl

theorem queueOffer_recordAt_of_ne (h : j ≠ i) : (d.queueOffer j).recordAt i = d.recordAt i := by
  unfold Device.queueOffer
  split
  · exact recordAt_setSlot_of_ne d _ h
  · rfl

theorem enterOffering_recordAt_of_ne (h : j ≠ i) : (d.enterOffering j).recordAt i = d.recordAt i := by
  unfold Device.enterOffering
  dsimp only
  split
  · exact (queueOffer_recordAt_of_ne h).trans (modRecord_recordAt_of_ne h _)
  · exact modRecord_recordAt_of_ne h _

theorem stakeCell_recordAt_of_ne (h : j ≠ i) (q : Record) (k : Nat) : (d.stakeCell j q k).1.recordAt i = d.recordAt i := by
  have hroom : (d.makeRoom none).1.recordAt i = d.recordAt i := recordAt_congr (congrArg Engine.table (makeRoom_table none)) i
  unfold Device.stakeCell
  dsimp only
  split
  · exact (modRecord_recordAt_of_ne h _).trans hroom
  · exact (modRecord_recordAt_of_ne h _).trans ((modRecord_recordAt_of_ne (d := (d.makeRoom none).1) h _).trans hroom)

/-- Staking attempts change the records in STAKING alone. -/
theorem kept_recordAt (hs : r.state ≠ .giver .staking) : KeptByStaking fun e => e.recordAt i = some r := by
  have hne {e : Device} {j : Nat} {q : Record} (hr : e.recordAt i = some r) (hq : e.recordAt j = some q)
      (hst : q.state = .giver .staking) : j ≠ i := by
    rintro rfl
    obtain rfl := Option.some.inj (hr.symm.trans hq)
    exact hs hst
  refine ⟨fun e c j t q hq hst he => ?_, fun e j q x hq hst he => ?_, fun e j q k hq hst he => ?_⟩
  · exact (enterOffering_recordAt_of_ne (d := e.modOwn c _) (hne he hq hst)).trans he
  · exact (modRecord_recordAt_of_ne (hne he hq hst) _).trans he
  · exact (stakeCell_recordAt_of_ne (hne he hq hst) q k).trans he

/-- No entry of a station stands in the claim map but as an own stake. -/
def Device.NoHeardOf (st : Station) (d : Device) : Prop := ∀ x ∈ d.claims.entries, x.own = none → x.claimant ≠ st

theorem noHeardOf_modOwn {c : Cell} {f : Claim → Claim} (hf : ∀ x, (f x).own = none → x.own = none) (h : d.NoHeardOf st) :
    (d.modOwn c f).NoHeardOf st := by
  intro y hy hown
  obtain ⟨x, hx, rfl⟩ := List.mem_map.mp hy
  split at hown
  · next hc =>
    rw [hf x hown] at hc
    cases hc
  · next hc =>
    rw [if_neg hc]
    exact h x hx hown

theorem noHeardOf_sub (h : d.NoHeardOf st) {es : List Claim} (hes : ∀ x ∈ es, x ∈ d.claims.entries) : (d.withEntries es).NoHeardOf st :=
  fun x hx => h x (hes x hx)

theorem noHeardOf_removeHeard (c : Cell) (o : Station) (h : d.NoHeardOf st) : (d.removeHeard c o).NoHeardOf st :=
  noHeardOf_modOwn (fun _ hx => Option.map_eq_none_iff.mp hx) (noHeardOf_sub h fun _ hx => List.mem_of_mem_filter hx)

theorem noHeardOf_makeRoom (o : Option Station) (h : d.NoHeardOf st) : (d.makeRoom o).1.NoHeardOf st := by
  unfold Device.makeRoom
  split
  · exact h
  · unfold Device.evict
    split
    · exact h
    · exact noHeardOf_removeHeard _ _ h
    · exact noHeardOf_removeHeard _ _ h

theorem noHeardOf_congr (hc : e.claims.entries = d.claims.entries) (h : d.NoHeardOf st) : e.NoHeardOf st := by
  unfold Device.NoHeardOf
  rw [hc]
  exact h

theorem modRecord_claims (f : Record → Record) : (d.modRecord i f).claims = d.claims := by
  unfold Device.modRecord
  split <;> rfl

theorem queueOffer_claims : (d.queueOffer i).claims = d.claims := by
  unfold Device.queueOffer
  split <;> rfl

theorem enterOffering_claims : (d.enterOffering i).claims = d.claims := by
  unfold Device.enterOffering
  dsimp only
  split
  · exact queueOffer_claims.trans (modRecord_claims _)
  · exact modRecord_claims _

/-- Staking attempts make own entries alone. -/
theorem kept_noHeardOf (st : Station) : KeptByStaking (Device.NoHeardOf st) := by
  refine ⟨fun e c j t q _ _ he => ?_, fun e j q x _ _ he => ?_, fun e j q k _ _ he => ?_⟩
  · exact noHeardOf_congr (congrArg ClaimMap.entries enterOffering_claims) (noHeardOf_modOwn (fun _ hx => nomatch hx) he)
  · exact noHeardOf_congr (congrArg ClaimMap.entries (modRecord_claims _)) he
  · have hroom := noHeardOf_makeRoom none he
    have hmod (f : Record → Record) : ((e.makeRoom none).1.modRecord j f).NoHeardOf st :=
      noHeardOf_congr (congrArg ClaimMap.entries (modRecord_claims _)) hroom
    unfold Device.stakeCell
    dsimp only
    split
    · intro y hy hown
      rcases mem_insertClaim hy with rfl | hy
      · cases hown
      · exact hmod _ y hy hown
    · refine noHeardOf_congr (congrArg ClaimMap.entries (modRecord_claims _)) ?_
      exact noHeardOf_sub (hmod _) fun _ hx => List.mem_of_mem_filter hx

/-! ## The claim map forgets a lost station (R52) -/

theorem claimantLost_noHeardOf (d : Device) (st : Station) : (d.claimantLost st).NoHeardOf st := by
  unfold Device.claimantLost Device.retryRemoved
  dsimp only
  refine (kept_noHeardOf st).retry _ _ fun y hy hown => ?_
  obtain ⟨x, -, hxy, -, hgone⟩ := mem_removeHeardAll hy
  have hx : x.own = none := by
    have := hxy.own
    rw [hown] at this
    simpa using this.symm
  rw [hxy.claimant]
  simpa using hgone hx

theorem claimantLost_stakes (d : Device) (st : Station) : Stakes d (d.claimantLost st) := by
  unfold Device.claimantLost
  refine Stakes.retryRemoved _ ?_
  exact Stakes.foldl (f := fun d (x : Claim) => d.removeHeard x.cell x.claimant) (fun x e he => he.removeHeard ..) _ (.refl d)

theorem claimantLost_recordAt (hr : d.recordAt i = some r) (hs : r.state ≠ .giver .staking) :
    (d.claimantLost st).recordAt i = some r := by
  unfold Device.claimantLost Device.retryRemoved
  dsimp only
  refine (kept_recordAt hs).retry _ _ ?_
  exact foldl_keeps (f := fun d (x : Claim) => d.removeHeard x.cell x.claimant) (Q := fun e => e.recordAt i = some r)
    (fun e x he => he) _ hr

/-- R52: a station without entries in the map takes nothing with it. -/
theorem claimantLost_of_none (h : d.NoHeardOf st) : d.claimantLost st = d := by
  have hnone : (d.claims.entries.filter fun x => x.own.isNone && x.claimant == st) = [] := by
    rw [List.filter_eq_nil_iff]
    intro x hx hp
    simp only [Bool.and_eq_true, Option.isNone_iff_eq_none, beq_iff_eq] at hp
    exact h x hx hp.1 hp.2
  unfold Device.claimantLost Device.removeHeardAll
  rw [hnone]
  exact retry_of_nobody fun c hc => nomatch hc

/-! ## The partner of a record is lost (R44, R108, R125) -/

/-- R44 step 2 at one slot. -/
def Device.losesPartner (st : Station) (i : Nat) (d : Device) : Device :=
  match d.recordAt i with
  | some r =>
    if r.partner = st then
      if r.isGiver then d.giverPartnerLost i r else d.takerPartnerLost i r
    else d
  | none => d

theorem partnerLost_eq (d : Device) (st : Station) : d.partnerLost st = forSlots (Device.losesPartner st) d := rfl

/-- The four things that the loss of a partner can do at a slot. -/
theorem losesPartner_cases (d : Device) (st : Station) (i : Nat) :
    d.losesPartner st i = d ∨
      ∃ r, d.recordAt i = some r ∧
        (d.losesPartner st i = d.raisePartnerLost i .partnerLost 0#8 ∨
          d.losesPartner st i = (d.setSlot i (some r.unbound)).raisePartnerLost i .partnerLost 0#8 ∨
          (d.losesPartner st i = d.endTaker i ⟨.upset, .partnerLost⟩ ∧ r.state ≠ .taker .ready)) := by
  unfold Device.losesPartner
  split
  · next r hr =>
    split
    · split
      · unfold Device.giverPartnerLost
        split
        · exact .inr ⟨r, hr, .inl rfl⟩
        · split
          · exact .inr ⟨r, hr, .inr (.inl rfl)⟩
          · exact .inl rfl
      · unfold Device.takerPartnerLost
        split
        · exact .inr ⟨r, hr, .inl rfl⟩
        · exact .inl rfl
        · next hready _ hst => exact .inr ⟨r, hr, .inr (.inr ⟨rfl, fun h => hready (RecState.taker.inj (hst.symm.trans h))⟩)⟩
        · exact .inl rfl
    · exact .inl rfl
  · exact .inl rfl

/-- What the loss of a partner keeps beside the records and the notices. -/
theorem losesPartner_beside (d : Device) (st : Station) (i : Nat) :
    (d.losesPartner st i).claims = d.claims ∧ (d.losesPartner st i).link.flags = d.link.flags := by
  rcases losesPartner_cases d st i with h | ⟨r, hr, h | h | ⟨h, -⟩⟩ <;> rw [h]
  · exact ⟨rfl, rfl⟩
  · exact ⟨raise_claims .., raise_flags ..⟩
  · exact ⟨(raise_claims ..).trans rfl, (raise_flags ..).trans rfl⟩
  · obtain ⟨-, -, -, -, -, -, -, hclaims, -⟩ := endTaker_ends ⟨.upset, .partnerLost⟩ hr
    refine ⟨hclaims, ?_⟩
    rw [endTaker_of_record hr]
    refine (raise_flags ..).trans ?_
    rw [withoutShadow_eq]
    rfl


theorem endTaker_tells (hr : d.recordAt i = some r) (o : OutcomePair) :
    (d.endTaker i o).tells i (r.notice i .ended o (bytesOfNat16 (d.shadowE i r))) := by
  rw [endTaker_of_record hr]
  have hrec : ((d.withoutShadow i r).left i (r.takerEnded o (d.shadowE i r))).recordAt i = some (r.takerEnded o (d.shadowE i r)) := by
    refine recordAt_setSlot_self _ _ ?_
    rw [withoutShadow_eq]
    exact recordAt_lt d hr
  have htells := raise_tells (k := .ended) (x := o) (w := bytesOfNat16 (d.shadowE i r)) hrec
  exact htells

theorem left_recordAt_of_ne (hj : j ≠ i) (q : Record) : (d.left j q).recordAt i = d.recordAt i :=
  recordAt_setSlot_of_ne (d.withCeding _) _ hj

theorem tells_congr {n : Notice} (hl : e.link = d.link) (hr : e.recordAt i = d.recordAt i) (h : d.tells i n) : e.tells i n := by
  unfold Device.tells
  rw [hl, hr]
  exact h

/-- The loss of a partner at one slot leaves the records of the others, up to owed notices, and what they were told. -/
theorem losesPartner_other (hj : j ≠ i) (hc : (x.isEnded && x.endCollected) = false) (h : d.HasRecord i x) :
    (d.losesPartner st j).HasRecord i x := by
  rcases losesPartner_cases d st j with heq | ⟨r, hr, heq | heq | ⟨heq, -⟩⟩ <;> rw [heq]
  · exact h
  · exact raise_hasRecord_other (Ne.symm hj) hc h
  · refine raise_hasRecord_other (Ne.symm hj) hc ?_
    obtain ⟨q, hq, hqx⟩ := h
    exact ⟨q, (recordAt_setSlot_of_ne d _ hj).trans hq, hqx⟩
  · rw [endTaker_of_record hr]
    refine raise_hasRecord_other (Ne.symm hj) hc ?_
    obtain ⟨q, hq, hqx⟩ := h
    refine ⟨q, (left_recordAt_of_ne hj _).trans ?_, hqx⟩
    rw [withoutShadow_eq]
    exact hq

theorem losesPartner_tells_other {n : Notice} (hj : j ≠ i) (h : d.tells i n) : (d.losesPartner st j).tells i n := by
  rcases losesPartner_cases d st j with heq | ⟨r, hr, heq | heq | ⟨heq, -⟩⟩ <;> rw [heq]
  · exact h
  · exact raise_tells_other hj _ _ _ h
  · exact raise_tells_other hj _ _ _ (setSlot_tells_other hj _ h)
  · rw [endTaker_of_record hr]
    refine raise_tells_other hj _ _ _ (tells_congr (d := d) ?_ ?_ h)
    · rw [withoutShadow_eq]
      rfl
    · rw [left_recordAt_of_ne hj, withoutShadow_eq]
      rfl

/-- What the loss of a partner makes of the record of one slot, and the notice it raises there. -/
structure Device.LosesAt (d : Device) (st : Station) (i : Nat) (x : Record) (told : Option Notice) : Prop where
  record : (d.losesPartner st i).HasRecord i x
  live : (x.isEnded && x.endCollected) = false
  tells : ∀ n, told = some n → (d.losesPartner st i).tells i n

/-- R44: what every record of a lost partner comes to. -/
theorem partnerLost_at (hi : i < Config.slotCount) {told : Option Notice} (hr : d.HasRecord i r) (hl : (r.isEnded && r.endCollected) = false)
    (h : ∀ e : Device, e.HasRecord i r → e.LosesAt st i x told) :
    (d.partnerLost st).HasRecord i x ∧ ∀ n, told = some n → (d.partnerLost st).tells i n := by
  rw [partnerLost_eq]
  refine forSlots_at (A := fun e => e.HasRecord i r) (B := fun e => e.HasRecord i x ∧ ∀ n, told = some n → e.tells i n) hi
    (fun e j hj he => losesPartner_other hj hl he) (fun e he => ⟨(h e he).record, (h e he).tells⟩)
    (fun e j hj he => ⟨losesPartner_other hj ?_ he.1, fun n hn => losesPartner_tells_other hj (he.2 n hn)⟩) hr
  exact (h d hr).live

section Partner

variable (hp : r.partner = st)
include hp

/-- R44: a record that keeps its state tells its host. -/
theorem losesAt_of_waiting (hs : r.state = .giver .pending ∨ r.state = .giver .staking ∨ r.state = .taker .ready) (h : e.HasRecord i r) :
    e.LosesAt st i r (some (r.notice i .partnerLost ⟨.upset, .partnerLost⟩ [0])) := by
  have hl : (r.isEnded && r.endCollected) = false := by
    rcases hs with hs | hs | hs <;> simp [Record.isEnded, hs]
  obtain ⟨q, hq, hqr⟩ := h
  have hloses : e.losesPartner st i = e.raisePartnerLost i .partnerLost 0#8 := by
    have hqs : q.state = r.state := by rw [hqr]
    have hqp : q.partner = st := by rw [hqr]; exact hp
    rcases hs with hs | hs | hs <;>
      simp [Device.losesPartner, hq, hqp, Record.isGiver, hqs, hs, Device.giverPartnerLost, Device.takerPartnerLost]
  obtain ⟨hrec, htells⟩ := raise_hasRecord (k := .partnerLost) (o := ⟨.upset, .partnerLost⟩) (w := [0]) hl ⟨q, hq, hqr⟩
  exact ⟨by rw [hloses]; exact hrec, hl, by rintro _ ⟨⟩; rw [hloses]; exact htells⟩

/-- R108: a giver record that is bound to the lost station is free again. -/
theorem losesAt_of_bound (hs : r.state = .giver .offering ∨ r.state = .giver .bound ∨ r.state = .giver .placed) (h : e.HasRecord i r) :
    e.LosesAt st i r.unbound (some (r.notice i .partnerLost ⟨.upset, .partnerLost⟩ [0])) := by
  obtain ⟨q, hq, hqr⟩ := h
  have hloses : e.losesPartner st i = (e.setSlot i (some q.unbound)).raisePartnerLost i .partnerLost 0#8 := by
    have hqs : q.state = r.state := by rw [hqr]
    have hqp : q.partner = st := by rw [hqr]; exact hp
    rcases hs with hs | hs | hs <;> simp [Device.losesPartner, hq, hqp, Record.isGiver, hqs, hs, Device.giverPartnerLost]
  have hset : (e.setSlot i (some q.unbound)).HasRecord i r.unbound :=
    ⟨q.unbound, recordAt_setSlot_self e _ (recordAt_lt e hq), by rw [hqr]; rfl⟩
  obtain ⟨hrec, htells⟩ := raise_hasRecord (k := .partnerLost) (o := ⟨.upset, .partnerLost⟩) (w := [0]) rfl hset
  exact ⟨by rw [hloses]; exact hrec, rfl, by rintro _ ⟨⟩; rw [hloses]; exact htells⟩

/-- R108: a giver record in UNBOUND stays. -/
theorem losesAt_of_unbound (hs : r.state = .giver .unbound) (h : e.HasRecord i r) : e.LosesAt st i r none := by
  obtain ⟨q, hq, hqr⟩ := h
  have hloses : e.losesPartner st i = e := by
    have hqs : q.state = r.state := by rw [hqr]
    have hqp : q.partner = st := by rw [hqr]; exact hp
    simp [Device.losesPartner, hq, hqp, Record.isGiver, hqs, hs, Device.giverPartnerLost]
  exact ⟨by rw [hloses]; exact ⟨q, hq, hqr⟩, by simp [Record.isEnded, hs], fun n hn => nomatch hn⟩

/-- R125: a taker record before READY ends. -/
theorem losesAt_of_invited (hs : r.state = .taker .invited ∨ r.state = .taker .agreed ∨ r.state = .taker .bound) (h : e.HasRecord i r) :
    e.LosesAt st i (r.takerEnded ⟨.upset, .partnerLost⟩ 0) (some (r.notice i .ended ⟨.upset, .partnerLost⟩ [0, 0])) := by
  obtain ⟨q, hq, hqr⟩ := h
  have hqs : q.state = r.state := by rw [hqr]
  have hloses : e.losesPartner st i = e.endTaker i ⟨.upset, .partnerLost⟩ := by
    have hqp : q.partner = st := by rw [hqr]; exact hp
    rcases hs with hs | hs | hs <;> simp [Device.losesPartner, hq, hqp, Record.isGiver, hqs, hs, Device.takerPartnerLost]
  have hzero : e.shadowE i q = 0 := by
    refine if_neg ?_
    rw [hqs]
    rcases hs with hs | hs | hs <;> simp [hs]
  obtain ⟨q', hq', hqq⟩ := endTaker_record (o := ⟨.upset, .partnerLost⟩) hq
  have htells := endTaker_tells hq ⟨.upset, .partnerLost⟩
  rw [hzero] at hqq htells
  refine ⟨by rw [hloses]; exact ⟨q', hq', by rw [hqq, hqr]; rfl⟩, by simp [Record.takerEnded], ?_⟩
  rintro _ ⟨⟩
  rw [hloses]
  rw [hqr] at htells
  exact htells

end Partner

theorem pushNotice_recordAt (n : Notice) : (d.pushNotice n).recordAt i = d.recordAt i := by
  unfold Device.pushNotice
  split <;> rfl

theorem pushNotice_tells {n m : Notice} (h : d.tells i n) : (d.pushNotice m).tells i n := by
  unfold Device.pushNotice
  split
  · exact h.imp_left (List.mem_append_left _)
  · exact h

theorem pushNotice_beside (n : Notice) :
    (d.pushNotice n).claims = d.claims ∧ (d.pushNotice n).peers = d.peers ∧
      (d.pushNotice n).link.flags.peerChange = d.link.flags.peerChange := by
  unfold Device.pushNotice
  split <;> exact ⟨rfl, rfl, rfl⟩

theorem partnerLost_claims (d : Device) (st : Station) :
    (d.partnerLost st).claims = d.claims ∧ (d.partnerLost st).link.flags = d.link.flags := by
  rw [partnerLost_eq]
  refine forSlots_keeps (Q := fun e => e.claims = d.claims ∧ e.link.flags = d.link.flags) (fun e j he => ?_) ⟨rfl, rfl⟩
  obtain ⟨hc, hf⟩ := losesPartner_beside e st j
  exact ⟨hc.trans he.1, hf.trans he.2⟩

/-- R44: a lost station that is nobody's partner and claims nothing. -/
theorem stationLost_of_nobody (h : d.NoHeardOf st) (hended : ∀ i r, d.recordAt i = some r → r.partner = st → r.isEnded = true)
    (hn : d.link.notices.length < 8) :
    d.stationLost st = d.peerChange.withLink
      (d.peerChange.notified (plainNotice .peerState (Config.plainOutcome .peerState) [16#8] st)) := by
  have hclaims : d.peerChange.claimantLost st = d.peerChange := claimantLost_of_none (d := d.peerChange) h
  have hpartners : d.peerChange.partnerLost st = d.peerChange := by
    rw [partnerLost_eq]
    refine forSlots_keeps (Q := fun e => e = d.peerChange) (fun e j he => ?_) rfl
    rw [he]
    unfold Device.losesPartner
    split
    · next r hr =>
      split
      · next hp =>
        have hend := hended j r hr hp
        unfold Record.isEnded at hend
        simp only [Bool.or_eq_true, beq_iff_eq] at hend
        rcases hend with hend | hend <;> simp [Record.isGiver, hend, Device.giverPartnerLost, Device.takerPartnerLost]
      · rfl
    · rfl
  have hnobody : d.peerChange.hasPartner st = false := by
    rw [← Bool.not_eq_true, hasPartner_iff]
    rintro ⟨i, r, hr, hp, hl⟩
    rw [hended i r hr hp] at hl
    cases hl
  unfold Device.stationLost
  rw [hclaims, hpartners]
  simp only [hnobody, Bool.false_eq_true, if_false]
  exact pushNotice_of_room (d := d.peerChange) hn _


/-! ## Silence (R43) -/

/-- R44: what a lost station leaves of the part: its records and what they were told are those that the loss of a partner leaves. -/
theorem stationLost_spec (d : Device) (st : Station) :
    (d.stationLost st).peers = d.peers ∧ (d.stationLost st).link.flags.peerChange = true ∧ (d.stationLost st).NoHeardOf st ∧
      (∀ i q, ((d.peerChange.claimantLost st).partnerLost st).HasRecord i q → (d.stationLost st).HasRecord i q) ∧
      (∀ i n, ((d.peerChange.claimantLost st).partnerLost st).tells i n → (d.stationLost st).tells i n) := by
  have hstakes := (claimantLost_stakes d.peerChange st).eq
  obtain ⟨hpeers, -⟩ := partnerLost_beside (d.peerChange.claimantLost st) st
  obtain ⟨hclaims, hflags⟩ := partnerLost_claims (d.peerChange.claimantLost st) st
  have hp : ((d.peerChange.claimantLost st).partnerLost st).peers = d.peers := by
    rw [hpeers, hstakes]
    rfl
  have hf : ((d.peerChange.claimantLost st).partnerLost st).link.flags.peerChange = true := by
    rw [hflags, hstakes]
    rfl
  have hc : ((d.peerChange.claimantLost st).partnerLost st).NoHeardOf st :=
    noHeardOf_congr (congrArg ClaimMap.entries hclaims) (claimantLost_noHeardOf d.peerChange st)
  generalize hm : (d.peerChange.claimantLost st).partnerLost st = m at *
  have hlost : d.stationLost st = if m.hasPartner st then m else m.peerState 16#8 st := by
    unfold Device.stationLost
    rw [hm]
  rw [hlost]
  split
  · exact ⟨hp, hf, hc, fun _ _ h => h, fun _ _ h => h⟩
  · obtain ⟨h1, h2, h3⟩ := pushNotice_beside (d := m) (plainNotice .peerState (Config.plainOutcome .peerState) [16#8] st)
    refine ⟨h2.trans hp, h3.trans hf, noHeardOf_congr (congrArg ClaimMap.entries h1) hc, fun i q hq => ?_, fun i n hn => pushNotice_tells hn⟩
    obtain ⟨q', hq', hqq⟩ := hq
    exact ⟨q', (pushNotice_recordAt _).trans hq', hqq⟩

/-- The roster once an entry has aged. -/
def PeerRoster.aged (p : PeerRoster) (st : Station) (n : Nat) (l : LinkState) : PeerRoster :=
  { p with roster := p.roster.map fun x => if x.station == st then { x with age := n, link := l } else x }

theorem ageEntry_of_three {x : RosterEntry} (h : d.rosterEntry st = some x) (hx : x.age = 3) :
    d.ageEntry st = (d.withPeers (d.peers.aged st 4 .quiet)).peerChange := by
  have hn : min Config.silenceMax (3 + 1) = 4 := rfl
  simp only [Device.ageEntry, h, hx, hn]
  rfl

theorem ageEntry_of_fifteen {x : RosterEntry} (h : d.rosterEntry st = some x) (hx : x.age = 15) :
    d.ageEntry st = (d.withPeers (d.peers.aged st 16 .lost)).stationLost st := by
  have hn : min Config.silenceMax (15 + 1) = 16 := rfl
  have hl : linkOfAge 16 = .lost := rfl
  have hq : ¬16 = Config.quietAge := by decide
  have hage : 16 = Config.lostAge := rfl
  simp only [Device.ageEntry, h, hx, hn, hl, if_neg hq, if_pos hage]
  rfl

theorem silenceAge_of_entry {x : RosterEntry} (h : d.rosterEntry st = some x) (n : Nat) (hx : x.age = n) :
    (d.silenceAge st == some n) = true := by
  simp [Device.silenceAge, h, hx]

/-- R44: what the loss of its partner makes of one record. -/
theorem stationLost_at {told : Option Notice} (hi : i < Config.slotCount) (hr : (d.peerChange.claimantLost st).recordAt i = some r)
    (hl : (r.isEnded && r.endCollected) = false) (h : ∀ e : Device, e.HasRecord i r → e.LosesAt st i x told) :
    (∃ q, (d.stationLost st).recordAt i = some q ∧ q = { x with notices := q.notices }) ∧
      ∀ n, told = some n → (d.stationLost st).tells i n := by
  obtain ⟨-, -, -, hkept, htold⟩ := stationLost_spec d st
  obtain ⟨hrec, htells⟩ := partnerLost_at hi (hasRecord_self hr) hl h
  exact ⟨hkept i x hrec, fun n hn => htold i n (htells n hn)⟩

/-- Settles O37. -/
theorem silentStationsBecomeQuietAndLost : Obligations.SilentStationsBecomeQuietAndLost := by
  intro s st y hrun hy aged changed
  have hlost (hage : y.age = 15) : exec (.rosterEntryLost st) s = .next (s.after ((s.withPeers (aged 16 .lost)).stationLost st)) := by
    refine (whenDue_of_due hrun (silenceAge_of_entry hy 15 hage)).trans ?_
    rw [ageEntry_of_fifteen hy hage]
    rfl
  let m : Device := s.withPeers (aged 16 .lost)
  refine ⟨fun hage => ?_, fun hage hlen => ?_, fun hage hended hclaims hn => ?_⟩
  · refine (whenDue_of_due hrun (silenceAge_of_entry hy 3 hage)).trans ?_
    rw [ageEntry_of_three hy hage]
    rfl
  · obtain ⟨hpeers, hflag, hheard, -, -⟩ := stationLost_spec m st
    refine ⟨m.stationLost st, hlost hage, hpeers, hflag, hheard, ?_⟩
    intro i r hr hp tellsLost
    have hi : i < Config.slotCount := (recordAt_lt s.toDevice hr).trans_eq hlen
    have hkept (hs : r.state ≠ .giver .staking) : (m.peerChange.claimantLost st).recordAt i = some r :=
      claimantLost_recordAt (d := m.peerChange) hr hs
    refine ⟨fun hs => ?_, fun hs => ?_, fun hs => ?_, fun hs => ?_, fun hs => ?_⟩
    · have hlive : (r.isEnded && r.endCollected) = false := by rcases hs with hs | hs | hs <;> simp [Record.isEnded, hs]
      obtain ⟨⟨q, hq, hqr⟩, htells⟩ := stationLost_at hi (hkept (by rcases hs with hs | hs | hs <;> simp [hs])) hlive
        fun e he => losesAt_of_bound hp hs he
      exact ⟨htells _ rfl, q, hq, by rw [hqr]; rfl, by rw [hqr]; rfl, by rw [hqr]; rfl, by rw [hqr]; exact hp⟩
    · have hlive : (r.isEnded && r.endCollected) = false := by rcases hs with hs | hs <;> simp [Record.isEnded, hs]
      obtain ⟨⟨q, hq, hqr⟩, htells⟩ := stationLost_at hi (hkept (by rcases hs with hs | hs <;> simp [hs])) hlive
        fun e he => losesAt_of_waiting hp (hs.imp_right .inr) he
      exact ⟨htells _ rfl, q, hq, by rw [hqr], by rw [hqr], by rw [hqr]; exact hp⟩
    · refine ⟨?_, fun hnone => ?_⟩
      · obtain ⟨q, hq, hqr⟩ := (claimantLost_stakes m.peerChange st).record hr
        have hafter : q.state = .giver .staking ∨ q.state = .giver .offering := by
          rcases hqr with rfl | hadv
          · exact .inl hs
          · exact hadv.after
        have hsame : q.tag = r.tag ∧ q.partner = r.partner := by
          rcases hqr with rfl | hadv
          · exact ⟨rfl, rfl⟩
          · rw [hadv.rest]
            exact ⟨rfl, rfl⟩
        have hnotice : q.notice i .partnerLost ⟨.upset, .partnerLost⟩ [0] = r.notice i .partnerLost ⟨.upset, .partnerLost⟩ [0] := by
          unfold Record.notice
          rw [hsame.1, hsame.2]
        have hlive : (q.isEnded && q.endCollected) = false := by rcases hafter with hs | hs <;> simp [Record.isEnded, hs]
        have hqp := hsame.2.trans hp
        show (m.stationLost st).tells i (r.notice i .partnerLost ⟨.upset, .partnerLost⟩ [0])
        rw [← hnotice]
        rcases hafter with hst | hst
        · exact (stationLost_at hi hq hlive fun e he => losesAt_of_waiting hqp (.inr (.inl hst)) he).2 _ rfl
        · exact (stationLost_at hi hq hlive fun e he => losesAt_of_bound hqp (.inl hst) he).2 _ rfl
      · have hmap : m.peerChange.claimantLost st = m.peerChange := claimantLost_of_none (d := m.peerChange) hnone
        have hrec : (m.peerChange.claimantLost st).recordAt i = some r := by
          rw [hmap]
          exact hr
        obtain ⟨⟨q, hq, hqr⟩, -⟩ := stationLost_at hi hrec (by simp [Record.isEnded, hs])
          fun e he => losesAt_of_waiting hp (.inr (.inl hs)) he
        exact ⟨q, hq, by rw [hqr], by rw [hqr]; exact hs, by rw [hqr]; exact hp, by rw [hqr]⟩
    · obtain ⟨⟨q, hq, hqr⟩, -⟩ := stationLost_at hi (hkept (by simp [hs])) (by simp [Record.isEnded, hs])
        fun e he => losesAt_of_unbound hp hs he
      exact ⟨q, hq, by rw [hqr], by rw [hqr]; exact hs⟩
    · have hlive : (r.isEnded && r.endCollected) = false := by rcases hs with hs | hs | hs <;> simp [Record.isEnded, hs]
      obtain ⟨⟨q, hq, hqr⟩, htells⟩ := stationLost_at hi (hkept (by rcases hs with hs | hs | hs <;> simp [hs])) hlive
        fun e he => losesAt_of_invited hp hs he
      exact ⟨htells _ rfl, q, hq, by rw [hqr]; rfl, by rw [hqr]; rfl, by rw [hqr]; rfl, by rw [hqr]; rfl⟩
  · rw [hlost hage, stationLost_of_nobody (d := m) hclaims hended hn]
    rfl

end Sys2Proof.Machine
end

section
/-! PROOF. The stakes and the hoist bin of a PRESENCE (R53, R59, R61, R63 to R65, R168). -/

namespace Sys2Proof.Machine

set_option Elab.async false

variable {d e : Device} {s : State} {i j : Nat} {r q : Record} {o st : Station} {c : Cell}

/-! ## What every record of a part has, its notices aside -/

/-- Every record of the part has a property. -/
def Device.Every (P : Record → Prop) (d : Device) : Prop := ∀ j q, d.recordAt j = some q → P q

section Every

variable {P : Record → Prop}

theorem Device.Every.setSlot (h : d.Every P) (hq : P q) : (d.setSlot i (some q)).Every P :=
  setSlot_pending h fun r hr => by rw [← Option.some.inj hr]; exact hq

theorem Device.Every.modRecord (h : d.Every P) {f : Record → Record} (hf : ∀ r, P r → P (f r)) : (d.modRecord i f).Every P := by
  unfold Device.modRecord
  split
  · next r hr => exact h.setSlot (hf r (h i r hr))
  · exact h

theorem Device.Every.pushNotice (h : d.Every P) (n : Notice) : (d.pushNotice n).Every P := fun j q hq => h j q ((pushNotice_recordAt n).symm.trans hq)

variable (hP : ∀ r ns, P r → P { r with notices := ns })
include hP

theorem Device.Every.moveOwed (h : d.Every P) : d.moveOwed.Every P := by
  refine moveOwed_keeps (Q := Device.Every P) (fun e he j r hr => ?_) h
  rcases moveOne_record e j with hsame | ⟨q, rest, hq, hmove | ⟨hnone, -⟩⟩
  · exact he j r (hsame.symm.trans hr)
  · obtain rfl := Option.some.inj (hmove.symm.trans hr)
    exact hP q _ (he j q hq)
  · rw [hnone] at hr
    cases hr

theorem Device.Every.raise (h : d.Every P) (i : Nat) (k : NoticeKind) (x : OutcomePair) (v : List Byte) : (d.raise i k x v).Every P :=
  Device.Every.moveOwed hP (h.modRecord fun r hr => hP r _ hr)

theorem Device.Every.partnerLapsed (h : d.Every P) (st : Station) : (d.partnerLapsed st).Every P := by
  unfold Device.partnerLapsed
  refine forSlots_keeps (Q := Device.Every P) (fun e j he => ?_) h
  split
  · exact Device.Every.raise hP he _ _ _ _
  · exact he

theorem Device.Every.announcedChange (h : d.Every P) (st : Station) (old : Option StationState) (new : StationState) :
    (d.announcedChange st old new).Every P := by
  unfold Device.announcedChange
  split
  · exact h
  · split
    · dsimp only
      split
      · exact Device.Every.partnerLapsed (d := d.peerChange) hP h st
      · exact Device.Every.pushNotice (d := d.peerChange) h _
    · split
      · exact h
      · exact h

end Every

/-! ## The hearing itself (R42, R45) -/

/-- What hearing a station announce itself leaves alone. -/
structure Device.Heard (d e : Device) : Prop where
  claims : e.claims = d.claims
  line : e.line = d.line
  accounts : e.accounts = d.accounts
  record : ∀ i r, (r.isEnded && r.endCollected) = false → d.HasRecord i r → e.HasRecord i r
  every : ∀ P : Record → Prop, (∀ r ns, P r → P { r with notices := ns }) → d.Every P → e.Every P

theorem announcedChange_heard (d : Device) (st : Station) (old : Option StationState) (new : StationState) :
    d.Heard (d.announcedChange st old new) := by
  have hevery (P : Record → Prop) (hP : ∀ r ns, P r → P { r with notices := ns }) (h : d.Every P) := h.announcedChange hP st old new
  unfold Device.announcedChange at hevery ⊢
  split
  · exact ⟨rfl, rfl, rfl, fun _ _ _ h => h, fun _ _ h => h⟩
  · split
    · next hne hl =>
      rw [if_neg hne, if_pos hl] at hevery
      dsimp only at hevery ⊢
      split
      · next hp =>
        rw [if_pos hp] at hevery
        have hbeside : d.peerChange.SameBeside (d.peerChange.partnerLapsed st) := (partnerLapsed_beside d.peerChange st).1
        rw [Device.SameBeside] at hbeside
        refine ⟨by rw [hbeside]; rfl, by rw [hbeside]; rfl, by rw [hbeside]; rfl, fun i r hc hr => ?_, hevery⟩
        unfold Device.partnerLapsed
        refine forSlots_keeps (Q := fun e => e.HasRecord i r) (fun e j he => ?_) hr
        split
        · by_cases hj : j = i
          · subst hj
            exact (raise_hasRecord hc he).1
          · exact raise_hasRecord_other (Ne.symm hj) hc he
        · exact he
      · next hp =>
        rw [if_neg hp] at hevery
        have hpush (n : Notice) : ∃ l, d.peerChange.pushNotice n = d.withLink l := by
          unfold Device.pushNotice
          split <;> exact ⟨_, rfl⟩
        obtain ⟨l, hl⟩ := hpush (plainNotice .peerState (Config.plainOutcome .peerState) [3#8] st)
        have hl : d.peerChange.peerState 3#8 st = d.withLink l := hl
        rw [hl] at hevery ⊢
        exact ⟨rfl, rfl, rfl, fun _ _ _ h => h, hevery⟩
    · split
      · exact ⟨rfl, rfl, rfl, fun _ _ _ h => h, fun _ _ h => h⟩
      · exact ⟨rfl, rfl, rfl, fun _ _ _ h => h, fun _ _ h => h⟩

theorem hearing_heard (hroom : d.peers.roster.length < Config.rosterSize) (b : PresenceBody) : d.Heard ((d.hear o).hearAnnounced o b) := by
  cases hx : d.rosterEntry o with
  | some x =>
    rw [hearing_of_known hx b]
    obtain ⟨h1, h2, h3, h4, h5⟩ := announcedChange_heard (d.modEntry o (RosterEntry.announcing · b)) o x.announced (StationState.ofByte b.state)
    exact ⟨h1, h2, h3, h4, h5⟩
  | none =>
    rw [hearing_of_new hx hroom b]
    obtain ⟨h1, h2, h3, h4, h5⟩ := announcedChange_heard
      (d.withRoster (insertEntry ((newEntry o).announcing b) d.peers.roster)).peerChange o none (StationState.ofByte b.state)
    exact ⟨h1, h2, h3, h4, h5⟩

theorem hearing_state (d : Device) (o : Station) (b : PresenceBody) : ((d.hear o).hearAnnounced o b).peers.state = d.peers.state :=
  Moves.state_eq (P := True) (((Moves.refl d).hear trivial o).hearAnnounced trivial o b)

/-! ## A station that is not ACTIVE makes no attempt (R55) -/

theorem attempt_of_not_active (h : d.peers.state ≠ .active) (n i : Nat) : attempt n i d = d := by
  have ha : d.isActive = false := by simpa [Device.isActive] using h
  cases n with
  | zero => rfl
  | succ n =>
    unfold attempt
    split
    · rfl
    · simp [ha]

theorem retry_of_not_active (h : d.peers.state ≠ .active) (cells : List Cell) (p : RequestStatus → Bool) : d.retry cells p = d := by
  refine forSlots_keeps (Q := fun e => e = d) (fun e i he => ?_) rfl
  subst he
  split
  · exact attempt_of_not_active h _ i
  · rfl

theorem retryWaiting_of_not_active (h : d.peers.state ≠ .active) (slots : List Nat) : d.retryWaiting slots = d := by
  refine foldl_keeps (Q := fun e => e = d) (fun e i he => ?_) _ rfl
  subst he
  split
  · exact attempt_of_not_active h _ i
  · rfl

theorem retryWaiting_of_nobody {cells : List Cell} (h : d.noneStaking) : e.retryWaiting (d.waitingSlots cells) = e := by
  have hnone : d.waitingSlots cells = [] := by
    rw [Device.waitingSlots, List.filter_eq_nil_iff]
    intro i _ hi
    obtain ⟨c, -, hc⟩ := List.any_eq_true.mp hi
    obtain ⟨q, -, hq, hst, -⟩ := waitsOn_iff.mp hc
    exact h i q hq hst
  rw [hnone]
  rfl


/-! ## The inferred lift (R168) -/

theorem retryReleased_of_not_active (ha : d.peers.state ≠ .active) (c : Cell) : d.retryReleased c = d := by
  unfold Device.retryReleased
  exact retry_of_not_active ha ..

theorem releaseStake_of_not_active (ha : d.peers.state ≠ .active) (x : Claim) : d.releaseStake x = d.dropStake x := by
  unfold Device.releaseStake
  refine retryReleased_of_not_active ?_ _
  exact ha

theorem runHoldEnds_recordAt (ha : d.peers.state ≠ .active) : d.runHoldEnds.recordAt j = d.recordAt j := by
  unfold Device.runHoldEnds
  split
  · rw [retryReleased_of_not_active]
    · rfl
    · exact ha
  · rfl

theorem recordStakeEnds_recordAt (ha : d.peers.state ≠ .active) (g : Bool) : (d.recordStakeEnds i g).recordAt j = d.recordAt j := by
  have hact : d.isActive = false := by simpa [Device.isActive] using ha
  unfold Device.recordStakeEnds
  split
  · rfl
  · next x _ =>
    split
    · rw [releaseStake_of_not_active ha]
      rfl
    · split
      · rfl
      · simp only [hact, Bool.false_eq_true, if_false]
        rfl

theorem endRun_hasRecord (ha : d.peers.state ≠ .active) (x : OutcomePair) (hc : (r.isEnded && r.endCollected) = false)
    (h : d.HasRecord i r) : (d.endRun x).HasRecord i r := by
  unfold Device.endRun
  refine moveOwed_hasRecord hc ?_
  obtain ⟨q, hq, hqr⟩ := h
  refine ⟨q, (runHoldEnds_recordAt ?_).trans hq, hqr⟩
  exact ha

theorem runHears_hasRecord (ha : d.peers.state ≠ .active) (n : Nat) (x : OutcomePair) (hc : (r.isEnded && r.endCollected) = false)
    (h : d.HasRecord i r) : (d.runHears n x).1.HasRecord i r := by
  by_cases hs : d.engine.run.Serves n
  · by_cases hx : x.cls = .done
    · rw [runHears_of_done hs hx]
      split
      · refine endRun_hasRecord ?_ _ hc ?_
        · exact ha
        · exact h
      · unfold Device.advanceRun
        dsimp only
        split
        · refine endRun_hasRecord ?_ _ hc ?_
          · exact ha
          · exact h
        · exact h
    · rw [runHears_of_failed hs hx]
      refine endRun_hasRecord ?_ _ hc ?_
      · exact ha
      · exact h
  · rw [runHears_of_other hs]
    exact h

/-- In a station that is not ACTIVE the end of a giver record touches no other record. -/
theorem endGiver_hasRecord_other (ha : d.peers.state ≠ .active) (hj : j ≠ i) (hc : (r.isEnded && r.endCollected) = false)
    (h : d.HasRecord i r) (x : OutcomePair) (v : Nat) : (d.endGiver j x v).HasRecord i r := by
  cases hq : d.recordAt j with
  | none =>
    have hsame : d.endGiver j x v = d := by simp only [Device.endGiver, hq]
    rw [hsame]
    exact h
  | some q =>
    rw [endGiver_eq hq]
    refine raise_hasRecord_other (Ne.symm hj) hc ?_
    have hleft : (d.left j (q.giverEnded x v)).HasRecord i r := by
      obtain ⟨r', hr', hrr⟩ := h
      exact ⟨r', (left_recordAt_of_ne hj _).trans hr', hrr⟩
    have hgoes := runHears_goes (d.left j (q.giverEnded x v)) q.ordinal x
    obtain ⟨r', hr', hrr⟩ := runHears_hasRecord (d := d.left j (q.giverEnded x v)) ha q.ordinal x hc hleft
    refine ⟨r', (recordStakeEnds_recordAt ?_ _).trans hr', hrr⟩
    rw [hgoes.peers]
    exact ha

theorem slotAccount_removeAccount_of_ne (hj : j ≠ i) : (d.removeAccount (.slot j)).accountAt (.slot i) = d.accountAt (.slot i) := by
  simp [Device.removeAccount, Device.setAccount, Device.accountAt, hj]

theorem endGiver_keeps (d : Device) (j : Nat) (x : OutcomePair) (v : Nat) :
    (d.endGiver j x v).accounts = d.accounts ∧ (d.endGiver j x v).peers = d.peers := by
  cases hq : d.recordAt j with
  | none =>
    have hsame : d.endGiver j x v = d := by simp only [Device.endGiver, hq]
    rw [hsame]
    exact ⟨rfl, rfl⟩
  | some q =>
    have h := endGiver_ended (o := x) (v := v) hq
    exact ⟨h.accounts, h.peers⟩

/-- R168 at a record whose bin stands on its cell. -/
theorem inferLift_lifts {b : BinId} (ha : d.peers.state = .joining) (hb : b ≠ 0) (hi : i < Config.slotCount) (hr : d.HasRecord i r)
    (hon : r.binOnCell = true) (hbin : r.bin = b) :
    (d.inferLift b).HasRecord i (r.giverEnded outcomeDone (d.slotE i)) ∧ (d.inferLift b).accountAt (.slot i) = none := by
  have hlive : (r.isEnded && r.endCollected) = false := by
    unfold Record.binOnCell at hon
    simp only [Bool.and_eq_true, Bool.or_eq_true, beq_iff_eq] at hon
    rcases hon.2 with (hs | hs) | hs <;> simp [Record.isEnded, hs]
  let A (e : Device) : Prop := e.HasRecord i r ∧ e.accountAt (.slot i) = d.accountAt (.slot i) ∧ e.peers.state = .joining
  let B (e : Device) : Prop :=
    e.HasRecord i (r.giverEnded outcomeDone (d.slotE i)) ∧ e.accountAt (.slot i) = none ∧ e.peers.state = .joining
  have hother (e : Device) (j : Nat) (hj : j ≠ i) (x : Record) (hc : (x.isEnded && x.endCollected) = false) (he : e.HasRecord i x)
      (hs : e.peers.state = .joining) : (e.giverLifted j).HasRecord i x ∧ (e.giverLifted j).accountAt (.slot i) = e.accountAt (.slot i) ∧
        (e.giverLifted j).peers.state = .joining := by
    obtain ⟨hacc, hpeers⟩ := endGiver_keeps (e.removeAccount (.slot j)) j outcomeDone (e.slotE j)
    have hst : (e.removeAccount (.slot j)).peers.state = .joining := hs
    refine ⟨endGiver_hasRecord_other (d := e.removeAccount (.slot j)) (by rw [hst]; decide) hj hc he _ _,
      (accountAt_congr hacc _).trans (slotAccount_removeAccount_of_ne hj), ?_⟩
    unfold Device.giverLifted
    rw [hpeers, hst]
  have hend : B (d.inferLift b) := by
    unfold Device.inferLift
    rw [if_pos ⟨ha, hb⟩]
    refine forSlots_at (A := A) (B := B) hi (fun e j hj he => ?_) (fun e he => ?_) (fun e j hj he => ?_) ⟨hr, rfl, ha⟩
    · split
      · obtain ⟨h1, h2, h3⟩ := hother e j hj r hlive he.1 he.2.2
        exact ⟨h1, h2.trans he.2.1, h3⟩
      · exact he
    · obtain ⟨⟨q, hq, hqr⟩, hacc, hst⟩ := he
      have hcond : (e.recordIs i fun r => r.binOnCell && r.bin == b) = true := by
        have h1 : q.binOnCell = true := by
          rw [hqr]
          exact hon
        have h2 : q.bin = b := by
          rw [hqr]
          exact hbin
        simp [recordIs_of_record hq, h1, h2]
      rw [if_pos hcond]
      have hslot : e.slotE i = d.slotE i := congrArg accountE hacc
      have hended := endGiver_ended (d := e.removeAccount (.slot i)) (o := outcomeDone) (v := e.slotE i) hq
      obtain ⟨q', hq', hqq⟩ := hended.record
      refine ⟨⟨q', hq', by rw [hqq, hqr, hslot]; rfl⟩, (accountAt_congr hended.accounts _).trans
        (accountAt_removeAccount_slot e i), ?_⟩
      · exact (congrArg PeerRoster.state hended.peers).trans hst
    · split
      · obtain ⟨h1, h2, h3⟩ := hother e j hj _ (Bool.and_false _) he.1 he.2.2
        exact ⟨h1, h2.trans he.2.1, h3⟩
      · exact he
  exact ⟨hend.1, hend.2.1⟩

/-- R53: a PRESENCE without stakes takes its origin's entries out of the map of a station that is not ACTIVE. -/
theorem hearStakes_nil_of_not_active (h : d.peers.state ≠ .active) (o : Station) : ∃ es, d.hearStakes o [] = d.withEntries es := by
  have hgone (p : Claim → Bool) : (d.removeHeardAll p).1 = d.withEntries (d.removeHeardAll p).1.claims.entries :=
    foldl_keeps (f := fun d (x : Claim) => d.removeHeard x.cell x.claimant) (Q := fun e => e = d.withEntries e.claims.entries)
      (fun e x he => by rw [he]; rfl) _ rfl
  refine ⟨_, (retryWaiting_of_not_active (d := (d.removeHeardAll _).1) ?_ _).trans (hgone _)⟩
  rw [hgone]
  exact h


/-! ## The list of a PRESENCE written in a map of heard entries (R53) -/

/-- The entry that a listed stake makes. -/
def itemEntry (o : Station) (i : StakeItem) : Claim := heardEntry i.cell o i.tag i.key.toNat (phaseOfByte i.phase)

/-- No entry of the map is an own stake. -/
def Device.NoOwn (d : Device) : Prop := ∀ x ∈ d.claims.entries, x.own = none

theorem ownClaim_of_noOwn (h : d.NoOwn) (c : Cell) : d.ownClaim c = none := ownClaim_eq_none_of fun y hy hown => absurd (h y hy) hown

theorem writeListed_of_room {m : Device × List Cell} (h : m.1.claims.entries.length < 48) (i : StakeItem) :
    ∃ l, writeListed o m i = ((m.1.writeHeard i.cell o i.tag i.key.toNat (phaseOfByte i.phase)).withLink l, m.2) := by
  unfold writeListed
  rw [recordHeard_of_room h]
  dsimp only
  rw [List.append_nil]
  split
  · exact ⟨_, Prod.ext (watchHits_link ..) rfl⟩
  · exact ⟨_, rfl⟩

theorem writeHeard_of_noOwn (h : d.NoOwn) (i : StakeItem) :
    (d.writeHeard i.cell o i.tag i.key.toNat (phaseOfByte i.phase)).claims.entries = insertClaim (itemEntry o i) d.claims.entries := by
  have hnone : ∀ x ∈ insertClaim (itemEntry o i) d.claims.entries, x.own ≠ none → x.cell ≠ i.cell := by
    intro x hx hown
    rcases mem_insertClaim hx with rfl | hx
    · exact absurd rfl hown
    · exact absurd (h x hx) hown
  rw [writeHeard_entries]
  split
  · rfl
  · exact map_rivalCleared hnone

/-- What writing a list of stakes makes of a map of heard entries. -/
structure ListWritten (o : Station) (items : List StakeItem) (m n : Device × List Cell) : Prop where
  cells : n.2 = m.2
  beside : n.1 = { m.1 with claims := { m.1.claims with entries := n.1.claims.entries }, link := n.1.link }
  noOwn : n.1.NoOwn
  old : ∀ x ∈ n.1.claims.entries, x ∈ m.1.claims.entries ∨ ∃ i ∈ items, x = itemEntry o i
  new : ∀ i ∈ items, itemEntry o i ∈ n.1.claims.entries
  kept : ∀ x ∈ m.1.claims.entries, (∀ i ∈ items, i.cell = x.cell → x.claimant ≠ o) → x ∈ n.1.claims.entries

theorem writeListed_written {items : List StakeItem} {m : Device × List Cell} (hown : m.1.NoOwn)
    (hlen : m.1.claims.entries.length + items.length ≤ 48) (hd : cellsDistinct items = true) :
    ListWritten o items m (items.foldl (writeListed o) m) := by
  induction items generalizing m with
  | nil => exact ⟨rfl, rfl, hown, fun x hx => .inl hx, fun i hi => (nomatch hi), fun x hx _ => hx⟩
  | cons i items ih =>
    simp only [cellsDistinct, Bool.and_eq_true, List.all_eq_true, bne_iff_ne] at hd
    obtain ⟨l, hw⟩ := writeListed_of_room (o := o) (m := m) (by rw [List.length_cons] at hlen; omega) i
    have hentries : (writeListed o m i).1.claims.entries = insertClaim (itemEntry o i) m.1.claims.entries := by
      rw [hw]
      exact writeHeard_of_noOwn hown i
    have hown' : (writeListed o m i).1.NoOwn := by
      intro x hx
      rw [hentries] at hx
      rcases mem_insertClaim hx with rfl | hx
      · rfl
      · exact hown x hx
    have hlen' : (writeListed o m i).1.claims.entries.length + items.length ≤ 48 := by
      rw [hentries]
      have := length_insertClaim (itemEntry o i) m.1.claims.entries
      rw [List.length_cons] at hlen
      omega
    have hrest := ih hown' hlen' hd.2
    rw [List.foldl_cons]
    refine ⟨?_, ?_, hrest.noOwn, fun x hx => ?_, fun j hj => ?_, fun x hx hkept => ?_⟩
    · rw [hrest.cells, hw]
    · rw [hrest.beside, hw, writeHeard_beside]
      rfl
    · rcases hrest.old x hx with hx | ⟨j, hj, rfl⟩
      · rw [hentries] at hx
        rcases mem_insertClaim hx with rfl | hx
        · exact .inr ⟨i, List.mem_cons_self, rfl⟩
        · exact .inl hx
      · exact .inr ⟨j, List.mem_cons_of_mem _ hj, rfl⟩
    · rcases List.mem_cons.mp hj with rfl | hj
      · refine hrest.kept _ ?_ fun k hk hcell => absurd hcell (hd.1 k hk)
        rw [hentries]
        exact self_mem_insertClaim ..
      · exact hrest.new j hj
    · refine hrest.kept x ?_ fun j hj => hkept j (List.mem_cons_of_mem _ hj)
      rw [hentries]
      refine mem_insertClaim_of_mem hx ?_
      rintro ⟨hcell, hst, -⟩
      exact hkept i List.mem_cons_self hcell hst.symm

/-- R53: the entries of the origin that its list does not name. -/
def unlisted (o : Station) (items : List StakeItem) (x : Claim) : Bool := x.claimant == o && items.all fun i => i.cell != x.cell

theorem removeHeard_of_noOwn (h : d.NoOwn) (c : Cell) (o : Station) :
    (d.removeHeard c o).NoOwn ∧ (d.removeHeard c o).claims.entries.length ≤ d.claims.entries.length ∧
      ∀ x ∈ d.claims.entries, x.claimant ≠ o → x ∈ (d.removeHeard c o).claims.entries := by
  rw [removeHeard_of_no_own fun y hy hown => absurd (h y hy) hown]
  refine ⟨fun x hx => h x (List.mem_filter.mp hx).1, List.length_filter_le .., fun x hx hne => List.mem_filter.mpr ⟨hx, ?_⟩⟩
  simp [hne]

theorem removeHeardAll_of_noOwn {p : Claim → Bool} (h : d.NoOwn) (hp : ∀ x, p x = true → x.claimant = o) :
    (d.removeHeardAll p).1.NoOwn ∧ (d.removeHeardAll p).1.claims.entries.length ≤ d.claims.entries.length ∧
      ∀ x ∈ d.claims.entries, x.claimant ≠ o → x ∈ (d.removeHeardAll p).1.claims.entries := by
  unfold Device.removeHeardAll
  dsimp only
  have hgone : ∀ z ∈ d.claims.entries.filter (fun x => x.own.isNone && p x), z.claimant = o := by
    intro z hz
    have hz := (List.mem_filter.mp hz).2
    rw [Bool.and_eq_true] at hz
    exact hp z hz.2
  refine List.foldlRecOn _ _ (motive := fun e : Device => e.NoOwn ∧ e.claims.entries.length ≤ d.claims.entries.length ∧
    ∀ x ∈ d.claims.entries, x.claimant ≠ o → x ∈ e.claims.entries) ⟨h, Nat.le_refl _, fun _ hx _ => hx⟩ fun e he z hz => ?_
  obtain ⟨hown, hlen, hkept⟩ := he
  obtain ⟨h1, h2, h3⟩ := removeHeard_of_noOwn hown z.cell z.claimant
  exact ⟨h1, h2.trans hlen, fun x hx hne => h3 x (hkept x hx hne) (by rw [hgone z hz]; exact hne)⟩

/-- R53: what a stake list makes of a map of heard entries. -/
structure Listed (o : Station) (items : List StakeItem) (d e : Device) : Prop where
  noOwn : e.NoOwn
  new : ∀ i ∈ items, itemEntry o i ∈ e.claims.entries
  mine : ∀ x ∈ e.claims.entries, x.claimant = o → ∃ i ∈ items, i.cell = x.cell
  kept : ∀ x ∈ d.claims.entries, x.claimant ≠ o → x ∈ e.claims.entries

theorem hearStakes_listed {items : List StakeItem} (hown : d.NoOwn) (hlen : d.claims.entries.length + items.length ≤ 48)
    (hd : cellsDistinct items = true) (hidle : d.peers.state ≠ .active ∨ d.noneStaking) : Listed o items d (d.hearStakes o items) := by
  obtain ⟨hown', hlen', hkept'⟩ := removeHeardAll_of_noOwn (p := unlisted o items) (o := o) hown fun x hx => by
    unfold unlisted at hx
    simp only [Bool.and_eq_true, beq_iff_eq] at hx
    exact hx.1
  have hwritten := writeListed_written (o := o) (m := d.removeHeardAll (unlisted o items)) hown' (by omega) hd
  have hgone : (d.removeHeardAll (unlisted o items)).1 = d.withEntries (d.removeHeardAll (unlisted o items)).1.claims.entries :=
    foldl_keeps (f := fun d (x : Claim) => d.removeHeard x.cell x.claimant) (Q := fun e => e = d.withEntries e.claims.entries)
      (fun e x he => by rw [he]; rfl) _ rfl
  have hunnamed (y : Claim) (hy : y ∈ (d.removeHeardAll (unlisted o items)).1.claims.entries) (ho : y.claimant = o) :
      ∃ i ∈ items, i.cell = y.cell := by
    obtain ⟨x, -, hxy, -, hx⟩ := mem_removeHeardAll hy
    have hxo : x.own = none := by
      have := hxy.own
      rw [hown' y hy] at this
      simpa using this.symm
    have hfalse := hx hxo
    unfold unlisted at hfalse
    rw [← hxy.claimant, ho] at hfalse
    simpa [hxy.cell] using hfalse
  have hheard : d.hearStakes o items =
      (items.foldl (Device.judgeStake o) (items.foldl (writeListed o) (d.removeHeardAll (unlisted o items))).1).retryWaiting
        ((items.foldl (writeListed o) (d.removeHeardAll (unlisted o items))).1.waitingSlots
          (items.foldl (writeListed o) (d.removeHeardAll (unlisted o items))).2) := rfl
  generalize items.foldl (writeListed o) (d.removeHeardAll (unlisted o items)) = n at hwritten hheard
  obtain ⟨-, hbeside, hnoOwn, hold, hnew, hkept⟩ := hwritten
  have hjudged : items.foldl (Device.judgeStake o) n.1 = n.1 := by
    refine foldl_keeps (Q := fun e => e = n.1) (fun e i he => ?_) _ rfl
    subst he
    simp only [Device.judgeStake, ownClaim_of_noOwn hnoOwn]
  have htable : n.1.engine = d.engine ∧ n.1.peers = d.peers := by
    rw [hbeside, hgone]
    exact ⟨rfl, rfl⟩
  have hsame : d.hearStakes o items = n.1 := by
    rw [hheard, hjudged]
    rcases hidle with ha | hs
    · exact retryWaiting_of_not_active (by rw [htable.2]; exact ha) _
    · refine retryWaiting_of_nobody fun i r hr => hs i r ?_
      rw [← recordAt_congr (congrArg Engine.table htable.1)]
      exact hr
  rw [hsame]
  refine ⟨hnoOwn, hnew, fun x hx ho => ?_, fun x hx ho => hkept x (hkept' x hx ho) fun _ _ _ => ho⟩
  rcases hold x hx with hx | ⟨i, hi, rfl⟩
  · exact hunnamed x hx ho
  · exact ⟨i, hi, rfl⟩

/-- R62, R111: where nothing is staked, an inferred lift leaves the map alone. -/
theorem inferLift_claims (h : d.NoOwn) (b : BinId) : (d.inferLift b).claims = d.claims := by
  have huse (e : Device) (he : e.claims = d.claims) (u : StakeUse) : e.claimOfUse u = none := by
    rw [Device.claimOfUse, he, List.find?_eq_none]
    intro x hx
    simp [ownUse, h x hx]
  unfold Device.inferLift
  split
  · refine forSlots_keeps (Q := fun e => e.claims = d.claims) (fun e i he => ?_) rfl
    split
    · unfold Device.giverLifted
      cases hr : (e.removeAccount (.slot i)).recordAt i with
      | none =>
        simp only [Device.endGiver, hr]
        exact he
      | some r =>
        have hclaims : (e.removeAccount (.slot i)).claims = d.claims := he
        have hsame := runHears_sameStakes (d := (e.removeAccount (.slot i)).left i (r.giverEnded outcomeDone (e.slotE i)))
          (n := r.ordinal) (o := outcomeDone) (.inr (.inl (huse _ hclaims _)))
        rw [(endGiver_claims_eq hr).1]
        unfold Device.giverGone
        dsimp only
        rw [recordStakeEnds_of_none (huse _ (hsame.claims.trans hclaims) _)]
        exact hsame.claims.trans hclaims
    · exact he
  · rfl


/-! ## An own stake yields (R63, R64, R66) -/

/-- No own stake stands on a cell, and nobody waits for an own stake. -/
structure Device.Clear (c : Cell) (d : Device) : Prop where
  noOwn : ∀ y ∈ d.claims.entries, y.own ≠ none → y.cell ≠ c
  nobody : d.noneInOwnUse

theorem Device.Clear.filter (h : d.Clear c) (p : Claim → Bool) : (d.withEntries (d.claims.entries.filter p)).Clear c :=
  ⟨fun y hy => h.noOwn y (List.mem_of_mem_filter hy), h.nobody⟩

theorem Device.Clear.modOwn (h : d.Clear c) (c' : Cell) {f : Claim → Claim} (hf : ∀ x, (f x).cell = x.cell) : (d.modOwn c' f).Clear c := by
  refine ⟨fun y hy hown => ?_, h.nobody⟩
  obtain ⟨x, hx, rfl⟩ := List.mem_map.mp hy
  split at hown
  · next hc =>
    rw [if_pos hc, hf]
    rw [Bool.and_eq_true, Option.isSome_iff_ne_none] at hc
    exact h.noOwn x hx hc.1
  · next hc =>
    rw [if_neg hc]
    exact h.noOwn x hx hown

theorem Device.Clear.dropStake (h : d.Clear c) (x : Claim) : (d.dropStake x).Clear c :=
  ⟨(h.filter fun y => !(y.own.isSome && y.cell == x.cell)).noOwn, h.nobody⟩

theorem retryReleased_of_nobody (h : d.noneInOwnUse) (c : Cell) : d.retryReleased c = d :=
  retry_of_nobody fun c _ j => not_waitsOn_of_noneInOwnUse h c j

theorem Device.Clear.runHoldEnds (h : d.Clear c) : d.runHoldEnds.Clear c := by
  unfold Device.runHoldEnds
  split
  · next x _ =>
    have hl : (d.lingerStake x.cell).Clear c := h.modOwn _ fun _ => rfl
    rw [retryReleased_of_nobody hl.nobody]
    exact hl
  · exact h

theorem Device.Clear.moveOwed (h : d.Clear c) : d.moveOwed.Clear c :=
  ⟨by rw [moveOwed_claims]; exact h.noOwn, Device.Every.moveOwed (P := fun r => r.request ≠ some .ownUse) (fun _ _ hr => hr) h.nobody⟩

theorem Device.Clear.endRun (h : d.Clear c) (x : OutcomePair) : (d.endRun x).Clear c :=
  Device.Clear.moveOwed (Device.Clear.runHoldEnds (d := d.withRun _) ⟨h.noOwn, h.nobody⟩)

theorem Device.Clear.withRun (h : d.Clear c) (x : RunList) : (d.withRun x).Clear c := ⟨h.noOwn, h.nobody⟩

theorem Device.Clear.runHears (h : d.Clear c) (n : Nat) (x : OutcomePair) : (d.runHears n x).1.Clear c := by
  by_cases hs : d.engine.run.Serves n
  · by_cases hx : x.cls = .done
    · rw [runHears_of_done hs hx]
      split
      · exact (h.withRun _).endRun _
      · unfold Device.advanceRun
        dsimp only
        split
        · exact ((h.withRun _).withRun _).endRun _
        · exact (h.withRun _).withRun _
    · rw [runHears_of_failed hs hx]
      exact (h.withRun _).endRun _
  · rw [runHears_of_other hs]
    exact h

theorem Device.Clear.recordStakeEnds (h : d.Clear c) (i : Nat) (g : Bool) : (d.recordStakeEnds i g).Clear c := by
  have hnone (c' : Cell) : (if d.isActive then d.waitingSlot c' else none) = none := by
    split
    · exact waitingSlot_eq_none fun j => not_waitsOn_of_noneInOwnUse h.nobody c' j
    · rfl
  unfold Device.recordStakeEnds
  split
  · exact h
  · next x _ =>
    split
    · rw [releaseStake_of_nobody h.nobody]
      exact h.dropStake x
    · split
      · exact h.modOwn _ fun _ => rfl
      · rw [hnone]
        exact h.modOwn _ fun _ => rfl

theorem Device.Clear.left (h : d.Clear c) (hq : q.request ≠ some .ownUse) (i : Nat) : (d.left i q).Clear c :=
  ⟨h.noOwn, setSlot_pending (d := d.withCeding _) h.nobody fun r hr => by rw [← Option.some.inj hr]; exact hq⟩

theorem Device.Clear.endGiver (h : d.Clear c) (i : Nat) (x : OutcomePair) (v : Nat) : (d.endGiver i x v).Clear c := by
  cases hr : d.recordAt i with
  | none => simpa only [Device.endGiver, hr] using h
  | some r =>
    rw [endGiver_eq hr]
    have hgone : (d.giverGone i r x v).Clear c := ((h.left (q := r.giverEnded x v) (by simp [Record.giverEnded]) i).runHears _ _).recordStakeEnds _ _
    exact Device.Clear.moveOwed ⟨by rw [modRecord_claims]; exact hgone.noOwn, noneInOwnUse_modRecord hgone.nobody fun _ hr => hr⟩

theorem Device.Clear.recordYields (h : d.Clear c) (i : Nat) : (d.recordYields i).Clear c := by
  unfold Device.recordYields
  split
  · split
    · exact ⟨h.noOwn, Device.Every.setSlot (P := fun r => r.request ≠ some .ownUse) h.nobody (by simp)⟩
    · split
      · exact ⟨h.noOwn, Device.Every.setSlot (P := fun r => r.request ≠ some .ownUse) h.nobody (by simp)⟩
      · split
        · exact Device.Clear.endGiver (d := d.sendCancel _ _) ⟨h.noOwn, h.nobody⟩ _ _ _
        · exact h
  · exact h

/-- The frames that wait are kept by what the record of a yielding stake does. -/
theorem recordYields_queued {x : TxEntry} (hx : x ∈ d.line.queue) (hs : x.sender ≠ .relay) (i : Nat) : x ∈ (d.recordYields i).line.queue := by
  unfold Device.recordYields
  split
  · next r hr =>
    split
    · exact hx
    · split
      · exact hx
      · split
        · have hsent : x ∈ (d.sendCancel r.tag 1#8).line.queue := mem_offer hx hs .engine rfl
          exact (endGiver_ended (d := d.sendCancel r.tag 1#8) hr).queued x hsent hs
        · exact hx
  · exact hx

theorem dropStake_clear (h : d.noneInOwnUse) (x : Claim) : (d.dropStake x).Clear x.cell := by
  refine ⟨fun y hy hown hcell => ?_, h⟩
  rw [dropStake_entries, Device.unstaked] at hy
  have hkept := (List.mem_filter.mp hy).2
  rw [← Option.isSome_iff_ne_none] at hown
  simp [hown, hcell] at hkept

/-- R64, R66: a HELD stake that yields is gone, and its UNSTAKE waits. -/
theorem heldYields_spec (h : d.noneInOwnUse) (x : Claim) :
    (d.heldYields x).ownClaim x.cell = none ∧
      (d.canSend → (d.heldYields x).queues .claimMap (.unstake { cell := x.cell, tag := x.tag })) := by
  have hdrop := dropStake_clear h x
  unfold Device.heldYields
  dsimp only
  split
  · next i _ =>
    have hyield := hdrop.recordYields i
    rw [retryReleased_of_nobody hyield.nobody]
    refine ⟨ownClaim_eq_none_of hyield.noOwn, fun hsend => ?_⟩
    obtain ⟨y, hy, hs, hb⟩ := dropStake_queues hsend x
    exact ⟨y, recordYields_queued hy (by rw [hs]; decide) i, hs, hb⟩
  · rw [retryReleased_of_nobody hdrop.nobody]
    exact ⟨ownClaim_eq_none_of hdrop.noOwn, fun hsend => dropStake_queues hsend x⟩

theorem contestedYields_spec (h : d.noneInOwnUse) {x : Claim} {q : RequestStatus} (hq : q ≠ .ownUse) :
    (d.contestedYields x q).ownClaim x.cell = none ∧
      (d.canSend → (d.contestedYields x q).queues .claimMap (.unstake { cell := x.cell, tag := x.tag })) := by
  rw [contestedYields_of_nobody h hq]
  refine ⟨dropStake_ownClaim .., fun hsend => dropStake_queues (d := d.requestYields x q) ?_ x⟩
  rw [requestYields_table]
  exact hsend

/-! ## Two PLACED stakes (R65) -/

theorem ownClaim_modOwn {x : Claim} (hx : d.ownClaim c = some x) {f : Claim → Claim} (hcell : ∀ y, (f y).cell = y.cell)
    (hown : ∀ y, y.own.isSome = true → (f y).own.isSome = true) : (d.modOwn c f).ownClaim c = some (f x) := by
  have hp := List.find?_some hx
  have hsame : ((fun y : Claim => y.own.isSome && y.cell == c) ∘ fun y => if y.own.isSome && y.cell == c then f y else y) =
      fun y => y.own.isSome && y.cell == c := by
    funext y
    simp only [Function.comp_apply]
    split
    · next h =>
      rw [Bool.and_eq_true] at h
      rw [hcell, hown y h.1, h.1]
    · rfl
  show (d.claims.entries.map _).find? _ = _
  rw [List.find?_map, hsame]
  have hx : d.claims.entries.find? (fun y => y.own.isSome && y.cell == c) = some x := hx
  rw [hx]
  exact congrArg some (if_pos hp)

theorem ownClaim_congr (h : e.claims = d.claims) (c : Cell) : e.ownClaim c = d.ownClaim c := by
  unfold Device.ownClaim
  rw [h]

/-- R65: the own stake stays, with the rival noted. -/
theorem cellConflict_spec {x : Claim} {n : OwnStake} (hx : d.ownClaim x.cell = some x) (hn : x.own = some n) (o : Station) :
    ∃ y, (d.cellConflict x o).ownClaim x.cell = some y ∧ y.tag = x.tag ∧ y.key = x.key ∧ y.phase = x.phase ∧ ownUse y = ownUse x ∧
      (y.own.map fun n => n.rival) = some (some o) := by
  unfold Device.cellConflict
  rw [hn]
  dsimp only
  split
  · next hr => exact ⟨x, hx, rfl, rfl, rfl, rfl, by rw [hn]; simp [hr]⟩
  · have hmod := ownClaim_modOwn (f := fun y => { y with own := y.own.map fun o' => { o' with rival := some o } }) hx (fun _ => rfl)
      fun y => by simp
    refine ⟨{ x with own := x.own.map fun o' => { o' with rival := some o } }, ?_, rfl, rfl, rfl, by simp [ownUse, hn], by simp [hn]⟩
    rw [← hmod]
    split
    · refine ownClaim_congr ?_ _
      unfold Device.raiseCellConflict
      exact moveOwed_claims.trans (modRecord_claims _)
    · rfl

/-! ## One stake listed against an own one (R59, R61, R63) -/

/-- R59, R63: whether an own stake yields to a listed one. -/
def StakeYields (o own : Station) (i : StakeItem) (x : Claim) : Prop :=
  match x.phase with
  | .contested => i.phase ≠ 1 ∨ Outranks i.key.toNat o x
  | .held => i.phase = 3 ∨ (i.phase = 2 ∧ o.toNat < own.toNat)
  | .placed => False

/-- R23: the phase of a listed stake is one of the three codes. -/
theorem phaseCode_phaseOfByte {i : StakeItem} (hi : stakeItemValid i = true) : phaseCode (phaseOfByte i.phase) = i.phase := by
  simp only [stakeItemValid, Bool.and_eq_true, decide_eq_true_eq] at hi
  have hcases : i.phase = 1 ∨ i.phase = 2 ∨ i.phase = 3 := by bv_omega
  rcases hcases with h | h | h <;> rw [h] <;> rfl

/-- What judging a listed stake makes of the own one on its cell. -/
structure Judged (o : Station) (d e : Device) (i : StakeItem) (x : Claim) : Prop where
  yields : StakeYields o d.own i x → e.ownClaim i.cell = none ∧
    (d.canSend → e.queues .claimMap (.unstake { cell := i.cell, tag := x.tag }))
  stays : ¬StakeYields o d.own i x → ∃ y, e.ownClaim i.cell = some y ∧ y.tag = x.tag ∧ y.key = x.key ∧ y.phase = x.phase ∧
    ownUse y = ownUse x ∧ (x.phase = .placed → i.phase = 3 → (y.own.map fun n => n.rival) = some (some o))

theorem judgeStake_judged {i : StakeItem} {x : Claim} (hi : stakeItemValid i = true) (h : d.noneInOwnUse) (hx : d.ownClaim i.cell = some x) :
    Judged o d (d.judgeStake o i) i x := by
  have hfound := List.find?_some hx
  simp only [Bool.and_eq_true, beq_iff_eq, Option.isSome_iff_exists] at hfound
  obtain ⟨⟨n, hn⟩, hcell⟩ := hfound
  have hgone {e : Device} (he : e.ownClaim x.cell = none ∧
      (d.canSend → e.queues .claimMap (.unstake { cell := x.cell, tag := x.tag }))) (hy : StakeYields o d.own i x) : Judged o d e i x := by
    rw [hcell] at he
    exact ⟨fun _ => he, fun hno => absurd hy hno⟩
  have hkept (hno : ¬StakeYields o d.own i x) (hr : x.phase = .placed → i.phase ≠ 3) : Judged o d d i x :=
    ⟨fun hy => absurd hy hno, fun _ => ⟨x, hx, rfl, rfl, rfl, rfl, fun h1 h2 => absurd h2 (hr h1)⟩⟩
  have hcode := phaseCode_phaseOfByte hi
  unfold Device.judgeStake
  rw [hx]
  dsimp only
  generalize phaseOfByte i.phase = p at hcode
  cases hph : x.phase with
  | contested =>
    cases p with
    | contested =>
      dsimp only
      split
      · next hb => exact hgone (contestedYields_spec h (by decide)) (by simp [StakeYields, hph, better_iff.mp hb])
      · next hb => exact hkept (by simpa [StakeYields, hph, ← hcode, phaseCode, better_iff] using hb) (by simp [hph])
    | held | placed => exact hgone (contestedYields_spec h (by decide)) (by simp [StakeYields, hph, ← hcode, phaseCode])
  | held =>
    cases p with
    | contested => exact hkept (by simp [StakeYields, hph, ← hcode, phaseCode]) (by simp [hph])
    | held =>
      dsimp only
      split
      · next hb => exact hgone (heldYields_spec h x) (by simp [StakeYields, hph, ← hcode, phaseCode, hb])
      · next hb => exact hkept (by simp [StakeYields, hph, ← hcode, phaseCode, Nat.not_lt.mp hb]) (by simp [hph])
    | placed => exact hgone (heldYields_spec h x) (by simp [StakeYields, hph, ← hcode, phaseCode])
  | placed =>
    have hno : ¬StakeYields o d.own i x := by simp [StakeYields, hph]
    cases p with
    | contested | held => exact hkept hno (by simp [← hcode, phaseCode])
    | placed =>
      obtain ⟨y, hy, h2, h3, h4, h5, h6⟩ := cellConflict_spec (hcell ▸ hx) hn o
      exact ⟨fun hy => absurd hy hno, fun _ => ⟨y, hcell ▸ hy, h2, h3, h4, h5, fun _ _ => h6⟩⟩

/-- R53: a list of one stake, in a map with room that holds nothing of its origin. -/
theorem hearStakes_of_one {i : StakeItem} (h : d.NoHeardOf o) (hroom : d.claims.entries.length < 48) :
    ∃ l, d.hearStakes o [i] = ((d.writeHeard i.cell o i.tag i.key.toNat (phaseOfByte i.phase)).withLink l).judgeStake o i := by
  have hgone : d.claims.entries.filter (fun x => x.own.isNone && (x.claimant == o && [i].all fun i => i.cell != x.cell)) = [] := by
    rw [List.filter_eq_nil_iff]
    intro x hx hp
    simp only [Bool.and_eq_true, Option.isNone_iff_eq_none, beq_iff_eq] at hp
    exact h x hx hp.1 hp.2.1
  have hall : (d.removeHeardAll fun x => x.claimant == o && [i].all fun i => i.cell != x.cell) = (d, []) := by
    simp only [Device.removeHeardAll, hgone, List.foldl_nil, List.map_nil]
  obtain ⟨l, hl⟩ := writeListed_of_room (o := o) (m := (d, [])) hroom i
  refine ⟨l, ?_⟩
  have hnobody (e : Device) : e.waitingSlots [] = [] := by simp [Device.waitingSlots]
  simp only [Device.hearStakes, hall, List.foldl_cons, List.foldl_nil, hl, hnobody]
  rfl

/-- R47: outside JOINING a PRESENCE is over with its stake list. -/
theorem hearPresence_of_not_joining {b : PresenceBody} (hD : (d.hear o).hearAnnounced o b = e) (hp : d.peers.state ≠ .joining) (k : Bool) :
    d.hearPresence o b k = e.hearStakes o b.stakes := by
  have hstate : e.peers.state = d.peers.state := by rw [← hD]; exact hearing_state ..
  have hafter : (e.hearStakes o b.stakes).peers.state = e.peers.state := Moves.state_eq (P := True) ((Moves.refl e).hearStakes o b.stakes)
  have h1 := inferLift_of_not_joining b.hoistBin (d := e) (by rw [hstate]; exact hp)
  have h2 := inferLift_of_not_joining b.hoistBin (d := e.hearStakes o b.stakes) (by rw [hafter, hstate]; exact hp)
  cases k <;> simp only [Device.hearPresence, hD, h1, h2, if_true, Bool.false_eq_true, if_false]

/-- Settles O48. -/
theorem presenceStakesAreJudged : Obligations.PresenceStakesAreJudged := by
  intro s o b k hh hroster
  have ⟨_, _, _, _, _, hvalid⟩ := hh
  simp only [bodyValid, Bool.and_eq_true, List.all_eq_true] at hvalid
  obtain ⟨⟨-, hitems⟩, hdistinct⟩ := hvalid
  have hheard := hearing_heard (d := s.toDevice) (o := o) hroster b
  have hstate := hearing_state s.toDevice o b
  generalize hD : (s.hear o).hearAnnounced o b = m at hheard hstate
  have hexec : exec (.presenceHeard o b k) s = .next (s.after (s.hearPresence o b k)) := exec_heard hh k
  refine ⟨fun hidle hown hlen => ?_, fun i x n hb hj hnobody hno hroom hx hn => ?_, fun i r hj hb hbin hlen hr hp hst hbr => ?_⟩
  · have hmown : m.NoOwn := by
      intro y hy
      rw [hheard.claims] at hy
      exact hown y hy
    have hmidle : m.peers.state ≠ .active ∨ m.noneStaking := .inr (hheard.every _ (fun _ _ h => h) hidle)
    have hlisted : Listed o b.stakes s.toDevice (s.hearPresence o b k) := by
      by_cases hj : s.peers.state = .joining
      · have hna : m.peers.state ≠ .active := by rw [hstate, hj]; decide
        cases k with
        | false =>
          have hl := hearStakes_listed (o := o) hmown (by rw [hheard.claims]; exact hlen) hdistinct hmidle
          have hfin : s.hearPresence o b false = (m.hearStakes o b.stakes).inferLift b.hoistBin := by
            rw [← hD]
            rfl
          have hcl := inferLift_claims hl.noOwn b.hoistBin
          rw [hfin]
          refine ⟨?_, ?_, ?_, ?_⟩
          · unfold Device.NoOwn
            rw [hcl]
            exact hl.noOwn
          · rw [hcl]
            exact hl.new
          · rw [hcl]
            exact hl.mine
          · rw [hcl, ← hheard.claims]
            exact hl.kept
        | true =>
          have hcl := inferLift_claims hmown b.hoistBin
          have hna' : (m.inferLift b.hoistBin).peers.state ≠ .active := by
            rw [Moves.state_eq (P := True) ((Moves.refl m).inferLift b.hoistBin)]
            exact hna
          have hown' : (m.inferLift b.hoistBin).NoOwn := by
            unfold Device.NoOwn
            rw [hcl]
            exact hmown
          have hl := hearStakes_listed (o := o) hown' (by rw [hcl, hheard.claims]; exact hlen) hdistinct (.inl hna')
          have hfin : s.hearPresence o b true = (m.inferLift b.hoistBin).hearStakes o b.stakes := by
            rw [← hD]
            rfl
          rw [hfin]
          refine ⟨hl.noOwn, hl.new, hl.mine, fun y hy => hl.kept y ?_⟩
          rw [hcl, hheard.claims]
          exact hy
      · rw [hearPresence_of_not_joining hD hj]
        have hl := hearStakes_listed (o := o) hmown (by rw [hheard.claims]; exact hlen) hdistinct hmidle
        refine ⟨hl.noOwn, hl.new, hl.mine, ?_⟩
        rw [← hheard.claims]
        exact hl.kept
    refine ⟨_, hexec, fun i hi => ⟨itemEntry o i, hlisted.new i hi, rfl, rfl, rfl, rfl, rfl, phaseCode_phaseOfByte (hitems i hi), rfl⟩,
      hlisted.mine, hlisted.kept⟩
  · intro yields
    rw [hearPresence_of_not_joining hD hj, hb] at hexec
    have hmx : m.ownClaim i.cell = some x := (ownClaim_congr hheard.claims _).trans hx
    have hmno : m.NoHeardOf o := noHeardOf_congr (d := s.toDevice) (congrArg ClaimMap.entries hheard.claims) hno
    obtain ⟨l, hl⟩ := hearStakes_of_one (i := i) hmno (by rw [hheard.claims]; exact hroom)
    obtain ⟨y, hy, hyx⟩ := ownClaim_writeHeard (st := o) (c := i.cell) hmx i.tag i.key.toNat (phaseOfByte i.phase)
    have hrest : y.cell = x.cell ∧ y.claimant = x.claimant ∧ y.tag = x.tag ∧ y.key = x.key ∧ y.phase = x.phase ∧ ownUse y = ownUse x := by
      rcases hyx with rfl | ⟨-, rfl⟩
      · exact ⟨rfl, rfl, rfl, rfl, rfl, rfl⟩
      · obtain ⟨h1, h2, h3, h4, h5, -, -, h8⟩ := rivalCleared_rest (c := i.cell) (st := o) x
        exact ⟨h1, h2, h3, h4, h5, h8⟩
    obtain ⟨-, hclaimant, htag, hkey, hphase, huse⟩ := hrest
    have hbeside := writeHeard_beside m i.cell o i.tag i.key.toNat (phaseOfByte i.phase)
    let w : Device := (m.writeHeard i.cell o i.tag i.key.toNat (phaseOfByte i.phase)).withLink l
    have hwline : w.line = s.line := by
      show (m.writeHeard i.cell o i.tag i.key.toNat (phaseOfByte i.phase)).line = s.line
      rw [hbeside]
      exact hheard.line
    have hwtable : w.engine = m.engine := by
      show (m.writeHeard i.cell o i.tag i.key.toNat (phaseOfByte i.phase)).engine = m.engine
      rw [hbeside]
      rfl
    have hwnobody : w.noneInOwnUse := by
      intro j q hq
      rw [recordAt_congr (congrArg Engine.table hwtable)] at hq
      exact hheard.every (fun r => r.request ≠ some .ownUse) (fun _ _ h => h) hnobody j q hq
    have hjudged : Judged o w (w.judgeStake o i) i y := judgeStake_judged (hitems i (by rw [hb]; exact List.mem_singleton.mpr rfl)) hwnobody hy
    have hown : w.own = s.line.station := congrArg LinePort.station hwline
    have hout : Outranks i.key.toNat o y ↔ Outranks i.key.toNat o x := by
      unfold Outranks
      rw [hkey, hclaimant]
    have hiff : StakeYields o w.own i y ↔ StakeYields o s.line.station i x := by
      unfold StakeYields
      rw [hphase, hown, hout]
    refine ⟨_, hexec.trans (congrArg (fun d => Host.Outcome.next (s.after d)) hl), fun hyield => ?_, fun hno => ?_⟩
    · obtain ⟨h1, h2⟩ := hjudged.yields (hiff.mpr hyield)
      refine ⟨h1, fun hsend => ?_⟩
      rw [← htag]
      refine h2 ?_
      unfold Device.canSend
      rw [hwline]
      exact hsend
    · obtain ⟨z, hz, h1, h2, h3, h4, h5⟩ := hjudged.stays (hiff.not.mpr hno)
      refine ⟨z, hz, h1.trans htag, h2.trans hkey, h3.trans hphase, ?_, fun hpl => h5 (hphase.trans hpl)⟩
      rw [h4, huse, ownUse, hn]
      rfl
  · have hmst : m.peers.state = .joining := hstate.trans hj
    have hna : m.peers.state ≠ .active := by rw [hmst]; decide
    have hon : r.binOnCell = true := by
      unfold Record.binOnCell
      rcases hst with h | h | h <;> simp [hp, h]
    have hlive : (r.isEnded && r.endCollected) = false := by rcases hst with h | h | h <;> simp [Record.isEnded, h]
    have hi : i < Config.slotCount := (recordAt_lt s.toDevice hr).trans_eq hlen
    have hmr := hheard.record i r hlive (hasRecord_self hr)
    have hslot : m.slotE i = accountE (s.accountAt (.slot i)) := congrArg accountE (accountAt_congr hheard.accounts _)
    have hfin : (s.hearPresence o b k).HasRecord i (r.giverEnded outcomeDone (m.slotE i)) ∧
        (s.hearPresence o b k).accountAt (.slot i) = none := by
      cases k with
      | false =>
        obtain ⟨es, hes⟩ := hearStakes_nil_of_not_active hna o
        have hfin : s.hearPresence o b false = (m.withEntries es).inferLift b.hoistBin := by
          rw [← hes, ← hD, ← hb]
          rfl
        rw [hfin]
        exact inferLift_lifts (d := m.withEntries es) hmst hbin hi hmr hon hbr
      | true =>
        have hna' : (m.inferLift b.hoistBin).peers.state ≠ .active := by
          rw [Moves.state_eq (P := True) ((Moves.refl m).inferLift b.hoistBin)]
          exact hna
        obtain ⟨es, hes⟩ := hearStakes_nil_of_not_active hna' o
        have hfin : s.hearPresence o b true = (m.inferLift b.hoistBin).withEntries es := by
          rw [← hes, ← hD, ← hb]
          rfl
        rw [hfin]
        exact inferLift_lifts hmst hbin hi hmr hon hbr
    obtain ⟨⟨q, hq, hqr⟩, hacc⟩ := hfin
    exact ⟨_, q, hexec, hq, by rw [hqr]; rfl, by rw [hqr]; rfl, by rw [hqr]; rfl, by rw [hqr]; exact hslot, hacc⟩

end Sys2Proof.Machine
end

section
/-! PROOF. The receive filter on a frame of another station (R15 to R19, R22, R29): what every accepted frame does, in whatever order. -/

namespace Sys2Proof.Machine

set_option Elab.async false

variable {d e : Device} {s : State} {i j : Nat} {r q : Record} {o st : Station} {c : Cell} {f : Frame} {k : Bool}

/-! ## A hearing of the origin (R42) -/

/-- The roster shows that a station has just been heard. -/
def Device.HeardNow (o : Station) (d : Device) : Prop := ∃ x ∈ d.peers.roster, x.station = o ∧ x.age = 0 ∧ x.link = .heard

theorem heardNow_modEntry {g : RosterEntry → RosterEntry} (h : d.HeardNow o)
    (hg : ∀ x, (g x).station = x.station ∧ (g x).age = x.age ∧ (g x).link = x.link) : (d.modEntry st g).HeardNow o := by
  obtain ⟨x, hx, ho, hage, hl⟩ := h
  refine ⟨_, List.mem_map.mpr ⟨x, hx, rfl⟩, ?_⟩
  obtain ⟨h1, h2, h3⟩ := hg x
  split
  · exact ⟨h1.trans ho, h2.trans hage, h3.trans hl⟩
  · exact ⟨ho, hage, hl⟩

theorem heardNow_congr (h : e.peers.roster = d.peers.roster) (hd : d.HeardNow o) : e.HeardNow o := by
  unfold Device.HeardNow
  rw [h]
  exact hd

theorem hear_heardNow (d : Device) (o : Station) : (d.hear o).HeardNow o := by
  unfold Device.hear
  split
  · next x hx =>
    have hfound := List.find?_some hx
    refine ⟨_, List.mem_map.mpr ⟨x, List.mem_of_find?_eq_some hx, rfl⟩, ?_⟩
    rw [if_pos hfound]
    exact ⟨beq_iff_eq.mp hfound, rfl, rfl⟩
  · exact ⟨newEntry o, (mem_insertEntry ..).mpr (.inl rfl), rfl, rfl, rfl⟩

theorem hearAnnounced_heardNow (h : d.HeardNow o) (b : PresenceBody) : (d.hearAnnounced o b).HeardNow o := by
  unfold Device.hearAnnounced
  split
  · have hroster (e : Device) (a : Option StationState) (n : StationState) : (e.announcedChange o a n).peers.roster = e.peers.roster :=
      ((Moves.refl (R := False) (S := False) e).announcedChange o a n).roster_eq not_false
    refine heardNow_congr (hroster ..) ?_
    exact heardNow_modEntry h fun _ => ⟨rfl, rfl, rfl⟩
  · exact h

/-- A PRESENCE at its owner is a hearing of its origin too; no other body touches the roster. -/
theorem dispatch_roster (d : Device) (o : Station) (b : Body) (k : Bool) :
    (d.dispatch o b k).HeardNow o ∨ (d.dispatch o b k).peers.roster = d.peers.roster := by
  have hrefl : Moves False True d d := .refl d
  have hkept {e : Device} (he : Moves False True d e) : e.HeardNow o ∨ e.peers.roster = d.peers.roster := .inr (he.roster_eq not_false)
  cases b with
  | presence b =>
    have hnow := hearAnnounced_heardNow (hear_heardNow d o) b
    refine .inl (heardNow_congr (d := (d.hear o).hearAnnounced o b) ?_ hnow)
    have hm : Moves False False ((d.hear o).hearAnnounced o b) ((d.hear o).hearAnnounced o b) := .refl _
    show (d.hearPresence o b k).peers.roster = _
    unfold Device.hearPresence
    dsimp only
    split
    · exact ((hm.inferLift b.hoistBin).hearStakes o b.stakes).roster_eq not_false
    · exact ((hm.hearStakes o b.stakes).inferLift b.hoistBin).roster_eq not_false
  | stake b => exact hkept (hrefl.hearStake o b)
  | unstake b => exact hkept (hrefl.hearUnstake o b)
  | offer b => exact hkept (hrefl.hearOffer o b)
  | agree b => exact hkept (hrefl.hearAgree o b)
  | decline b => exact hkept (hrefl.hearDecline o b)
  | bind b => exact hkept (hrefl.hearBind o b)
  | setdown b => exact hkept (hrefl.hearSetdown o b)
  | lifted b => exact hkept (hrefl.hearLifted o b)
  | cancel b => exact hkept (hrefl.hearCancel o b)
  | adopt b => exact hkept (hrefl.hearAdopt trivial o b)
  | cede b => exact hkept (hrefl.hearCede o b)
  | receipt b => exact hkept (hrefl.hearReceipt trivial o b)

theorem dispatch_heardNow (h : d.HeardNow o) (b : Body) : (d.dispatch o b k).HeardNow o :=
  (dispatch_roster d o b k).elim id fun hr => heardNow_congr hr h

/-! ## The steps of an accepted frame, in an open order (R19) -/

theorem offerRelay_setting (l : LinePort) (f : Frame) : l.SameSetting (l.offerRelay f) := by
  unfold LinePort.offerRelay LinePort.append
  dsimp only
  split
  · split <;> exact ⟨rfl, rfl, rfl, rfl, rfl, rfl, rfl, rfl, rfl⟩
  · exact .refl l

theorem relayCopy_beside (d : Device) (f : Frame) :
    d.relayCopy f = d.withLine (d.relayCopy f).line ∧ d.line.SameSetting (d.relayCopy f).line := by
  unfold Device.relayCopy
  split
  · exact ⟨rfl, offerRelay_setting ..⟩
  · exact ⟨rfl, .refl _⟩

theorem acceptStep_setting (f : Frame) (k : Bool) (d : Device) (x : FrameStep) : d.line.SameSetting (d.acceptStep f k x).line := by
  have hm : Moves True True d d := .refl d
  cases x with
  | relayCopy => exact (relayCopy_beside d f).2
  | hearing => exact (hm.hear trivial f.origin).line_setting
  | body => exact (hm.dispatch trivial trivial f.origin f.body k).line_setting


/-- R19: an accepted frame is recorded, and is a hearing of its origin, in every order. -/
theorem acceptFrame_heard (f : Frame) (order : List FrameStep) (k : Bool) (d : Device) :
    d.line.SameSetting (d.acceptFrame f order k).line ∧ (d.acceptFrame f order k).HeardNow f.origin := by
  have hmem : FrameStep.hearing ∈ orderBy order [.relayCopy, .hearing, .body] := (orderBy_perm order _).mem_iff.mpr (by simp)
  unfold Device.acceptFrame
  refine ⟨foldl_keeps (Q := fun e => d.line.SameSetting e.line) (fun e x he => he.trans (acceptStep_setting f k e x)) _ (.refl _), ?_⟩
  generalize orderBy order [.relayCopy, .hearing, .body] = l at hmem
  have hfold : ∀ (l : List FrameStep) (e : Device), (FrameStep.hearing ∈ l ∨ e.HeardNow f.origin) →
      (l.foldl (Device.acceptStep f k) e).HeardNow f.origin := by
    intro l
    induction l with
    | nil => exact fun e he => he.resolve_left (by simp)
    | cons x l ih =>
      intro e he
      refine ih _ ?_
      cases x with
      | hearing => exact .inr (hear_heardNow e f.origin)
      | relayCopy =>
        refine he.imp (fun h => by simpa using h) fun h => heardNow_congr (d := e) ?_ h
        show (e.relayCopy f).peers.roster = _
        rw [(relayCopy_beside e f).1]
        rfl
      | body => exact he.imp (fun h => by simpa using h) fun h => dispatch_heardNow h f.body
  exact hfold l d (.inl hmem)

/-- A hearing of a station needs no room that the roster has not. -/
def Device.RosterReady (o : Station) (d : Device) : Prop := d.rosterEntry o ≠ none ∨ d.peers.roster.length < 24

theorem rosterReady_of_heardNow (h : d.HeardNow o) : d.RosterReady o := by
  obtain ⟨x, hx, ho, -⟩ := h
  exact .inl fun hn => rosterEntry_eq_none.mp hn x hx ho

theorem rosterReady_congr (h : e.peers.roster = d.peers.roster) (hd : d.RosterReady o) : e.RosterReady o := by
  unfold Device.RosterReady Device.rosterEntry
  rw [h]
  exact hd

/-- R42: a hearing that takes no other station's place changes the roster and a flag. -/
theorem hear_of_ready (h : d.RosterReady o) :
    ∃ es fl, d.hear o = (d.withRoster es).withLink { d.link with flags := fl } := by
  cases hx : d.rosterEntry o with
  | some x =>
    exact ⟨d.peers.roster.map fun (y : RosterEntry) => if y.station == o then { y with age := 0, link := .heard } else y, d.link.flags, hear_of_known hx⟩
  | none => exact ⟨_, _, hear_of_new hx (h.resolve_left (not_not_intro hx))⟩

/-- The frame's copy, by the Line Port alone (R19). -/
def LinePort.relayed (l : LinePort) (f : Frame) : LinePort :=
  if !f.relayed && l.relay && !(l.mode == .mute) then l.offerRelay f else l

theorem relayCopy_eq (d : Device) (f : Frame) : d.relayCopy f = d.withLine (d.line.relayed f) := by
  unfold Device.relayCopy LinePort.relayed Device.muted
  split <;> rfl

/-- What is asked of a part so that a body leaves its Line Port alone, whatever else the frame does before. -/
structure LeavesLine (f : Frame) (k : Bool) (A : Device → Prop) : Prop where
  hear : ∀ e es fl, A e → A ((e.withRoster es).withLink { e.link with flags := fl })
  relay : ∀ e, A e → A (e.withLine (e.line.relayed f))
  body : ∀ e, A e → e.RosterReady f.origin → (e.dispatch f.origin f.body k).line = e.line

theorem acceptSteps_line {A : Device → Prop} (hA : LeavesLine f k A) {l : List FrameStep} (hl : l.Nodup)
    (hd : FrameStep.body ∈ l → A d) (hr : d.RosterReady f.origin) :
    (l.foldl (Device.acceptStep f k) d).line = if FrameStep.relayCopy ∈ l then d.line.relayed f else d.line := by
  induction l generalizing d with
  | nil => rfl
  | cons x l ih =>
    obtain ⟨hx, hnodup⟩ := List.nodup_cons.mp hl
    have htail : FrameStep.body ∈ l → A d := fun h => hd (List.mem_cons_of_mem _ h)
    rw [List.foldl_cons]
    cases x with
    | relayCopy =>
      have hstep : d.acceptStep f k .relayCopy = d.withLine (d.line.relayed f) := relayCopy_eq d f
      have hrest := ih (d := d.withLine (d.line.relayed f)) hnodup (fun h => hA.relay d (htail h)) (rosterReady_congr rfl hr)
      rw [hstep, hrest, if_neg hx, if_pos List.mem_cons_self]
      rfl
    | hearing =>
      obtain ⟨es, fl, hh⟩ := hear_of_ready hr
      have hready := rosterReady_of_heardNow (hear_heardNow d f.origin)
      have hstep : d.acceptStep f k .hearing = d.hear f.origin := rfl
      rw [hstep]
      rw [hh] at hready ⊢
      rw [ih hnodup (fun h => hA.hear d es fl (htail h)) hready]
      simp
      rfl
    | body =>
      have hline := hA.body d (hd List.mem_cons_self) hr
      have hstep : d.acceptStep f k .body = d.dispatch f.origin f.body k := rfl
      have hready : (d.dispatch f.origin f.body k).RosterReady f.origin :=
        (dispatch_roster d f.origin f.body k).elim rosterReady_of_heardNow fun h => rosterReady_congr h hr
      rw [hstep, ih hnodup (fun h => absurd h hx) hready, hline]
      simp

theorem acceptFrame_line {A : Device → Prop} (hA : LeavesLine f k A) (hd : A d) (hr : d.RosterReady f.origin) (order : List FrameStep) :
    (d.acceptFrame f order k).line = d.line.relayed f := by
  have hperm := orderBy_perm order [FrameStep.relayCopy, .hearing, .body]
  unfold Device.acceptFrame
  rw [acceptSteps_line hA (hperm.nodup_iff.mpr (by decide)) (fun _ => hd) hr, if_pos (hperm.mem_iff.mpr (by simp))]


/-! ## A quiet ACTIVE station sends nothing of its own (R29) -/

/-- An ACTIVE station without records, own stakes, adoption or open turn. -/
structure Device.Quiet (d : Device) : Prop where
  active : d.peers.state = .active
  slots : d.engine.table.length = 16
  records : ∀ i, d.recordAt i = none
  noOwn : d.NoOwn
  adoption : d.engine.adoption.phase = .none
  turn : d.engine.ceding.turn = .none

theorem Device.Quiet.congr (h : d.Quiet) (hp : e.peers.state = d.peers.state) (he : e.engine = d.engine) (hown : e.NoOwn) : e.Quiet :=
  ⟨hp.trans h.active, by rw [he]; exact h.slots, fun i => (recordAt_congr (congrArg Engine.table he) i).trans (h.records i), hown,
    by rw [he]; exact h.adoption, by rw [he]; exact h.turn⟩

/-- The parts that writing heard entries leaves alone. -/
structure Device.MapOnly (d e : Device) : Prop where
  line : e.line = d.line
  engine : e.engine = d.engine
  state : e.peers.state = d.peers.state
  noOwn : d.NoOwn → e.NoOwn

theorem Device.MapOnly.trans {a b c : Device} (h : a.MapOnly b) (g : b.MapOnly c) : a.MapOnly c :=
  ⟨g.line.trans h.line, g.engine.trans h.engine, g.state.trans h.state, fun ha => g.noOwn (h.noOwn ha)⟩

theorem Device.MapOnly.refl (d : Device) : d.MapOnly d := ⟨rfl, rfl, rfl, id⟩

theorem Device.Quiet.mapOnly (h : d.Quiet) (g : d.MapOnly e) : e.Quiet := h.congr g.state g.engine (g.noOwn h.noOwn)

theorem noOwn_map {g : Claim → Claim} {l : List Claim} (h : ∀ x ∈ l, x.own = none) (hg : ∀ x, x.own = none → (g x).own = none) :
    ∀ y ∈ l.map g, y.own = none := by
  intro y hy
  obtain ⟨x, hx, rfl⟩ := List.mem_map.mp hy
  exact hg x (h x hx)

theorem rivalCleared_own {x : Claim} (h : x.own = none) : (x.rivalCleared c st).own = none := by
  unfold Claim.rivalCleared
  split
  · simp [h]
  · exact h

theorem removeHeard_mapOnly (d : Device) (c : Cell) (st : Station) : d.MapOnly (d.removeHeard c st) :=
  ⟨rfl, rfl, rfl, fun h => noOwn_map (fun x hx => h x (List.mem_of_mem_filter hx)) fun _ => rivalCleared_own⟩

theorem writeHeard_mapOnly (d : Device) (c : Cell) (st : Station) (t : Tag) (key : Nat) (p : Phase) :
    d.MapOnly (d.writeHeard c st t key p) := by
  have hb := writeHeard_beside d c st t key p
  refine ⟨by rw [hb]; rfl, by rw [hb]; rfl, by rw [hb]; rfl, fun h => ?_⟩
  have hins : ∀ x ∈ insertClaim (heardEntry c st t key p) d.claims.entries, x.own = none := by
    intro x hx
    rcases mem_insertClaim hx with rfl | hx
    · rfl
    · exact h x hx
  unfold Device.NoOwn
  rw [writeHeard_entries]
  split
  · exact hins
  · exact noOwn_map hins fun _ => rivalCleared_own

theorem recordHeard_mapOnly (d : Device) (x : Option Station) (c : Cell) (st : Station) (t : Tag) (key : Nat) (p : Phase) :
    d.MapOnly (d.recordHeard x c st t key p).1 := by
  unfold Device.recordHeard
  split
  · exact writeHeard_mapOnly ..
  · refine Device.MapOnly.trans ?_ (writeHeard_mapOnly ..)
    unfold Device.makeRoom
    split
    · exact .refl d
    · unfold Device.evict
      split
      · exact .refl d
      · exact removeHeard_mapOnly ..
      · exact (removeHeard_mapOnly d _ _).trans ⟨rfl, rfl, rfl, id⟩

theorem watchHits_mapOnly (d : Device) (c : Cell) (st : Station) : d.MapOnly (d.watchHits c st) := by
  rw [watchHits_link]
  exact ⟨rfl, rfl, rfl, id⟩

theorem Device.Quiet.noneStaking (h : d.Quiet) : d.noneStaking := fun i r hr => by
  rw [h.records i] at hr
  cases hr

theorem Device.Quiet.slotOf (h : d.Quiet) (t : Tag) : d.slotOf t = none := slotOf_eq_none.mpr fun j r hr => by
  rw [h.records j] at hr
  cases hr

theorem Device.Quiet.concerned (h : d.Quiet) (t : Tag) (o : Station) : d.concerned t o = none := by
  simp only [Device.concerned, h.slotOf t]

theorem Device.Quiet.retryRemoved (h : d.Quiet) (cells : List Cell) : d.retryRemoved cells = d := by
  unfold Device.retryRemoved
  refine retry_of_nobody fun c _ i => ?_
  simp [Device.waitsOn, Device.recordIs, h.records i]

theorem hearStakes_mapOnly (h : d.Quiet) (o : Station) (items : List StakeItem) : d.MapOnly (d.hearStakes o items) := by
  have hgone (p : Claim → Bool) : d.MapOnly (d.removeHeardAll p).1 :=
    foldl_keeps (f := fun d (x : Claim) => d.removeHeard x.cell x.claimant) (Q := d.MapOnly)
      (fun e x he => he.trans (removeHeard_mapOnly ..)) _ (.refl d)
  have hwritten (m : Device × List Cell) (hm : d.MapOnly m.1) : d.MapOnly (items.foldl (writeListed o) m).1 := by
    refine List.foldlRecOn items (writeListed o) (motive := fun n => d.MapOnly n.1) hm fun n hn i _ => ?_
    have hrec := hn.trans (recordHeard_mapOnly n.1 (some o) i.cell o i.tag i.key.toNat (phaseOfByte i.phase))
    unfold writeListed
    dsimp only
    split
    · exact hrec.trans (watchHits_mapOnly ..)
    · exact hrec
  have hm := hwritten (d.removeHeardAll fun x => x.claimant == o && items.all fun i => i.cell != x.cell) (hgone _)
  unfold Device.hearStakes
  dsimp only
  generalize items.foldl (writeListed o) _ = m at hm
  have hquiet := h.mapOnly hm
  have hjudged : items.foldl (Device.judgeStake o) m.1 = m.1 := by
    refine foldl_keeps (Q := fun e => e = m.1) (fun e i he => ?_) _ rfl
    subst he
    simp only [Device.judgeStake, ownClaim_of_noOwn hquiet.noOwn]
  rw [hjudged, retryWaiting_of_nobody hquiet.noneStaking]
  exact hm

theorem pushNotice_mapOnly (d : Device) (n : Notice) : d.MapOnly (d.pushNotice n) := by
  unfold Device.pushNotice
  split <;> exact ⟨rfl, rfl, rfl, id⟩

theorem Device.Quiet.hasPartner (h : d.Quiet) (st : Station) : d.hasPartner st = false := by
  rw [Bool.eq_false_iff]
  intro hp
  obtain ⟨i, r, hr, -⟩ := (hasPartner_iff d st).mp hp
  rw [h.records i] at hr
  cases hr

/-- R45: without records an announced state is told of by PEER_STATE at most. -/
theorem announcedChange_mapOnly (h : d.Quiet) (st : Station) (old : Option StationState) (new : StationState) :
    d.MapOnly (d.announcedChange st old new) := by
  have hflag : d.MapOnly d.peerChange := ⟨rfl, rfl, rfl, id⟩
  unfold Device.announcedChange
  dsimp only
  split
  · exact .refl d
  · split
    · rw [(h.mapOnly hflag).hasPartner st]
      exact hflag.trans (pushNotice_mapOnly ..)
    · split
      · exact hflag
      · exact .refl d

theorem hearing_mapOnly (h : d.Quiet) (hr : d.RosterReady o) (b : PresenceBody) : d.MapOnly ((d.hear o).hearAnnounced o b) := by
  cases hx : d.rosterEntry o with
  | some x =>
    have hm : d.MapOnly (d.modEntry o (RosterEntry.announcing · b)) := ⟨rfl, rfl, rfl, id⟩
    rw [hearing_of_known hx b]
    exact hm.trans (announcedChange_mapOnly (h.mapOnly hm) ..)
  | none =>
    have hm : d.MapOnly (d.withRoster (insertEntry ((newEntry o).announcing b) d.peers.roster)).peerChange := ⟨rfl, rfl, rfl, id⟩
    rw [hearing_of_new hx (hr.resolve_left (not_not_intro hx)) b]
    exact hm.trans (announcedChange_mapOnly (h.mapOnly hm) ..)

theorem Device.Quiet.freeSlot (h : d.Quiet) : d.freeSlot ≠ none := by
  intro hf
  have hnone := List.findIdx?_eq_none_iff.mp hf
  have hlt : 0 < d.engine.table.length := by rw [h.slots]; decide
  have hrec := h.records 0
  rw [Device.recordAt, List.getElem?_eq_getElem hlt] at hrec
  have hfull := hnone _ (List.getElem_mem hlt)
  cases hx : d.engine.table[0] with
  | none => rw [hx] at hfull; cases hfull
  | some r => rw [hx] at hrec; cases hrec

/-- R29: no body makes a quiet station send. -/
theorem dispatch_line_of_quiet (h : d.Quiet) (hr : d.RosterReady o) (b : Body) : (d.dispatch o b k).line = d.line := by
  cases b with
  | presence b =>
    have hm := hearing_mapOnly h hr b
    have hnj : d.peers.state ≠ .joining := by rw [h.active]; decide
    show (d.hearPresence o b k).line = d.line
    rw [hearPresence_of_not_joining rfl hnj]
    exact (hm.trans (hearStakes_mapOnly (h.mapOnly hm) o b.stakes)).line
  | stake b =>
    have hm := (recordHeard_mapOnly d none b.cell o b.tag b.key.toNat .contested).trans (watchHits_mapOnly _ b.cell o)
    have hquiet := h.mapOnly hm
    have hwrote := h.mapOnly (recordHeard_mapOnly d none b.cell o b.tag b.key.toNat .contested)
    show (d.hearStake o b).line = d.line
    simp only [Device.hearStake, ownClaim_of_noOwn hquiet.noOwn]
    rw [retryWaiting_of_nobody hwrote.noneStaking]
    exact hm.line
  | unstake b =>
    have hm := (removeHeard_mapOnly d b.cell o).trans (watchHits_mapOnly _ b.cell o)
    show (d.hearUnstake o b).line = d.line
    unfold Device.hearUnstake
    dsimp only
    split
    · rw [(h.mapOnly hm).retryRemoved]
      exact hm.line
    · exact hm.line
  | offer b =>
    show (d.hearOffer o b).line = d.line
    simp only [Device.hearOffer, h.slotOf]
    split
    · unfold Device.newOffer
      split
      · rfl
      · rw [if_neg (by rw [h.active]; decide)]
        split
        · exact raise_line ..
        · next hfull => exact absurd hfull h.freeSlot
    · rfl
  | agree b => exact congrArg Device.line (show d.hearAgree o b = d by simp only [Device.hearAgree, h.slotOf])
  | decline b => exact congrArg Device.line (show d.hearDecline o b = d by simp only [Device.hearDecline, h.concerned])
  | bind b => exact congrArg Device.line (show d.hearBind o b = d by simp only [Device.hearBind, h.concerned])
  | setdown b => exact congrArg Device.line (show d.hearSetdown o b = d by simp only [Device.hearSetdown, h.concerned])
  | lifted b => exact congrArg Device.line (show d.hearLifted o b = d by simp only [Device.hearLifted, h.concerned])
  | cancel b => exact congrArg Device.line (show d.hearCancel o b = d by simp only [Device.hearCancel, h.concerned])
  | adopt b => exact congrArg Device.line (if_neg (by simp [h.active]) : d.hearAdopt o b = d)
  | cede b => exact congrArg Device.line (if_neg (by simp [h.adoption]) : d.hearCede o b = d)
  | receipt b =>
    show (d.hearReceipt o b).line = d.line
    unfold Device.hearReceipt
    dsimp only
    split
    · rw [if_neg (by simp [h.turn])]
    · split
      · have hpartner : d.partnerChanged b.tag b.ceder o = d := by simp only [Device.partnerChanged, h.slotOf]
        rw [hpartner]
        split
        · next c _ =>
          unfold Device.transferClaim
          split
          · next x _ =>
            have hm := (removeHeard_mapOnly d c b.ceder).trans (writeHeard_mapOnly _ c o x.tag x.key x.phase)
            rw [(h.mapOnly hm).retryRemoved]
            exact hm.line
          · rfl
        · rfl
      · rfl

/-! ## The Line Port after an accepted frame (R18, R19) -/

theorem presenceAt_eq_none {l : LinePort} : l.presenceAt = none ↔ ∀ x ∈ l.queue, bodyIsPresence x.frame.body = false :=
  List.findIdx?_eq_none_iff

theorem relayed_queue {l : LinePort} (hm : l.mode = .normal) (f : Frame) :
    (l.relayed f).queue =
      if l.relay = true ∧ f.relayed = false ∧ l.queue.length < 6 ∧
          (bodyIsPresence f.body = true → ∀ x ∈ l.queue, bodyIsPresence x.frame.body = false) then
        l.queue ++ [{ frame := { f with relayed := true }, sender := .relay, collisions := 0 }]
      else l.queue := by
  have hmode : (!(l.mode == .mute)) = true := by rw [hm]; rfl
  unfold LinePort.relayed LinePort.offerRelay
  simp only [← presenceAt_eq_none, hmode, Bool.and_true, Bool.and_eq_true, Bool.not_eq_true']
  by_cases hr : f.relayed = false ∧ l.relay = true
  · rw [if_pos hr]
    by_cases hroom : l.queue.length < Config.relayLimit ∧ (bodyIsPresence f.body = true → l.presenceAt = none)
    · rw [if_pos hroom, if_pos ⟨hr.2, hr.1, hroom⟩, append_queue]
    · rw [if_neg hroom, if_neg fun h => hroom h.2.2]
  · rw [if_neg hr, if_neg fun h => hr ⟨h.2.1, h.1⟩]

theorem relayed_setting (l : LinePort) (f : Frame) : l.SameSetting (l.relayed f) := by
  unfold LinePort.relayed
  split
  · exact offerRelay_setting ..
  · exact .refl l

theorem leavesLine_quiet (f : Frame) (k : Bool) : LeavesLine f k Device.Quiet where
  hear _ _ _ h := h.mapOnly ⟨rfl, rfl, rfl, id⟩
  relay _ h := h.congr rfl rfl h.noOwn
  body _ h hr := dispatch_line_of_quiet h hr f.body

/-- R139: the ADOPT of another target is for nobody here. -/
theorem leavesLine_adopt {t : Station} (hb : f.body = .adopt { target := t }) (k : Bool) {own : Station} (ht : t ≠ own) :
    LeavesLine f k fun e => e.line.station = own where
  hear _ _ _ h := h
  relay e h := (relayed_setting e.line f).station.trans h
  body e h _ := by
    have hne : t ≠ e.own := fun he => ht (he.trans h)
    have hd : e.dispatch f.origin f.body k = e.hearAdopt f.origin { target := t } := by rw [hb]; rfl
    rw [hd]
    exact congrArg Device.line (if_neg (by simp [hne]))

/-! ## The filter on a frame of another station (R15, R16, R18, R22) -/

theorem exec_frameReceived_of_deaf (s : State) {bytes : List Byte} (order : List FrameStep) (k : Bool)
    (h : s.line.tx = .send ∨ checkFrame bytes = none) : exec (.frameReceived bytes order k) s = .next s := by
  have hd : s.toDevice.frameReceived bytes order k = s.toDevice := by
    unfold Device.frameReceived
    rcases h with h | h
    · simp [h]
    · simp [h]
  show act (Device.frameReceived bytes order k) s = _
  rw [act, hd]

theorem recentHas_iff {l : LinePort} {n : Byte} : l.recentHas o n = true ↔ ∃ p ∈ l.recent, p.origin = o ∧ p.seq = n := by
  simp [LinePort.recentHas]

theorem filterFrame_of_repeat {w : RawFrame} {order : List FrameStep} (ho : w.origin ≠ d.own)
    (h : ∃ p ∈ d.line.recent, p.origin = w.origin ∧ p.seq = w.seq) : d.filterFrame w order k = d := by
  simp only [Device.filterFrame, ho, recentHas_iff.mpr h, if_true, if_false, ite_self]

theorem filterFrame_of_new {w : RawFrame} {order : List FrameStep} (hs : rawSect w = d.line.sect.extractLsb' 0 4)
    (he : envelopeInRange w = true) (ho : w.origin ≠ d.own) (h : ∀ p ∈ d.line.recent, ¬(p.origin = w.origin ∧ p.seq = w.seq)) :
    d.filterFrame w order k = (d.withLine (d.line.recentAdd w.origin w.seq)).judgeBody w order k := by
  have hnew : d.line.recentHas w.origin w.seq = false := by
    rw [← Bool.not_eq_true, recentHas_iff]
    exact fun ⟨p, hp, hq⟩ => h p hp hq
  simp [Device.filterFrame, hs, he, ho, hnew]

theorem judgeBody_of_invalid {w : RawFrame} (h : ∀ b, parseBody w.kind w.body = some b → bodyValid w.origin b = false)
    (order : List FrameStep) : d.judgeBody w order k = d := by
  unfold Device.judgeBody
  split
  · next b hb =>
    rw [h b hb]
    rfl
  · rfl

theorem judgeBody_raw (hv : bodyValid f.origin f.body = true) (order : List FrameStep) :
    d.judgeBody f.raw order k = d.acceptFrame f order k := by
  have hhop : (rawHop f.raw == 1#4) = f.relayed := by
    rw [rawHop_raw]
    cases f.relayed <;> rfl
  have hp : parseBody f.raw.kind f.raw.body = some f.body := parseBody_bodyBytes hv
  have ho : f.raw.origin = f.origin := rfl
  simp only [Device.judgeBody, hp, ho, hv, hhop, rawSect_raw, if_true]
  exact congrArg (fun g => d.acceptFrame g order k) rfl

/-- Settles O46. -/
theorem acceptedFramesAreHeard : Obligations.AcceptedFramesAreHeard := by
  intro s bytes order hoistFirst hrun hconf
  refine ⟨exec_frameReceived_of_deaf s order hoistFirst, fun f hbytes htx hsect ho hrange hvalid => ?_,
    fun w hw htx hsect hrange ho hnew hinvalid => ?_⟩
  · subst hbytes
    have hexec := exec_frameReceived_of_check f.raw order hoistFirst s (wireBytes f) hrun hconf htx
      (checkFrame_wireBytes f (bodyBytes_length_le hvalid))
    refine ⟨fun hrep => ?_, fun hnew => ⟨(s.toDevice.withLine (s.line.recentAdd f.origin f.seq)).acceptFrame f order hoistFirst, ?_, ?_⟩⟩
    · rw [hexec, filterFrame_of_repeat (d := s.toDevice) ho hrep]
      rfl
    · rw [hexec, filterFrame_of_new (d := s.toDevice) ((rawSect_raw f).trans hsect) (envelopeInRange_raw f hrange) ho hnew]
      exact congrArg (fun d => Host.Outcome.next (s.after d)) (judgeBody_raw hvalid order)
    · have hready (h : s.peers.roster.length < 24) :
          (s.toDevice.withLine (s.line.recentAdd f.origin f.seq)).RosterReady f.origin := .inr h
      obtain ⟨hset, hnow⟩ := acceptFrame_heard f order hoistFirst (s.toDevice.withLine (s.line.recentAdd f.origin f.seq))
      refine ⟨hset.recent, hnow, fun t hb ht hrelay hmode hhop hroom hlen => ?_, fun hact hmode hlen h16 hnone hown hphase hturn => ?_⟩
      · have hline := acceptFrame_line (d := s.toDevice.withLine (s.line.recentAdd f.origin f.seq))
          (leavesLine_adopt hb hoistFirst ht) rfl (hready hlen) order
        have hnp : ¬bodyIsPresence f.body = true := by simp [hb, bodyIsPresence]
        refine ⟨{ frame := { f with relayed := true }, sender := .relay, collisions := 0 }, ?_, rfl, rfl⟩
        rw [hline]
        have hq := relayed_queue (l := s.line.recentAdd f.origin f.seq) hmode f
        rw [if_pos ⟨hrelay, hhop, hroom, fun h => absurd h hnp⟩] at hq
        exact hq ▸ List.mem_append_right _ List.mem_cons_self
      · have hquiet : (s.toDevice.withLine (s.line.recentAdd f.origin f.seq)).Quiet := ⟨hact, h16, hnone, hown, hphase, hturn⟩
        rw [acceptFrame_line (leavesLine_quiet f hoistFirst) hquiet (hready hlen) order]
        exact relayed_queue (l := s.line.recentAdd f.origin f.seq) hmode f
  · rw [exec_frameReceived_of_check w order hoistFirst s bytes hrun hconf htx hw,
      filterFrame_of_new (d := s.toDevice) hsect hrange ho hnew, judgeBody_of_invalid hinvalid]
    rfl


end Sys2Proof.Machine
end

section
/-! PROOF. A CEDE heard by the adopter: taken into the table or refused by the first reason that holds (R140 to R142, R71, R86). -/

namespace Sys2Proof.Machine

set_option Elab.async false

variable {d e : Device} {s : State} {i j : Nat} {r q : Record} {o st : Station} {c : Cell} {t : Tag} {p : CedePart}

/-! ## What a raised notice leaves of the part -/

theorem raise_adoption (d : Device) (i : Nat) (k : NoticeKind) (x : OutcomePair) (v : List Byte) :
    (d.raise i k x v).engine.adoption = d.engine.adoption := by
  refine moveOwed_keeps (Q := fun e => e.engine.adoption = d.engine.adoption) (fun e he => ?_) ?_
  · rcases moveOne_cases e with ⟨j, q, n, rest, -, -, hm⟩ | ⟨-, hm⟩ | hm <;> rw [hm] <;> exact he
  · unfold Device.modRecord
    split <;> rfl

theorem raise_heard (d : Device) (i : Nat) (k : NoticeKind) (x : OutcomePair) (v : List Byte) : d.Heard (d.raise i k x v) where
  claims := raise_claims ..
  line := raise_line ..
  accounts := raise_accounts ..
  record j q hc h := by
    by_cases hj : j = i
    · subst hj
      exact (raise_hasRecord hc h).1
    · exact raise_hasRecord_other hj hc h
  every P hP h := Device.Every.raise hP h i k x v

/-- R86: an account opened at a slot, its limit judged at once. -/
theorem createAccount_slot (hi : i < d.accounts.slots.length) (b : BinId) (cl : BinClass) (n : Nat) (loc : Location) :
    ∃ x l, (x.bin = b ∧ x.e = n ∧ x.location = loc ∧ x.wait = 0) ∧
      ((d.setAccount (.slot i) (some x)).withLink l).Heard (d.createAccount (.slot i) b cl n loc) ∧
      (d.createAccount (.slot i) b cl n loc).engine.adoption = d.engine.adoption := by
  let a : Account := { bin := b, cls := cl, e := n, location := loc, spent := false, wait := 0 }
  have hopen : d.createAccount (.slot i) b cl n loc = (d.setAccount (.slot i) (some a)).spentCheck (.slot i) := rfl
  have hrefl (x : Device) : x.Heard x := ⟨rfl, rfl, rfl, fun _ _ _ h => h, fun _ _ h => h⟩
  rw [hopen]
  have hin : (d.setAccount (.slot i) (some a)).accountAt (.slot i) = some a := accountAt_setAccount_slot d _ hi
  cases hc : a.crosses with
  | false =>
    rw [spentCheck_of_not_crosses hin hc]
    exact ⟨a, d.link, ⟨rfl, rfl, rfl, rfl⟩, hrefl _, rfl⟩
  | true =>
    rw [spentCheck_of_crosses hin hc]
    have hspend : (d.setAccount (.slot i) (some a)).spend (.slot i) a =
        (d.setAccount (.slot i) (some { a with spent := true })).withLink
          { d.link with flags := { d.link.flags with budget := true } } := by
      simp [Device.spend, Device.setAccount, Device.withAccounts, Device.withLink]
    rw [hspend]
    exact ⟨_, _, ⟨rfl, rfl, rfl, rfl⟩, raise_heard .., raise_adoption ..⟩

/-! ## The stake of an adopted bin (R71) -/

theorem adoptedStakeGranted_eq_false :
    d.adoptedStakeGranted c = false ↔
      (∃ x, d.ownClaim c = some x ∧ ownUse x ≠ some .linger) ∨ (d.ownClaim c = none ∧ 4 ≤ d.ownCount) := by
  unfold Device.adoptedStakeGranted
  cases hx : d.ownClaim c with
  | some x => simp
  | none =>
    simp only [reduceCtorEq, false_and, exists_false, true_and, false_or, Config.ownStakeLimit]
    exact decide_eq_false_iff_not.trans Nat.not_lt

theorem ownClaim_eq_none_iff : d.ownClaim c = none ↔ ∀ x ∈ d.claims.entries, x.own ≠ none → x.cell ≠ c := by
  refine ⟨fun h x hx hown hc => ?_, ownClaim_eq_none_of⟩
  have hno := List.find?_eq_none.mp h x hx
  simp [hc, Option.isSome_iff_ne_none.mpr hown] at hno

theorem find_insertClaim_self {f : Claim → Bool} {x : Claim} {l : List Claim} (hx : f x = true) (h : ∀ y ∈ l, f y = false) :
    (insertClaim x l).find? f = some x := by
  cases hf : (insertClaim x l).find? f with
  | none => exact absurd hx (List.find?_eq_none.mp hf x (self_mem_insertClaim x l))
  | some y =>
    rcases mem_insertClaim (List.mem_of_find?_eq_some hf) with rfl | hy
    · rfl
    · have := List.find?_some hf
      rw [h y hy] at this
      cases this

theorem removeHeard_ownClaim_none (h : d.ownClaim c = none) : (d.removeHeard c st).ownClaim c = none := by
  rw [removeHeard_of_no_own (ownClaim_eq_none_iff.mp h)]
  exact ownClaim_eq_none_of fun y hy => ownClaim_eq_none_iff.mp h y (List.mem_filter.mp hy).1

/-- R71: with room in the map the stake is PLACED, under the adopted tag, for the record of the slot. -/
theorem takeAdoptedStake_of_room (hroom : d.claims.entries.length < 48) :
    ∃ es y, (d.takeAdoptedStake c i t st).1 = d.withEntries es ∧ (d.withEntries es).ownClaim c = some y ∧
      y.phase = .placed ∧ y.tag = t ∧ ownUse y = some (.slot i) := by
  cases hx : d.ownClaim c with
  | some x =>
    have hown := ownClaim_modOwn (f := fun y => { y with
      tag := t, phase := .placed, own := some { use := .slot i, outcome := none, settle := none, linger := none, rival := none } }) hx
      (fun _ => rfl) fun _ _ => rfl
    have htake : (d.takeAdoptedStake c i t st).1 = d.modOwn c fun y => { y with
        tag := t, phase := .placed, own := some { use := .slot i, outcome := none, settle := none, linger := none, rival := none } } := by
      simp only [Device.takeAdoptedStake, hx]
    exact ⟨_, _, htake, hown, rfl, rfl, rfl⟩
  | none =>
    have hgone := removeHeard_ownClaim_none (st := st) hx
    have hlen : (d.removeHeard c st).claims.entries.length < Config.claimMapSize := by
      rw [removeHeard_of_no_own (ownClaim_eq_none_iff.mp hx)]
      exact Nat.lt_of_le_of_lt (List.length_filter_le ..) hroom
    have htake : (d.takeAdoptedStake c i t st).1 = (d.removeHeard c st).withEntries (insertClaim
        { cell := c, claimant := d.own, tag := t, key := 0, phase := .placed, age := 0,
          own := some { use := .slot i, outcome := none, settle := none, linger := none, rival := none } }
        (d.removeHeard c st).claims.entries) := by
      simp only [Device.takeAdoptedStake, hx, Device.makeRoom, if_pos hlen]
    refine ⟨_, _, htake, find_insertClaim_self (by simp) fun y hy => ?_, rfl, rfl, rfl⟩
    exact Bool.eq_false_iff.mpr fun h => List.find?_eq_none.mp hgone y hy h

/-! ## The record part (R141, R142) -/

/-- R140: the adoption once a CEDE that concerns it is heard. -/
def Device.listening (d : Device) (b : CedeBody) : Device :=
  d.withAdoption { d.engine.adoption with phase := .listening, timer := some (if b.flags.getLsbD 0 then 3 else 8) }

theorem hearCede_of_other {b : CedeBody} (h : b.adopter ≠ d.own ∨ d.engine.adoption.phase = .none ∨ o ≠ d.engine.adoption.target) :
    d.hearCede o b = d := if_neg fun ⟨h1, h2, h3⟩ => h.elim (· h1) fun h => h.elim h2 (· h3)

theorem hearCede_of_target {b : CedeBody} (ha : b.adopter = d.own) (hp : d.engine.adoption.phase ≠ .none)
    (ho : o = d.engine.adoption.target) :
    d.hearCede o b = if d.muted then d.listening b else match b.part with
      | some p => (d.listening b).judgeCede p o
      | none => d.listening b := if_pos ⟨ha, hp, ho⟩

theorem sendReceipt_of_room (h : d.canSend) (t : Tag) (o : Station) (x y : Byte) (c : Option Cell) :
    d.sendReceipt t o x y c =
      d.withLine (d.sent .engine (.receipt { tag := t, ceder := o, outcome := x, reason := y, cell := c })) :=
  sendAbsorbed_of_room h .engine rfl

/-- R141: a stake that is not there to take. -/
def Device.noStakeFor (d : Device) (p : CedePart) : Prop := (CedePart.isGiver p && !d.adoptedStakeGranted p.cell) = true

theorem noStakeFor_iff :
    d.noStakeFor p ↔ p.role = 1 ∧
      ((∃ x, d.ownClaim p.cell = some x ∧ ownUse x ≠ some .linger) ∨ (d.ownClaim p.cell = none ∧ 4 ≤ d.ownCount)) := by
  unfold Device.noStakeFor CedePart.isGiver
  rw [Bool.and_eq_true, Bool.not_eq_true', adoptedStakeGranted_eq_false, beq_iff_eq]
  exact Iff.rfl

/-- R141: a tag in the table, or a bin that this station holds. -/
def Device.knows (d : Device) (p : CedePart) : Prop := ((d.slotOf p.tag).isSome || d.holdsBin p.bin) = true

theorem knows_iff : d.knows p ↔ d.slotOf p.tag ≠ none ∨ ∃ q y, d.accountAt q = some y ∧ y.bin = p.bin := by
  unfold Device.knows
  rw [Bool.or_eq_true, holdsBin_iff, Option.isSome_iff_ne_none]

theorem judgeCede_of_arrived (h : p.tag ∈ d.engine.adoption.arrived) (o : Station) :
    d.judgeCede p o = d.sendReceipt p.tag o 0#8 0#8 (CedePart.receiptCell p) := if_pos h

section New

variable (h : p.tag ∉ d.engine.adoption.arrived)
include h

theorem judgeCede_of_full (hf : d.freeSlot = none) (o : Station) : d.judgeCede p o = d.sendReceipt p.tag o 1#8 1#8 none := by
  simp only [Device.judgeCede, h, if_false, hf]

theorem judgeCede_of_free (hf : d.freeSlot = some i) (o : Station) :
    (d.noStakeFor p → d.judgeCede p o = d.sendReceipt p.tag o 1#8 2#8 none) ∧
    (¬d.noStakeFor p → p.partner = d.own → d.judgeCede p o = d.sendReceipt p.tag o 1#8 3#8 none) ∧
    (¬d.noStakeFor p → p.partner ≠ d.own → d.knows p → d.judgeCede p o = d.sendReceipt p.tag o 1#8 4#8 none) ∧
    (¬d.noStakeFor p → p.partner ≠ d.own → ¬d.knows p → d.judgeCede p o = d.acceptCede i p o) := by
  unfold Device.noStakeFor Device.knows
  simp only [Device.judgeCede, h, if_false, hf]
  exact ⟨fun h1 => if_pos h1, fun h1 h2 => (if_neg h1).trans (if_pos h2), fun h1 h2 h3 => (if_neg h1).trans ((if_neg h2).trans (if_pos h3)),
    fun h1 h2 h3 => (if_neg h1).trans ((if_neg h2).trans (if_neg h3))⟩

end New

/-! ## A CEDE taken (R142) -/

/-- R142: an AGREED taker record brings neither stake nor account. -/
theorem acceptCede_agreed (hr : p.role = 2) (hs : p.state = 3) (hsend : d.canSend) (hn : d.canNotify) (hi : d.freeSlot = some i) (o : Station) :
    d.acceptCede i p o =
      { d with
        line := d.sent .engine (.receipt { tag := p.tag, ceder := o, outcome := 0, reason := 0, cell := none }),
        engine := { d.engine with
          table := d.engine.table.set i (some (Record.new p.tag (.taker .agreed) p.partner p.bin (BinClass.ofByte p.cls) p.cell 0)),
          adoption := { d.engine.adoption with arrived := d.engine.adoption.arrived ++ [p.tag] } },
        link := d.notified
          { kind := .arrived, outcome := ⟨.done, .ok⟩, slot := some i, tag := some p.tag, values := [0, 0], station := p.partner } } := by
  have hgiver : CedePart.isGiver p = false := by simp [CedePart.isGiver, hr]
  have hloc : CedePart.location? p = none := by simp [CedePart.location?, hs]
  have hstate : CedePart.recState p = .taker .agreed := by simp [CedePart.recState, hs]
  have hrec : adoptedRecord p = Record.new p.tag (.taker .agreed) p.partner p.bin (BinClass.ofByte p.cls) p.cell 0 := by
    simp [adoptedRecord, hgiver, hstate, hs, Record.new]
  have hmade : d.adoptRecord i p = (d.setSlot i (some (adoptedRecord p))).withAdoption
      { d.engine.adoption with arrived := d.engine.adoption.arrived ++ [p.tag] } := by
    simp only [Device.adoptRecord, hloc]
    rfl
  have hat : (d.adoptRecord i p).recordAt i = some (adoptedRecord p) := by
    rw [hmade]
    exact recordAt_setSlot_self d _ (freeSlot_lt hi)
  have hroom : (d.adoptRecord i p).canNotify := by
    rw [hmade]
    exact canNotify_setSlot_new hn (q := adoptedRecord p) rfl
  have hraise := raise_of_room hroom hat (by rw [hrec]; rfl) .arrived outcomeDone (bytesOfNat16 0)
  have hne : p.state ≠ 1#8 := by rw [hs]; decide
  have haccept : d.acceptCede i p o =
      (((d.adoptRecord i p).raise i .arrived outcomeDone (bytesOfNat16 0)).sendReceipt p.tag o 0#8 0#8 none).retryRemoved [] := by
    simp only [Device.acceptCede, hgiver, Bool.false_eq_true, if_false, Device.adoptAnnounce, hloc, Option.isSome_none, hne,
      CedePart.receiptCell]
  rw [haccept, hraise, hmade, sendReceipt_of_room (by exact hsend), Device.retryRemoved, retry_of_nobody (by simp), hrec]
  rfl

/-- R142: what a PLACED giver record takes from its record part. -/
structure Record.Arrived (p : CedePart) (r : Record) : Prop where
  tag : r.tag = p.tag
  state : r.state = .giver .placed
  partner : r.partner = p.partner
  bin : r.bin = p.bin
  cell : r.cell = p.cell
  placed : r.placed = true
  addressed : r.addressed = true

/-- R142, R86: the part with an arrived PLACED giver record and its account. -/
structure Device.Adopted (i : Nat) (p : CedePart) (tags : List Tag) (e : Device) : Prop where
  record : ∃ r, e.recordAt i = some r ∧ r.Arrived p
  arrived : e.engine.adoption.arrived = tags ++ [p.tag]
  account : ∃ x, e.accountAt (.slot i) = some x ∧ x.bin = p.bin ∧ x.e = p.e.toNat ∧ x.location = .cell ∧ x.wait = 0
  none : e.noneStaking

theorem adoptedRecord_arrived (hr : p.role = 1) (hs : p.state = 1) : (adoptedRecord p).Arrived p := by
  have hgiver : CedePart.isGiver p = true := by simp [CedePart.isGiver, hr]
  have hstate : CedePart.recState p = .giver .placed := by simp [CedePart.recState, hs]
  exact ⟨rfl, hstate, rfl, rfl, rfl, by simp [adoptedRecord, hgiver], by simp [adoptedRecord, hgiver]⟩

theorem Record.Arrived.live (h : r.Arrived p) : (r.isEnded && r.endCollected) = false := by simp [Record.isEnded, h.state]

theorem Device.Heard.adopted {tags : List Tag} (h : d.Heard e) (ha : e.engine.adoption = d.engine.adoption) (g : d.Adopted i p tags) :
    e.Adopted i p tags := by
  obtain ⟨r, hr, harr⟩ := g.record
  obtain ⟨q, hq, hqr⟩ := h.record i r harr.live ⟨r, hr, rfl⟩
  refine ⟨⟨q, hq, ?_⟩, (congrArg Adoption.arrived ha).trans g.arrived, ?_, h.every _ (fun _ _ h => h) g.none⟩
  · rw [hqr]
    exact ⟨harr.tag, harr.state, harr.partner, harr.bin, harr.cell, harr.placed, harr.addressed⟩
  · obtain ⟨x, hx, hxs⟩ := g.account
    exact ⟨x, (accountAt_congr h.accounts _).trans hx, hxs⟩

/-- R86, R142: the record in its slot, its tag among the arrived tags, and its account. -/
theorem adoptRecord_placed (hr : p.role = 1) (hs : p.state = 1) (hnone : d.noneStaking) (hi : i < d.engine.table.length)
    (hslots : i < d.accounts.slots.length) :
    (d.adoptRecord i p).line = d.line ∧ (d.adoptRecord i p).claims = d.claims ∧
      (d.adoptRecord i p).Adopted i p d.engine.adoption.arrived := by
  have hloc : CedePart.location? p = some .cell := by simp [CedePart.location?, hs]
  have harr := adoptedRecord_arrived hr hs
  let e := (d.setSlot i (some (adoptedRecord p))).withAdoption
    { d.engine.adoption with arrived := d.engine.adoption.arrived ++ [p.tag] }
  have hmade : d.adoptRecord i p = e.createAccount (.slot i) p.bin (BinClass.ofByte p.cls) p.e.toNat .cell := by
    simp only [Device.adoptRecord, hloc]
    rfl
  obtain ⟨x, l, hx, hopen, hadopt⟩ := createAccount_slot (d := e) (i := i) hslots p.bin (BinClass.ofByte p.cls) p.e.toNat .cell
  rw [hmade]
  refine ⟨hopen.line, hopen.claims, hopen.adopted hadopt ⟨⟨_, recordAt_setSlot_self d _ hi, harr⟩, rfl, ⟨x, ?_, hx⟩, ?_⟩⟩
  · exact accountAt_setAccount_slot e _ hslots
  · exact Device.Every.setSlot (d := d) hnone (q := adoptedRecord p) (by rw [harr.state]; decide)

/-- R100, R142: the SETDOWN behind another frame. -/
theorem sendSetdown_behind {tags : List Tag} (h : d.Adopted i p tags) (hmode : d.line.mode = .normal) (hroom : d.line.queue.length ≤ 6)
    (b : Body) :
    ((d.withLine (d.sent .engine b)).sendSetdown i).Adopted i p tags ∧
      ((d.withLine (d.sent .engine b)).sendSetdown i).claims = d.claims ∧
      (((d.withLine (d.sent .engine b)).sendSetdown i).line.queue.map fun z => z.frame.body) =
        (d.line.queue.map fun z => z.frame.body) ++ [b, .setdown { tag := p.tag, cell := p.cell, bin := p.bin, e := p.e }] := by
  have hqueue : (d.sent .engine b).queue = d.line.queue ++ [_] := joinTail_queue ..
  have hsend : (d.withLine (d.sent .engine b)).canSend := by
    refine ⟨(joinTail_setting (l := d.line) .engine b).mode_eq.trans hmode, ?_⟩
    show (d.sent ..).queue.length < _
    rw [hqueue, List.length_append]
    exact Nat.lt_of_le_of_lt (Nat.succ_le_succ hroom) (by decide)
  obtain ⟨r, hrec, harr⟩ := h.record
  obtain ⟨x, hx, hxs⟩ := h.account
  have hE : BitVec.ofNat 16 (d.slotE i) = p.e := by
    rw [Device.slotE, hx]
    show BitVec.ofNat 16 x.e = p.e
    rw [hxs.2.1, BitVec.ofNat_toNat, BitVec.setWidth_eq]
  rw [sendSetdown_of_room hsend hrec harr.state]
  refine ⟨⟨⟨_, recordAt_setSlot_self d _ (recordAt_lt d hrec),
    ⟨harr.tag, harr.state, harr.partner, harr.bin, harr.cell, harr.placed, harr.addressed⟩⟩, h.arrived, ⟨x, hx, hxs⟩, ?_⟩, rfl, ?_⟩
  · exact Device.Every.setSlot (d := d) h.none (by rw [harr.state]; decide)
  · have hslot : (d.withLine (d.sent .engine b)).slotE i = d.slotE i := rfl
    show ((d.withLine (d.sent .engine b)).sent ..).queue.map _ = _
    rw [hslot, hE, harr.tag, harr.cell, harr.bin, Device.sent, joinTail_queue]
    show ((d.sent .engine b).queue ++ _).map _ = _
    rw [hqueue, List.map_append, List.map_append, List.append_assoc]
    rfl

/-- R142: the RECEIPT, then the SETDOWN. -/
theorem adoptAnnounce_placed {tags : List Tag} (hr : p.role = 1) (hs : p.state = 1) (h : d.Adopted i p tags)
    (hmode : d.line.mode = .normal) (hroom : d.line.queue.length ≤ 6) (o : Station) :
    (d.adoptAnnounce i p o).Adopted i p tags ∧ (d.adoptAnnounce i p o).claims = d.claims ∧
      ((d.adoptAnnounce i p o).line.queue.map fun z => z.frame.body) = (d.line.queue.map fun z => z.frame.body) ++
        [.receipt { tag := p.tag, ceder := o, outcome := 0, reason := 0, cell := some p.cell },
         .setdown { tag := p.tag, cell := p.cell, bin := p.bin, e := p.e }] := by
  have hgiver : CedePart.isGiver p = true := by simp [CedePart.isGiver, hr]
  have hloc : CedePart.location? p = some .cell := by simp [CedePart.location?, hs]
  have hannounce : d.adoptAnnounce i p o =
      ((d.raise i .arrived outcomeDone (bytesOfNat16 p.e.toNat)).sendReceipt p.tag o 0#8 0#8 (some p.cell)).sendSetdown i := by
    simp only [Device.adoptAnnounce, hloc, Option.isSome_some, if_true, CedePart.receiptCell, hgiver, hs]
    exact if_pos rfl
  have htold := raise_heard d i .arrived outcomeDone (bytesOfNat16 p.e.toNat)
  have hadopted := htold.adopted (raise_adoption ..) h
  have hline := htold.line
  have hclaims := htold.claims
  generalize d.raise i .arrived outcomeDone (bytesOfNat16 p.e.toNat) = e at hannounce hadopted hline hclaims
  rw [← hline] at hmode hroom ⊢
  have hsend : e.canSend := ⟨hmode, Nat.lt_of_le_of_lt hroom (by decide)⟩
  rw [hannounce, sendReceipt_of_room hsend, ← hclaims]
  exact sendSetdown_behind hadopted hmode hroom _

/-- R142, R86: a PLACED giver record brings its stake and its account, and sends its SETDOWN behind the RECEIPT. -/
theorem acceptCede_placed (hr : p.role = 1) (hs : p.state = 1) (hmode : d.line.mode = .normal) (hroom : d.line.queue.length ≤ 6)
    (hnone : d.noneStaking) (hmap : d.claims.entries.length < 48) (hi : d.freeSlot = some i) (hslots : i < d.accounts.slots.length)
    (o : Station) :
    ∃ y, (d.acceptCede i p o).Adopted i p d.engine.adoption.arrived ∧
      (d.acceptCede i p o).ownClaim p.cell = some y ∧ y.phase = .placed ∧ y.tag = p.tag ∧ ownUse y = some (.slot i) ∧
      ((d.acceptCede i p o).line.queue.map fun z => z.frame.body) = (d.line.queue.map fun z => z.frame.body) ++
        [.receipt { tag := p.tag, ceder := o, outcome := 0, reason := 0, cell := some p.cell },
         .setdown { tag := p.tag, cell := p.cell, bin := p.bin, e := p.e }] := by
  obtain ⟨es, y, htake, hy, hyp, hyt, hyu⟩ := takeAdoptedStake_of_room (i := i) (t := p.tag) (st := o) (c := p.cell) hmap
  have hgiver : CedePart.isGiver p = true := by simp [CedePart.isGiver, hr]
  obtain ⟨hline, hclaims, hadopted⟩ := adoptRecord_placed (d := d.withEntries es) hr hs hnone (freeSlot_lt hi) hslots
  have hbefore : d.acceptCede i p o =
      (((d.withEntries es).adoptRecord i p).adoptAnnounce i p o).retryRemoved (d.takeAdoptedStake p.cell i p.tag o).2 := by
    simp only [Device.acceptCede, hgiver, if_true]
    rw [htake]
  generalize (d.withEntries es).adoptRecord i p = e at hline hclaims hadopted hbefore
  obtain ⟨hset, hkept, hqueue⟩ := adoptAnnounce_placed hr hs hadopted (by rw [hline]; exact hmode) (by rw [hline]; exact hroom) o
  have haccept : d.acceptCede i p o = e.adoptAnnounce i p o := by
    rw [hbefore, Device.retryRemoved]
    refine retry_of_nobody fun c _ j => Bool.eq_false_iff.mpr fun hw => ?_
    obtain ⟨z, w, hz, hst, -⟩ := waitsOn_iff.mp hw
    exact hset.none j z hz hst
  rw [haccept]
  refine ⟨y, hset, (ownClaim_congr (hkept.trans hclaims) _).trans hy, hyp, hyt, hyu, ?_⟩
  rw [hqueue, hline]
  rfl

/-- Settles O55. -/
theorem cedesAreTakenOrRefused : Obligations.CedesAreTakenOrRefused := by
  intro s o b hh a listening taken
  have hexec : exec (.cedeHeard o b) s = .next (s.after (s.hearCede o b)) := exec_heard hh false
  refine ⟨fun h => ?_, fun hadopt hphase ho => ⟨fun h => ?_, ?_⟩⟩
  · rw [hexec, hearCede_of_other (d := s.toDevice) h]
    rfl
  · rw [hexec, hearCede_of_target (d := s.toDevice) hadopt hphase ho]
    rcases h with hmute | hpart
    · rw [if_pos (show s.muted = true by simp [Device.muted, hmute])]
      rfl
    · rw [hpart]
      simp only [ite_self]
      rfl
  intro p hsend hpart answer noStake known
  have hjudge : exec (.cedeHeard o b) s = .next (s.after ((s.toDevice.listening b).judgeCede p o)) := by
    rw [hexec, hearCede_of_target (d := s.toDevice) hadopt hphase ho, if_neg (by simp [Device.muted, hsend.1]), hpart]
  have hanswer (x y : Byte) (c : Option Cell) : (s.toDevice.listening b).sendReceipt p.tag o x y c = answer x y c :=
    sendReceipt_of_room (d := s.toDevice.listening b) hsend ..
  refine ⟨fun harr => ?_, fun harr hf => ?_, fun i harr hf => ?_⟩
  · rw [hjudge, judgeCede_of_arrived (d := s.toDevice.listening b) harr, hanswer]
    unfold CedePart.receiptCell CedePart.isGiver
    simp only [beq_iff_eq]
    rfl
  · rw [hjudge, judgeCede_of_full (d := s.toDevice.listening b) harr hf, hanswer]
    rfl
  have hstake : (s.toDevice.listening b).noStakeFor p ↔ noStake := noStakeFor_iff
  have hknown : (s.toDevice.listening b).knows p ↔ known := knows_iff
  obtain ⟨h1, h2, h3, h4⟩ := judgeCede_of_free (d := s.toDevice.listening b) harr hf o
  rw [hstake] at h1 h2 h3 h4
  rw [hknown] at h3 h4
  simp only [hjudge]
  refine ⟨fun hs => ?_, fun hs hp => ?_, fun hs hp hk => ?_, fun hk hp hrole hst hn => ?_,
    fun hs hk hp hrole hst hroom hnone hmap hslots => ?_⟩
  · rw [h1 hs, hanswer]
    rfl
  · rw [h2 hs hp, hanswer]
    rfl
  · rw [h3 hs hp hk, hanswer]
    rfl
  · have hs : ¬noStake := fun hs => absurd (hs.1.symm.trans hrole) (by decide)
    rw [h4 hs hp hk, acceptCede_agreed (d := s.toDevice.listening b) hrole hst hsend hn hf o, ofByte_eq]
    rfl
  · obtain ⟨y, hd, hy⟩ := acceptCede_placed (d := s.toDevice.listening b) hrole hst hsend.1 hroom hnone hmap hf hslots o
    obtain ⟨r, hr, harr⟩ := hd.record
    obtain ⟨x, hx, hxb, hxe, hxl, hxw⟩ := hd.account
    exact ⟨_, r, x, y, congrArg (fun d => Host.Outcome.next (s.after d)) (h4 hs hp hk), hr, harr.tag, harr.state, harr.partner,
      harr.bin, harr.cell, harr.placed, harr.addressed, hd.arrived, hx, hxb, hxe, hxl, hxw, hy⟩

end Sys2Proof.Machine
end

section
/-! PROOF. ADOPT heard by a LAPSED station and RECEIPT heard by a ceder or a partner (R69, R143 to R147). -/

namespace Sys2Proof.Machine

set_option Elab.async false

variable {d e : Device} {s : State} {i j : Nat} {r q : Record} {o st : Station} {c : Cell} {t : Tag} {p : OutcomePair}

/-! ## A ceding begins (R143, R144) -/

theorem hearAdopt_of_other {b : AdoptBody} (h : b.target ≠ d.own ∨ d.peers.state ≠ .lapsed ∨ d.line.mode = .mute) : d.hearAdopt o b = d := by
  refine if_neg fun ⟨h1, h2, h3⟩ => ?_
  rcases h with h | h | h
  · exact h h1
  · exact h h2
  · rw [h] at h3
    cases h3

theorem hearAdopt_of_target {b : AdoptBody} (h1 : b.target = d.own) (h2 : d.peers.state = .lapsed) (h3 : d.line.mode = .normal) :
    d.hearAdopt o b = d.beginCeding o := if_pos ⟨h1, h2, h3⟩

/-- R144: with nothing to cede the empty CEDE goes out. -/
theorem beginCeding_of_none (h : d.cedableTags = []) (hsend : d.canSend) (o : Station) :
    d.beginCeding o = { d with
      peers := { d.peers with state := .ceding, hostReturned := false },
      engine := { d.engine with ceding :=
        { adopter := some o, tags := [], turn := .emptyCede, attempts := 1, broken := false, ceded := d.engine.ceding.ceded,
          stranded := d.strandedCount, frame := some d.line.seqCounter } },
      line := d.sent .engine (.cede { adopter := o, flags := 1, part := none }) } := by
  unfold Device.beginCeding
  dsimp only
  rw [h]
  dsimp only
  unfold Device.openEmpty
  dsimp only
  rw [offer_of_room (by exact hsend) .engine rfl]
  rfl

theorem beginCeding_of_some {rest : List Tag} (h : d.cedableTags = t :: rest) (hsend : d.canSend) (ht : d.slotOf t = some i)
    (hr : d.recordAt i = some r) (o : Station) :
    d.beginCeding o = { d with
      peers := { d.peers with state := .ceding, hostReturned := false },
      engine := { d.engine with ceding :=
        { adopter := some o, tags := d.cedableTags, turn := .tag t, attempts := 1, broken := false, ceded := d.engine.ceding.ceded,
          stranded := d.strandedCount, frame := none } },
      line := d.sent .engine (.cede
        { adopter := o, flags := if rest = [] then 3 else 2, part := some (cedePartOf r (accountE (d.accountAt (.slot i)))) }) } := by
  have hrest : tagsAfter t (t :: rest) = rest := if_pos rfl
  unfold Device.beginCeding
  dsimp only
  rw [h]
  dsimp only
  unfold Device.openTurn
  rw [queueCede_of_room (by exact hsend) (by exact ht) (by exact hr)]
  simp only [withCeding_engine, hrest, List.isEmpty_iff]
  rfl

/-! ## A RECEIPT at the ceder (R145) -/

/-- R39, R145: the part once the turn of its last record has closed. -/
def Device.cedingOver (d : Device) : Device :=
  { d with
    peers := { d.peers with state := .lapsed },
    engine := { d.engine with ceding := { d.engine.ceding with
      adopter := none, tags := [], turn := .none, attempts := 0, broken := false, frame := none } } }

theorem closeTurn_of_last (hh : d.peers.hostReturned = false) (hl : tagsAfter t d.engine.ceding.tags = []) :
    d.closeTurn t = d.cedingOver := by
  rw [Device.closeTurn, hh, hl]
  exact endCeding_of_silent hh

theorem hearReceipt_of_turn {b : ReceiptBody} (ho : b.ceder = d.own) (ha : d.engine.ceding.adopter = some o)
    (ht : d.engine.ceding.turn = .tag b.tag) : d.hearReceipt o b = d.answerTurn b.tag (b.outcome == 0#8) := by
  simp only [Device.hearReceipt, ho, ha, ht, and_self, if_true]

theorem answerTurn_refused (ht : d.slotOf t = some i) (hr : d.recordAt i = some r) (hl : r.isEnded = false) :
    d.answerTurn t false = d.strandedMore.closeTurn t := by
  rw [← countStranded_of_live ht hr hl]
  rfl

theorem answerTurn_taken (ht : d.slotOf t = some i) (hr : d.recordAt i = some r) :
    (r.cedable = true ∧ d.engine.ceding.broken = false → d.answerTurn t true = (d.cedeRecord i r).closeTurn t) ∧
    (¬(r.cedable = true ∧ d.engine.ceding.broken = false) →
      d.answerTurn t true = ((d.raiseCustody i).countStranded t).closeTurn t) := by
  have hwhole : (r.cedable && !d.engine.ceding.broken) = true ↔ r.cedable = true ∧ d.engine.ceding.broken = false := by simp
  simp only [Device.answerTurn, ht, hr, if_true, hwhole]
  exact ⟨fun h => by rw [if_pos h], fun h => by rw [if_neg h]⟩

/-- R145: a record that stopped being cedable is told of the conflict, and is stranded. -/
theorem answerTurn_broken (ht : d.slotOf t = some i) (hr : d.recordAt i = some r) (hl : r.isEnded = false)
    (h : ¬(r.cedable = true ∧ d.engine.ceding.broken = false)) (hn : d.canNotify) :
    d.answerTurn t true = (d.withLink (d.notified (r.notice i .custodyConflict ⟨.upset, .custodyConflict⟩ []))).strandedMore.closeTurn t := by
  have hcustody : d.raiseCustody i = d.withLink (d.notified (r.notice i .custodyConflict ⟨.upset, .custodyConflict⟩ [])) :=
    raise_of_room hn hr (by rw [hl]; rfl) ..
  rw [(answerTurn_taken ht hr).2 h, hcustody]
  refine congrArg (Device.closeTurn · t) (countStranded_of_live (i := i) ?_ ?_ hl)
  · exact ht
  · exact hr

/-! ## A record ceded (R145) -/

/-- R145: the part without the ceded record, its account and its stake. -/
def Device.without (d : Device) (i : Nat) : Device := ((d.cedeStake i).removeAccount (.slot i)).setSlot i none

theorem cedeStake_beside (d : Device) (i : Nat) : d.cedeStake i = d.withEntries (d.cedeStake i).claims.entries := by
  unfold Device.cedeStake
  split <;> rfl

theorem without_beside (d : Device) (i : Nat) :
    d.without i = { d with
      claims := (d.without i).claims, accounts := { d.accounts with slots := d.accounts.slots.set i none },
      engine := { d.engine with table := d.engine.table.set i none } } := by
  rw [Device.without, cedeStake_beside]
  rfl

theorem without_recordAt (hi : i < d.engine.table.length) :
    (d.without i).recordAt i = none ∧ ∀ j, j ≠ i → (d.without i).recordAt j = d.recordAt j := by
  have htable : (d.without i).engine.table = (d.setSlot i none).engine.table := by rw [without_beside]; rfl
  rw [recordAt_congr (e := d.without i) (d := d.setSlot i none) htable]
  exact ⟨recordAt_setSlot_self d none hi, fun j hj => (recordAt_congr htable j).trans (recordAt_setSlot_of_ne d none (Ne.symm hj))⟩

theorem without_accountAt (d : Device) (i : Nat) :
    (d.without i).accountAt (.slot i) = none ∧ ∀ j, j ≠ i → (d.without i).accountAt (.slot j) = d.accountAt (.slot j) := by
  have hacc : (d.without i).accounts = (d.removeAccount (.slot i)).accounts := by rw [without_beside]; rfl
  refine ⟨(accountAt_congr hacc _).trans (accountAt_removeAccount_slot d i), fun j hj => (accountAt_congr hacc _).trans ?_⟩
  simp [Device.removeAccount, Device.setAccount, Device.accountAt, List.getElem?_set_ne (Ne.symm hj)]

theorem without_ownClaim {x : Claim} (hx : d.claimOfUse (.slot i) = some x) : (d.without i).ownClaim x.cell = none := by
  have hclaims : (d.without i).claims = (d.removeOwn x.cell).claims := by
    simp only [Device.without, Device.cedeStake, hx]
    rfl
  rw [ownClaim_congr hclaims]
  refine ownClaim_eq_none_of fun y hy hown hc => ?_
  have hkept := (List.mem_filter.mp hy).2
  simp [hc, Option.isSome_iff_ne_none.mpr hown] at hkept

/-- The part with one more record ceded. -/
def Device.cededMore (d : Device) : Device := d.withCeding { d.engine.ceding with ceded := d.engine.ceding.ceded + 1 }

theorem cedeRecord_eq (d : Device) (i : Nat) (r : Record) :
    d.cedeRecord i r =
      (if r.isGiver && r.ordinal != 0 then (d.without i).runRecordCeded r.ordinal else d.without i).cededMore := rfl

theorem cedeRecord_of_no_run (h : ∀ g, r.state = .giver g → r.ordinal = 0) : d.cedeRecord i r = (d.without i).cededMore := by
  rw [cedeRecord_eq, if_neg]
  cases hst : r.state with
  | giver g => simp [h g hst]
  | taker g => simp [Record.isGiver, hst]

theorem cedeRecord_of_run {g : GiverState} (hst : r.state = .giver g) (hn : r.ordinal ≠ 0)
    (hrun : d.engine.run.state = .inEntry ∨ d.engine.run.state = .ending) :
    d.cedeRecord i r =
      (((d.without i).withRun (d.engine.run.setEntry r.ordinal .failed)).endRun ⟨.upset, .terminated⟩).cededMore := by
  have hsame : (d.without i).engine.run = d.engine.run := by rw [without_beside]
  rw [cedeRecord_eq, if_pos (by simp [Record.isGiver, hst, hn]), Device.runRecordCeded, hsame]
  exact congrArg Device.cededMore (if_pos hrun)

/-! ## The run that ends with a ceded record (R127, R132) -/

theorem Stakes.recordAt_none (h : Stakes d e) (hn : d.recordAt i = none) : e.recordAt i = none := by
  induction h with
  | refl => exact hn
  | entries _ _ ih => exact ih
  | @slot e j r₁ r₂ hr _ _ ih =>
    have hj : j ≠ i := by
      rintro rfl
      rw [ih] at hr
      cases hr
    exact (recordAt_setSlot_of_ne e _ hj).trans ih
  | send _ _ _ _ _ ih => exact ih
  | free _ _ ih => exact ih

theorem endRun_recordAt_none (h : d.recordAt i = none) (x : OutcomePair) : (d.endRun x).recordAt i = none :=
  moveOwed_recordAt_none ((Stakes.refl (d.withRun (d.engine.run.finish x))).runHoldEnds.recordAt_none h)

theorem moveOwed_ceding (d : Device) : d.moveOwed.engine.ceding = d.engine.ceding := by
  refine moveOwed_keeps (Q := fun e => e.engine.ceding = d.engine.ceding) (fun e he => ?_) rfl
  rcases moveOne_cases e with ⟨j, q, n, rest, -, -, hm⟩ | ⟨-, hm⟩ | hm <;> rw [hm] <;> exact he

theorem endRun_ceding (d : Device) (x : OutcomePair) : (d.endRun x).engine.ceding = d.engine.ceding := by
  rw [Device.endRun, moveOwed_ceding, (Stakes.refl (d.withRun (d.engine.run.finish x))).runHoldEnds.eq]
  rfl

theorem entry_eq_some_iff {run : RunList} {n : Nat} {x : RunEntry} : run.entry n = some x ↔ n ≠ 0 ∧ run.entries[n - 1]? = some x := by
  unfold RunList.entry
  split <;> simp_all

/-- R132, R136: the end of a run leaves an entry that has failed as it is. -/
theorem runEnded_entry_failed {run : RunList} {n : Nat} {x : RunEntry} (h : run.entry n = some x)
    (hd : d.RunEnded (run.setEntry n .failed) p) : d.engine.run.entry n = some { x with state := .failed } := by
  obtain ⟨hn, hx⟩ := entry_eq_some_iff.mp h
  obtain ⟨-, hy⟩ := entry_eq_some_iff.mp (entry_setEntry_self (y := .failed) hn hx)
  rw [hd.1]
  exact entry_eq_some_iff.mpr ⟨hn, by simp [hy]⟩

/-- R145: ceding a record counts it and leaves the rest of the ceding, and the own station. -/
theorem cedeRecord_kept (d : Device) (i : Nat) (r : Record) :
    (d.cedeRecord i r).peers = d.peers ∧
      (d.cedeRecord i r).engine.ceding = { d.engine.ceding with ceded := d.engine.ceding.ceded + 1 } := by
  have hpeers : (d.without i).peers = d.peers := by rw [without_beside]
  have hceding : (d.without i).engine.ceding = d.engine.ceding := by rw [without_beside]
  have hrun : ((d.without i).runRecordCeded r.ordinal).peers = d.peers ∧
      ((d.without i).runRecordCeded r.ordinal).engine.ceding = d.engine.ceding := by
    unfold Device.runRecordCeded
    dsimp only
    split
    · exact ⟨(endRun_goes ..).peers.trans hpeers, (endRun_ceding ..).trans hceding⟩
    · exact ⟨hpeers, hceding⟩
  have hmore {e : Device} (h : e.peers = d.peers ∧ e.engine.ceding = d.engine.ceding) :
      e.cededMore.peers = d.peers ∧ e.cededMore.engine.ceding = { d.engine.ceding with ceded := d.engine.ceding.ceded + 1 } := by
    rw [← h.2]
    exact ⟨h.1, rfl⟩
  rw [cedeRecord_eq]
  split
  · exact hmore hrun
  · exact hmore ⟨hpeers, hceding⟩

theorem answerTurn_ceded (ht : d.slotOf t = some i) (hr : d.recordAt i = some r) (h : r.cedable = true ∧ d.engine.ceding.broken = false)
    (hh : d.peers.hostReturned = false) (hl : tagsAfter t d.engine.ceding.tags = []) :
    d.answerTurn t true = (d.cedeRecord i r).cedingOver := by
  obtain ⟨hpeers, hceding⟩ := cedeRecord_kept d i r
  rw [(answerTurn_taken ht hr).1 h]
  refine closeTurn_of_last ?_ ?_
  · rw [hpeers]
    exact hh
  · rw [hceding]
    exact hl

/-- R145: a ceded record leaves with its account and its stake; the rest of the table and of the accounts stays. -/
theorem cedeRecord_alone (hr : d.recordAt i = some r) (h : ∀ g, r.state = .giver g → r.ordinal = 0) :
    (d.cedeRecord i r).recordAt i = none ∧ (d.cedeRecord i r).accountAt (.slot i) = none ∧
      (∀ x, d.claimOfUse (.slot i) = some x → (d.cedeRecord i r).ownClaim x.cell = none) ∧
      (∀ j, j ≠ i → (d.cedeRecord i r).recordAt j = d.recordAt j ∧ (d.cedeRecord i r).accountAt (.slot j) = d.accountAt (.slot j)) ∧
      (d.cedeRecord i r).line = d.line ∧ (d.cedeRecord i r).engine.run = d.engine.run := by
  have hlt := recordAt_lt d hr
  rw [cedeRecord_of_no_run h]
  refine ⟨(without_recordAt hlt).1, (without_accountAt d i).1, fun x hx => without_ownClaim hx,
    fun j hj => ⟨(without_recordAt hlt).2 j hj, (without_accountAt d i).2 j hj⟩, ?_, ?_⟩
  · show (d.without i).line = _
    rw [without_beside]
  · show (d.without i).engine.run = _
    rw [without_beside]

/-- R127, R132: the record of the run's ACTIVE entry takes the run with it. -/
theorem cedeRecord_with_run {g : GiverState} (hr : d.recordAt i = some r) (hst : r.state = .giver g) (hn : r.ordinal ≠ 0)
    (hs : d.engine.run.state = .inEntry ∨ d.engine.run.state = .ending) (hrun : d.power.state = .run) :
    (d.cedeRecord i r).recordAt i = none ∧ (d.cedeRecord i r).accountAt (.slot i) = none ∧
      (d.cedeRecord i r).RunEnded (d.engine.run.setEntry r.ordinal .failed) ⟨.upset, .terminated⟩ := by
  have hpower : ((d.without i).withRun (d.engine.run.setEntry r.ordinal .failed)).power.state = .run := by
    rw [without_beside]
    exact hrun
  rw [cedeRecord_of_run hst hn hs]
  have hnone : ((d.without i).withRun (d.engine.run.setEntry r.ordinal .failed)).recordAt i = none :=
    (without_recordAt (recordAt_lt d hr)).1
  have hacc : ((d.without i).withRun (d.engine.run.setEntry r.ordinal .failed)).accountAt (.slot i) = none := (without_accountAt d i).1
  have hrunlist : ((d.without i).withRun (d.engine.run.setEntry r.ordinal .failed)).engine.run = d.engine.run.setEntry r.ordinal .failed := rfl
  generalize (d.without i).withRun (d.engine.run.setEntry r.ordinal .failed) = e at hpower hnone hacc hrunlist
  rw [← hrunlist]
  have hgone := endRun_recordAt_none hnone ⟨.upset, .terminated⟩
  have hkept := accountAt_congr (endRun_goes e ⟨.upset, .terminated⟩).accounts (.slot i)
  have hended := endRun_runEnded hpower ⟨.upset, .terminated⟩
  generalize e.endRun ⟨.upset, .terminated⟩ = f at hgone hkept hended
  exact ⟨hgone, hkept.trans hacc, runEnded_of_eq hended rfl rfl⟩

/-! ## The partner follows the adopter (R147) -/

theorem hearReceipt_of_other {b : ReceiptBody} (ho : b.ceder ≠ d.own) :
    d.hearReceipt o b = if b.outcome == 0#8 then
      match b.cell with
      | some c => (d.partnerChanged b.tag b.ceder o).transferClaim c b.ceder o
      | none => d.partnerChanged b.tag b.ceder o
    else d := if_neg ho

theorem partnerChanged_of_partner (ht : d.slotOf t = some i) (hr : d.recordAt i = some r) (hp : r.partner = st) :
    d.partnerChanged t st o =
      if r.isEnded then d.setSlot i (some { r with partner := o })
      else (d.setSlot i (some { r with partner := o })).raise i .partnerChanged outcomeDone [] := by
  have hset : (d.setSlot i (some { r with partner := o })).recordAt i = some { r with partner := o } :=
    recordAt_setSlot_self d _ (recordAt_lt d hr)
  simp only [Device.partnerChanged, ht, recordIs_of_record hr, hp, beq_self_eq_true, if_true, modRecord_of_record hr,
    recordIs_of_record hset]
  have hended : ({ r with partner := o } : Record).isEnded = r.isEnded := rfl
  rw [hended]
  cases r.isEnded <;> rfl

/-! ## The claimant follows the adopter (R69) -/

theorem transferClaim_of_claim {x : Claim} (hx : d.heardClaim c st = some x) (hnone : d.noneStaking) :
    d.transferClaim c st o = (d.removeHeard c st).writeHeard c o x.tag x.key x.phase := by
  have hb := writeHeard_beside (d.removeHeard c st) c o x.tag x.key x.phase
  simp only [Device.transferClaim, hx, Device.retryRemoved]
  refine retry_of_nobody fun c' _ j => Bool.eq_false_iff.mpr fun hw => ?_
  obtain ⟨z, w, hz, hst, -⟩ := waitsOn_iff.mp hw
  rw [hb] at hz
  exact hnone j z hz hst

theorem transferred_mem (d : Device) (c : Cell) (o : Station) (t : Tag) (key : Nat) (ph : Phase) :
    heardEntry c o t key ph ∈ (d.writeHeard c o t key ph).claims.entries := by
  rw [writeHeard_entries]
  split
  · exact self_mem_insertClaim ..
  · exact List.mem_map.mpr ⟨_, self_mem_insertClaim .., by simp [Claim.rivalCleared, heardEntry]⟩

theorem writeHeard_mem_other {y : Claim} (hy : y ∈ d.claims.entries) (hc : y.cell ≠ c) (t : Tag) (key : Nat) (ph : Phase) :
    y ∈ (d.writeHeard c o t key ph).claims.entries := by
  have hins : y ∈ insertClaim (heardEntry c o t key ph) d.claims.entries := mem_insertClaim_of_mem hy fun h => hc h.1.symm
  rw [writeHeard_entries]
  split
  · exact hins
  · exact List.mem_map.mpr ⟨y, hins, rivalCleared_of_other fun _ => hc⟩

theorem writeHeard_heardClaim_none (h : d.heardClaim c st = none) (ho : o ≠ st) (t : Tag) (key : Nat) (ph : Phase) :
    (d.writeHeard c o t key ph).heardClaim c st = none := by
  have hins : ∀ y ∈ insertClaim (heardEntry c o t key ph) d.claims.entries, (y.own.isNone && y.cell == c && y.claimant == st) = false := by
    intro y hy
    rcases mem_insertClaim hy with rfl | hy
    · simp [heardEntry, ho]
    · exact Bool.eq_false_iff.mpr (List.find?_eq_none.mp h y hy)
  rw [Device.heardClaim, List.find?_eq_none, writeHeard_entries]
  intro y hy
  rw [Bool.not_eq_true]
  split at hy
  · exact hins y hy
  · obtain ⟨x, hx, rfl⟩ := List.mem_map.mp hy
    obtain ⟨h1, h2, -, -, -, -, h3, -⟩ := rivalCleared_rest (c := c) (st := o) x
    have hnone : (x.rivalCleared c o).own.isNone = x.own.isNone := by rw [← Option.not_isSome, h3, Option.not_isSome]
    rw [h1, h2, hnone]
    exact hins x hx

/-- Settles O54. -/
theorem adoptAndReceiptAreHeard : Obligations.AdoptAndReceiptAreHeard := by
  intro s o
  refine ⟨fun b hh => ?_, fun b hh => ⟨?_, ?_⟩⟩
  · intro cedable left
    have hexec : exec (.adoptHeard o b) s = .next (s.after (s.hearAdopt o b)) := exec_heard hh false
    refine ⟨fun h => ?_, fun htarget hlapsed hsend => ⟨fun hnone => ?_, fun t rest i r hsome ht hr => ?_⟩⟩
    · rw [hexec, hearAdopt_of_other (d := s.toDevice) h]
      rfl
    · rw [hexec, hearAdopt_of_target (d := s.toDevice) htarget hlapsed hsend.1, beginCeding_of_none (d := s.toDevice) hnone hsend]
      rfl
    · rw [hexec, hearAdopt_of_target (d := s.toDevice) htarget hlapsed hsend.1,
        beginCeding_of_some (d := s.toDevice) hsome hsend ht hr]
      rfl
  · intro i r hown hadopter hturn ht hr hlive hsilent hlast closed whole
    have hexec : exec (.receiptHeard o b) s = .next (s.after (s.answerTurn b.tag (b.outcome == 0#8))) :=
      (exec_heard hh false).trans
        (congrArg (fun d => Host.Outcome.next (s.after d)) (hearReceipt_of_turn (d := s.toDevice) hown hadopter hturn))
    have hkept := cedeRecord_kept s.toDevice i r
    have htaken (e : Device) (hclose : s.answerTurn b.tag true = e) (h0 : b.outcome = 0) :
        exec (.receiptHeard o b) s = .next (s.after e) := by
      rw [hexec, h0]
      exact congrArg (fun d => Host.Outcome.next (s.after d)) hclose
    refine ⟨fun h0 hwhole hno => ?_, fun h0 hwhole hn => ?_, fun g h0 hwhole hst hord hstate => ?_, fun h1 => ?_⟩
    · obtain ⟨hnone, hacc, hclaim, hrest, hline, hrun⟩ := cedeRecord_alone hr hno
      refine ⟨(s.cedeRecord i r).cedingOver, htaken _ (answerTurn_ceded ht hr hwhole hsilent hlast) h0, hnone, hacc, hclaim, hrest,
        ?_, ?_, rfl, rfl, hline, hrun⟩
      · exact congrArg Ceding.ceded hkept.2
      · exact (congrArg Ceding.stranded hkept.2).trans rfl
    · have hclose := closeTurn_of_last
        (d := (s.withLink (s.notified (r.notice i .custodyConflict ⟨.upset, .custodyConflict⟩ []))).strandedMore) (t := b.tag) hsilent hlast
      exact htaken _ ((answerTurn_broken ht hr hlive hwhole hn).trans hclose) h0
    · obtain ⟨hnone, hacc, hended⟩ := cedeRecord_with_run hr hst hord hstate hh.1
      refine ⟨(s.cedeRecord i r).cedingOver, htaken _ (answerTurn_ceded ht hr hwhole hsilent hlast) h0, hnone, hacc,
        congrArg Ceding.ceded hkept.2, rfl, ?_, ?_, fun x hx => runEnded_entry_failed hx hended⟩
      · exact congrArg RunList.state hended.1
      · exact congrArg RunList.outcome hended.1
    · rw [h1] at hexec
      have hclose := closeTurn_of_last (d := s.strandedMore) (t := b.tag) hsilent hlast
      rw [hexec]
      exact congrArg (fun d => Host.Outcome.next (s.after d)) ((answerTurn_refused ht hr hlive).trans hclose)
  · intro hother
    have hexec : exec (.receiptHeard o b) s = .next (s.after (s.hearReceipt o b)) := exec_heard hh false
    rw [hearReceipt_of_other (d := s.toDevice) hother] at hexec
    refine ⟨fun h1 => ?_, fun i r h0 hc ht hr hp => ?_, fun c x h0 hc ht hx hnone => ?_⟩
    · rw [hexec, h1]
      rfl
    · rw [h0, hc] at hexec
      have hchanged := partnerChanged_of_partner (o := o) ht hr hp
      refine ⟨fun hend => ?_, fun hlive hn => ?_⟩
      · rw [hend] at hchanged
        exact hexec.trans (congrArg (fun d => Host.Outcome.next (s.after d)) hchanged)
      · rw [hlive] at hchanged
        have hset : (s.setSlot i (some { r with partner := o })).recordAt i = some { r with partner := o } :=
          recordAt_setSlot_self s.toDevice _ (recordAt_lt s.toDevice hr)
        have hroom := raise_of_room (canNotify_setSlot (q := { r with partner := o }) hn hr rfl) hset
          (show (({ r with partner := o } : Record).isEnded && _) = false by rw [show ({ r with partner := o } : Record).isEnded = false from hlive]; rfl)
          .partnerChanged outcomeDone []
        exact hexec.trans (congrArg (fun d => Host.Outcome.next (s.after d)) (hchanged.trans hroom))
    · have hfound := List.find?_some hx
      simp only [Bool.and_eq_true, Option.isNone_iff_eq_none, beq_iff_eq] at hfound
      obtain ⟨⟨hown, hcell⟩, hclaimant⟩ := hfound
      have hsame : s.partnerChanged b.tag b.ceder o = s.toDevice := by simp only [Device.partnerChanged, ht]
      rw [h0, hc] at hexec
      have hmoved := transferClaim_of_claim (d := s.toDevice) (o := o) hx hnone
      have hmem := transferred_mem (s.removeHeard c b.ceder) c o x.tag x.key x.phase
      have hx' : ({ x with claimant := o, age := 0 } : Claim) = heardEntry c o x.tag x.key x.phase := by rw [← hcell]; simp [heardEntry, hown]
      refine ⟨(s.removeHeard c b.ceder).writeHeard c o x.tag x.key x.phase, ?_, by rw [hx']; exact hmem,
        fun ho => writeHeard_heardClaim_none (removeHeard_heardClaim ..) ho _ _ _,
        fun y hy hne => writeHeard_mem_other (removeHeard_mem _ _ hy hne) hne _ _ _, ?_, ?_, ?_, ?_⟩
      · refine hexec.trans (congrArg (fun d => Host.Outcome.next (s.after d)) ?_)
        show (s.partnerChanged b.tag b.ceder o).transferClaim c b.ceder o = _
        rw [hsame, hmoved]
      all_goals rw [writeHeard_beside]; rfl

end Sys2Proof.Machine
end

section
/-! PROOF. A beacon period, whatever the state and the order of the blocks (R163): what each block's work leaves of the others. -/

namespace Sys2Proof.Machine

set_option Elab.async false

variable {a d e : Device} {s : State} {i j n : Nat} {r q : Record} {o : OutcomePair} {st : Station} {c : Cell}

/-! ## What the other blocks leave of the adoption, of a waiting run and of a closed turn -/

/-- The adoption is as it was; a run that awaits its next entry too, but for its mark; a turn that is not open stays closed. -/
structure Device.Apart (d e : Device) : Prop where
  adoption : e.engine.adoption = d.engine.adoption
  run : d.engine.run.state = .awaitingNext → e.engine.run.state = .awaitingNext ∧ e.engine.run.timer = d.engine.run.timer
  turn : d.engine.ceding.turn = .none → e.engine.ceding.turn = .none

theorem Device.Apart.refl (d : Device) : d.Apart d := ⟨rfl, fun h => ⟨h, rfl⟩, id⟩

theorem Device.Apart.trans (h : a.Apart d) (g : d.Apart e) : a.Apart e := by
  refine ⟨g.adoption.trans h.adoption, fun ha => ?_, fun ha => g.turn (h.turn ha)⟩
  obtain ⟨hs, ht⟩ := h.run ha
  obtain ⟨gs, gt⟩ := g.run hs
  exact ⟨gs, gt.trans ht⟩

theorem Device.Apart.of_engine (ha : e.engine.adoption = d.engine.adoption) (hr : e.engine.run = d.engine.run)
    (ht : d.engine.ceding.turn = .none → e.engine.ceding.turn = .none) : d.Apart e :=
  ⟨ha, fun h => by rw [hr]; exact ⟨h, rfl⟩, ht⟩

/-- What changes none of the three changes nothing that is asked. -/
theorem Device.Apart.of_eq (h : e.engine.adoption = d.engine.adoption ∧ e.engine.run = d.engine.run ∧ e.engine.ceding = d.engine.ceding) :
    d.Apart e := .of_engine h.1 h.2.1 (by rw [h.2.2]; exact id)

theorem Stakes.apart (h : Stakes d e) : d.Apart e := .of_eq (by rw [h.eq]; exact ⟨rfl, rfl, rfl⟩)

theorem Device.Apart.foldl {α : Type} {f : Device → α → Device} (hf : ∀ (e : Device) x, e.Apart (f e x)) (l : List α) (d : Device) :
    d.Apart (l.foldl f d) := foldl_keeps (Q := d.Apart) (fun e x he => he.trans (hf e x)) l (.refl d)

theorem Device.Apart.forSlots {f : Nat → Device → Device} (hf : ∀ (e : Device) j, e.Apart (f j e)) (d : Device) : d.Apart (forSlots f d) :=
  .foldl (fun e j => hf e j) _ d

theorem modRecord_apart (d : Device) (i : Nat) (f : Record → Record) : d.Apart (d.modRecord i f) := by
  unfold Device.modRecord
  split <;> exact .of_eq ⟨rfl, rfl, rfl⟩

theorem setSlot_apart (d : Device) (i : Nat) (q : Option Record) : d.Apart (d.setSlot i q) := .of_eq ⟨rfl, rfl, rfl⟩

theorem withEntries_apart (d : Device) (es : List Claim) : d.Apart (d.withEntries es) := .of_eq ⟨rfl, rfl, rfl⟩

theorem modEntry_apart (d : Device) (st : Station) (f : RosterEntry → RosterEntry) : d.Apart (d.modEntry st f) := .of_eq ⟨rfl, rfl, rfl⟩

theorem peerChange_apart (d : Device) : d.Apart d.peerChange := .of_eq ⟨rfl, rfl, rfl⟩

theorem offer_apart (d : Device) (x : Sender) (b : Body) : d.Apart (d.offer x b).1 := .of_eq ⟨rfl, rfl, rfl⟩

theorem pushNotice_apart (d : Device) (m : Notice) : d.Apart (d.pushNotice m) := by
  unfold Device.pushNotice
  split <;> exact .of_eq ⟨rfl, rfl, rfl⟩

theorem moveOwed_apart (d : Device) : d.Apart d.moveOwed := by
  refine moveOwed_keeps (Q := d.Apart) (fun e he => he.trans ?_) (.refl d)
  rcases moveOne_cases e with ⟨j, q, m, rest, -, -, hm⟩ | ⟨-, hm⟩ | hm <;> rw [hm]
  · exact .of_eq ⟨rfl, rfl, rfl⟩
  · exact ⟨rfl, fun h => ⟨h, rfl⟩, id⟩
  · exact .refl e

theorem raise_apart (d : Device) (i : Nat) (k : NoticeKind) (x : OutcomePair) (v : List Byte) : d.Apart (d.raise i k x v) :=
  (modRecord_apart ..).trans (moveOwed_apart _)

theorem raiseEnded_apart (d : Device) (i : Nat) : d.Apart (d.raiseEnded i) := by
  unfold Device.raiseEnded
  split
  · exact raise_apart ..
  · exact .refl d

theorem leaveTurn_apart (d : Device) (t : Tag) : d.Apart (d.leaveTurn t) := by
  unfold Device.leaveTurn
  split
  · next h => exact .of_engine rfl rfl id
  · exact .refl d

/-! ## Stakes and runs -/

theorem queueOffer_apart (d : Device) (i : Nat) : d.Apart (d.queueOffer i) := by
  unfold Device.queueOffer
  split
  · exact .of_eq ⟨rfl, rfl, rfl⟩
  · exact .refl d

theorem enterOffering_apart (d : Device) (i : Nat) : d.Apart (d.enterOffering i) := by
  unfold Device.enterOffering
  dsimp only
  split
  · exact (modRecord_apart ..).trans (queueOffer_apart ..)
  · exact modRecord_apart ..

theorem recordStakeEnds_apart (d : Device) (i : Nat) (b : Bool) : d.Apart (d.recordStakeEnds i b) := by
  unfold Device.recordStakeEnds
  split
  · exact .refl d
  · split
    · exact ((Stakes.refl d).releaseStake _).apart
    · split
      · exact withEntries_apart ..
      · split
        · split
          · exact (withEntries_apart d _).trans (enterOffering_apart ..)
          · exact .refl d
        · exact withEntries_apart ..

theorem endRun_adoption (d : Device) (o : OutcomePair) : (d.endRun o).engine.adoption = d.engine.adoption := by
  rw [Device.endRun, (moveOwed_apart _).adoption, (Stakes.refl (d.withRun (d.engine.run.finish o))).runHoldEnds.eq]
  rfl

theorem runHears_adoption (d : Device) (n : Nat) (o : OutcomePair) :
    (d.runHears n o).1.engine.adoption = d.engine.adoption ∧ (d.runHears n o).1.engine.ceding = d.engine.ceding := by
  have hend (e : Device) (x : OutcomePair) (he : e.engine.adoption = d.engine.adoption ∧ e.engine.ceding = d.engine.ceding) :
      (e.endRun x).engine.adoption = d.engine.adoption ∧ (e.endRun x).engine.ceding = d.engine.ceding :=
    ⟨(endRun_adoption e x).trans he.1, (endRun_ceding e x).trans he.2⟩
  by_cases hs : d.engine.run.Serves n
  · by_cases ho : o.cls = .done
    · rw [runHears_of_done hs ho]
      split
      · exact hend _ _ ⟨rfl, rfl⟩
      · unfold Device.advanceRun
        dsimp only
        split
        · exact hend _ _ ⟨rfl, rfl⟩
        · exact ⟨rfl, rfl⟩
    · rw [runHears_of_failed hs ho]
      exact hend _ _ ⟨rfl, rfl⟩
  · rw [runHears_of_other hs]
    exact ⟨rfl, rfl⟩

/-- A run that awaits its next entry hears of no record's end. -/
theorem runHears_apart (d : Device) (n : Nat) (o : OutcomePair) : d.Apart (d.runHears n o).1 := by
  obtain ⟨ha, hc⟩ := runHears_adoption d n o
  refine ⟨ha, fun h => ?_, fun h => by rw [hc]; exact h⟩
  have hnot : ¬d.engine.run.Serves n := fun hs => by
    rcases hs.2 with hs | hs <;> rw [h] at hs <;> cases hs
  rw [runHears_of_other hnot]
  exact ⟨h, rfl⟩

theorem endGiver_apart (d : Device) (i : Nat) (o : OutcomePair) (v : Nat) : d.Apart (d.endGiver i o v) := by
  unfold Device.endGiver
  split
  · exact ((((setSlot_apart ..).trans (leaveTurn_apart ..)).trans (runHears_apart _ _ o)).trans (recordStakeEnds_apart ..)).trans
      (raiseEnded_apart ..)
  · exact .refl d

theorem endTaker_apart (d : Device) (i : Nat) (o : OutcomePair) : d.Apart (d.endTaker i o) := by
  unfold Device.endTaker
  split
  · refine .trans (d := if _ then _ else _) ?_ (((setSlot_apart ..).trans (leaveTurn_apart ..)).trans (raiseEnded_apart ..))
    split <;> exact .of_eq ⟨rfl, rfl, rfl⟩
  · exact .refl d

/-! ## The roster (R43, R44) -/

theorem partnerLost_apart (d : Device) (st : Station) : d.Apart (d.partnerLost st) := by
  refine .forSlots (fun e j => ?_) d
  split
  · split
    · split
      · unfold Device.giverPartnerLost
        split
        · exact raise_apart ..
        · split
          · exact (setSlot_apart ..).trans (raise_apart ..)
          · exact .refl e
      · unfold Device.takerPartnerLost
        split
        · exact raise_apart ..
        · exact .refl e
        · exact endTaker_apart ..
        · exact .refl e
    · exact .refl e
  · exact .refl e

theorem removeHeardAll_stakes (d : Device) (p : Claim → Bool) : Stakes d (d.removeHeardAll p).1 :=
  .foldl (f := fun d (x : Claim) => d.removeHeard x.cell x.claimant) (fun _ _ h => h.removeHeard ..) _ (.refl d)

theorem stationLost_apart (d : Device) (st : Station) : d.Apart (d.stationLost st) := by
  have hclaims : d.peerChange.Apart (d.peerChange.claimantLost st) := ((removeHeardAll_stakes _ _).retryRemoved _).apart
  have hlost := ((peerChange_apart d).trans hclaims).trans (partnerLost_apart _ st)
  unfold Device.stationLost
  dsimp only
  split
  · exact hlost
  · exact hlost.trans (pushNotice_apart ..)

theorem ageEntry_apart (d : Device) (st : Station) : d.Apart (d.ageEntry st) := by
  unfold Device.ageEntry
  split
  · dsimp only
    split
    · exact (modEntry_apart d st _).trans (peerChange_apart _)
    · split
      · exact (modEntry_apart d st _).trans (stationLost_apart ..)
      · exact modEntry_apart ..
  · exact .refl d

theorem becomeActive_apart (d : Device) : d.Apart d.becomeActive :=
  .trans (d := d.setStation .active) (.of_eq ⟨rfl, rfl, rfl⟩) (becomeActive_stakes d).apart

theorem joinTick_apart (d : Device) (l : List Station) : d.Apart (d.joinTick l) := by
  unfold Device.joinTick
  split
  · split
    · split
      · have hset : d.Apart (d.withPeers { d.peers with joinTimer := none }) := .of_eq ⟨rfl, rfl, rfl⟩
        exact (hset.trans (becomeActive_apart _)).trans (.foldl (fun e x => partnerLost_apart e x) _ _)
      · exact .of_eq ⟨rfl, rfl, rfl⟩
    · exact .refl d
  · exact .refl d

theorem silenceTick_apart (d : Device) : d.Apart d.silenceTick := by
  unfold Device.silenceTick
  split
  · split
    · unfold Device.silenceExpires
      dsimp only
      split
      · exact .of_engine rfl rfl id
      · exact .of_eq ⟨rfl, rfl, rfl⟩
      · exact .of_eq ⟨rfl, rfl, rfl⟩
    · exact .of_eq ⟨rfl, rfl, rfl⟩
  · exact .refl d

theorem offerPresence_apart (d : Device) : d.Apart d.offerPresence := by
  unfold Device.offerPresence
  split
  · exact offer_apart ..
  · exact .refl d

theorem peerRosterBeacon_apart (d : Device) (l : List Station) : d.Apart (d.peerRosterBeacon l) :=
  (((joinTick_apart d l).trans (silenceTick_apart _)).trans (.foldl (fun e x => ageEntry_apart e x) _ _)).trans (offerPresence_apart _)

/-! ## The claim map (R52, R60, R67) -/

theorem settleTick_apart (d : Device) (c : Cell) : d.Apart (d.settleTick c) := by
  unfold Device.settleTick
  split
  · split
    · split
      · unfold Device.settleExpires
        dsimp only
        split
        · exact (withEntries_apart d _).trans (enterOffering_apart ..)
        · exact withEntries_apart ..
      · exact withEntries_apart ..
    · exact .refl d
  · exact .refl d

theorem lingerTick_apart (d : Device) (c : Cell) : d.Apart (d.lingerTick c) := by
  unfold Device.lingerTick
  split
  · split
    · split
      · exact ((Stakes.refl d).releaseStake _).apart
      · exact withEntries_apart ..
    · exact .refl d
  · exact .refl d

theorem claimMapBeacon_apart (d : Device) (l : List Cell) : d.Apart (d.claimMapBeacon l) := by
  have hage : d.Apart d.claimsAge :=
    (withEntries_apart d _).trans ((removeHeardAll_stakes _ _).retryRemoved _).apart
  have hall (e : Device) : e.Apart e.retryAll := .forSlots (fun e j => by
    split
    · exact ((Stakes.refl e).stakingAttempt j).apart
    · exact .refl e) e
  exact ((hage.trans (.foldl (fun e x => settleTick_apart e x) _ _)).trans (.foldl (fun e x => lingerTick_apart e x) _ _)).trans (hall _)

/-! ## The records (R96, R101, R115, R117, R121) -/

theorem offerTick_apart (d : Device) (i : Nat) : d.Apart (d.offerTick i) := by
  unfold Device.offerTick
  split
  · next r _ =>
    split
    · have hset := setSlot_apart d i (some { r with timer := r.timer + 1 })
      dsimp only
      split
      · exact hset.trans (queueOffer_apart ..)
      · split
        · exact hset.trans (queueOffer_apart ..)
        · split
          · refine hset.trans ?_
            unfold Device.offerWindowExpires
            split
            · split
              · exact (setSlot_apart ..).trans (raise_apart ..)
              · exact endGiver_apart ..
            · exact .refl _
          · exact hset
    · exact .refl d
  · exact .refl d

theorem setdownTick_apart (d : Device) (i : Nat) : d.Apart (d.setdownTick i) := by
  unfold Device.setdownTick
  split
  · refine (modRecord_apart d i fun r => { r with setdownOwed := false }).trans ?_
    unfold Device.sendSetdown
    split
    · dsimp only
      split
      · exact (offer_apart ..).trans (modRecord_apart ..)
      · exact (offer_apart ..).trans (modRecord_apart ..)
    · exact .refl _
  · exact .refl d

theorem answerTick_apart (d : Device) (i : Nat) : d.Apart (d.answerTick i) := by
  unfold Device.answerTick
  split
  · split
    · dsimp only
      split
      · exact setSlot_apart ..
      · exact ((setSlot_apart ..).trans (offer_apart ..)).trans (endTaker_apart ..)
    · exact .refl d
  · exact .refl d

theorem agreedTick_apart (d : Device) (i : Nat) : d.Apart (d.agreedTick i) := by
  unfold Device.agreedTick
  split
  · split
    · dsimp only
      split
      · exact setSlot_apart ..
      · exact (setSlot_apart ..).trans (endTaker_apart ..)
    · exact .refl d
  · exact .refl d

theorem liftedTick_apart (d : Device) (i : Nat) : d.Apart (d.liftedTick i) := by
  unfold Device.liftedTick
  split
  · unfold Device.sendLifted
    split
    · dsimp only
      split
      · exact ((setSlot_apart ..).trans (offer_apart ..)).trans (modRecord_apart ..)
      · exact ((setSlot_apart ..).trans (offer_apart ..)).trans (modRecord_apart ..)
    · exact .refl d
  · exact .refl d

theorem recordTick_apart (d : Device) (i : Nat) : d.Apart (d.recordTick i) :=
  ((((offerTick_apart d i).trans (setdownTick_apart ..)).trans (answerTick_apart ..)).trans (agreedTick_apart ..)).trans
    (liftedTick_apart ..)

/-! ## The run, the adoption and the ceding (R130, R140, R144) -/

/-- R145: what a turn that closes or goes on leaves of the adoption and the run. -/
structure Device.Ceded (d e : Device) : Prop where
  adoption : e.engine.adoption = d.engine.adoption
  run : d.engine.run.state = .awaitingNext → e.engine.run.state = .awaitingNext ∧ e.engine.run.timer = d.engine.run.timer
  silence : e.peers.silenceTimer = d.peers.silenceTimer
  join : e.peers.joinTimer = d.peers.joinTimer

theorem Device.Ceded.trans (h : a.Ceded d) (g : d.Ceded e) : a.Ceded e := by
  refine ⟨g.adoption.trans h.adoption, fun ha => ?_, g.silence.trans h.silence, g.join.trans h.join⟩
  obtain ⟨hs, ht⟩ := h.run ha
  obtain ⟨gs, gt⟩ := g.run hs
  exact ⟨gs, gt.trans ht⟩

theorem Device.Ceded.refl (d : Device) : d.Ceded d := ⟨rfl, fun h => ⟨h, rfl⟩, rfl, rfl⟩

theorem Device.Apart.ceded (h : d.Apart e) (hs : e.peers.silenceTimer = d.peers.silenceTimer) (hj : e.peers.joinTimer = d.peers.joinTimer) :
    d.Ceded e := ⟨h.adoption, h.run, hs, hj⟩

theorem withCeding_ceded (d : Device) (x : Ceding) : d.Ceded (d.withCeding x) := ⟨rfl, fun h => ⟨h, rfl⟩, rfl, rfl⟩

theorem offer_ceded (d : Device) (x : Sender) (b : Body) : d.Ceded (d.offer x b).1 := (offer_apart d x b).ceded rfl rfl

theorem setStation_ceded (d : Device) (x : StationState) (h : Bool) :
    d.Ceded (d.withPeers { d.peers with state := x, hostReturned := h }) := ⟨rfl, fun h => ⟨h, rfl⟩, rfl, rfl⟩

theorem pushNotice_ceded (d : Device) (m : Notice) : d.Ceded (d.pushNotice m) := by
  have hp := (pushNotice_beside (d := d) m).2.1
  exact (pushNotice_apart d m).ceded (by rw [hp]) (by rw [hp])

theorem engineActive_ceded (d : Device) : d.Ceded d.engineActive := by
  have h := (Stakes.refl d).engineActive
  exact h.apart.ceded (by rw [h.eq]) (by rw [h.eq])

theorem endCeding_ceded (d : Device) : d.Ceded d.endCeding := by
  unfold Device.endCeding
  dsimp only
  generalize hm : d.withCeding _ = m
  have hceding : d.Ceded m := by
    rw [← hm]
    exact withCeding_ceded d _
  refine hceding.trans ?_
  split
  · exact ((setStation_ceded m .active false).trans (engineActive_ceded _)).trans (pushNotice_ceded ..)
  · exact setStation_ceded m .lapsed m.peers.hostReturned

theorem countStranded_ceded (d : Device) (t : Tag) : d.Ceded (d.countStranded t) := by
  unfold Device.countStranded
  split
  · split
    · exact withCeding_ceded d _
    · exact .refl d
  · exact .refl d

theorem openEmpty_ceded (d : Device) : d.Ceded d.openEmpty := by
  unfold Device.openEmpty
  dsimp only
  generalize hm : d.withCeding _ = m
  have hceding : d.Ceded m := by
    rw [← hm]
    exact withCeding_ceded d _
  refine hceding.trans ?_
  split
  · exact (offer_ceded ..).trans (withCeding_ceded ..)
  · exact (offer_ceded ..).trans (endCeding_ceded _)

theorem queueCede_ceded (d : Device) (t : Tag) : d.Ceded (d.queueCede t) := by
  unfold Device.queueCede
  split
  · split
    · exact (withCeding_ceded d _).trans (offer_ceded ..)
    · exact .refl d
  · exact .refl d

theorem openNext_ceded (l : List Tag) (b : Bool) (d : Device) : d.Ceded (Device.openNext l b d) := by
  induction l generalizing b d with
  | nil =>
    unfold Device.openNext
    split
    · exact openEmpty_ceded d
    · exact endCeding_ceded d
  | cons t rest ih =>
    unfold Device.openNext
    split
    · exact (withCeding_ceded d _).trans (queueCede_ceded ..)
    · exact (countStranded_ceded d t).trans (ih true _)

theorem turnTick_ceded (d : Device) : d.Ceded d.turnTick := by
  unfold Device.turnTick
  split
  · next t _ =>
    split
    · exact queueCede_ceded ..
    · refine (countStranded_ceded d t).trans ?_
      unfold Device.closeTurn
      split
      · exact endCeding_ceded _
      · exact openNext_ceded ..
  · exact .refl d

theorem turnTick_of_none (h : d.engine.ceding.turn = .none) : d.turnTick = d := by
  simp only [Device.turnTick, h]

theorem serviceTick_adoption (d : Device) :
    d.serviceTick.engine.adoption = d.engine.adoption ∧ (d.engine.ceding.turn = .none → d.serviceTick.engine.ceding.turn = .none) := by
  unfold Device.serviceTick
  split
  · split
    · split
      · exact ⟨rfl, id⟩
      · exact ⟨endRun_adoption .., fun h => by rw [endRun_ceding]; exact h⟩
    · exact ⟨rfl, id⟩
  · exact ⟨rfl, id⟩

theorem adoptionTick_run (d : Device) :
    d.adoptionTick.engine.run = d.engine.run ∧ d.adoptionTick.engine.ceding = d.engine.ceding := by
  have hend (x : OutcomePair) : (d.endAdoption x).engine.run = d.engine.run ∧ (d.endAdoption x).engine.ceding = d.engine.ceding := by
    unfold Device.endAdoption Device.pushNotice
    dsimp only
    split <;> exact ⟨rfl, rfl⟩
  unfold Device.adoptionTick
  split
  · split
    · exact hend _
    · exact ⟨rfl, rfl⟩
  · exact ⟨rfl, rfl⟩

end Sys2Proof.Machine
end

section
/-! PROOF. A beacon period, whatever the state and the order of the blocks (R163): each timer counts once. -/

namespace Sys2Proof.Machine

set_option Elab.async false

variable {d e : Device} {s : State} {i j n : Nat} {r q : Record} {o : OutcomePair} {st : Station} {c : Cell}

/-! ## The roster ages (R43) -/

/-- R43: an entry after one more silent beacon period. -/
def RosterEntry.aged (e : RosterEntry) : RosterEntry :=
  { e with age := min 255 (e.age + 1), link := linkOfAge (min 255 (e.age + 1)) }

theorem ageEntry_roster (h : (d.peers.roster.map fun e => e.station).Nodup) (st : Station) :
    (d.ageEntry st).peers.roster = d.peers.roster.map fun e => if e.station = st then RosterEntry.aged e else e := by
  have hlost (m : Device) : (m.stationLost st).peers.roster = m.peers.roster :=
    ((Moves.refl (R := False) (S := False) m).stationLost st).roster_eq not_false
  unfold Device.ageEntry
  cases hx : d.rosterEntry st with
  | none =>
    have hno := rosterEntry_eq_none.mp hx
    exact (List.map_congr_left fun e he => if_neg (hno e he)).trans (List.map_id _) |>.symm
  | some x =>
    have hset : (d.modEntry st fun e => { e with age := min Config.silenceMax (x.age + 1), link := linkOfAge (min Config.silenceMax (x.age + 1)) }).peers.roster
        = d.peers.roster.map fun e => if e.station = st then RosterEntry.aged e else e := by
      refine List.map_congr_left fun e he => ?_
      by_cases hst : e.station = st
      · have hx' := List.find?_some hx
        have heq : e = x := List.inj_on_of_nodup_map h he (List.mem_of_find?_eq_some hx) (hst.trans (beq_iff_eq.mp hx').symm)
        rw [if_pos (beq_iff_eq.mpr hst), if_pos hst, heq]
        rfl
      · rw [if_neg (fun hb => hst (beq_iff_eq.mp hb)), if_neg hst]
    dsimp only
    split
    · exact hset
    · split
      · exact (hlost _).trans hset
      · exact hset

/-- A map on the elements of a key, key after key. -/
theorem foldl_mapOn {α κ : Type} [DecidableEq κ] {key : α → κ} {f : α → α} (hf : ∀ x, key (f x) = key x) {ks : List κ} (hk : ks.Nodup)
    (l : List α) :
    ks.foldl (fun l k => l.map fun x => if key x = k then f x else x) l = l.map fun x => if key x ∈ ks then f x else x := by
  induction ks generalizing l with
  | nil => simp
  | cons k ks ih =>
    obtain ⟨hno, hnodup⟩ := List.nodup_cons.mp hk
    rw [List.foldl_cons, ih hnodup, List.map_map]
    refine List.map_congr_left fun x _ => ?_
    by_cases hx : key x = k
    · simp [hx, hf, hno]
    · simp [hx]

theorem rosterAges_roster (h : (d.peers.roster.map fun e => e.station).Nodup) (order : List Station) :
    (d.rosterAges order).peers.roster = d.peers.roster.map RosterEntry.aged := by
  have hperm := orderBy_perm order (d.peers.roster.map fun e => e.station)
  have hfold : ∀ (l : List Station) (e : Device), (e.peers.roster.map fun x => x.station).Nodup →
      (l.foldl Device.ageEntry e).peers.roster =
        l.foldl (fun es st => es.map fun x => if x.station = st then RosterEntry.aged x else x) e.peers.roster := by
    intro l
    induction l with
    | nil => exact fun _ _ => rfl
    | cons st l ih =>
      intro e he
      have hstep := ageEntry_roster he st
      have hkeys : ((e.ageEntry st).peers.roster.map fun x => x.station) = e.peers.roster.map fun x => x.station := by
        rw [hstep, List.map_map]
        refine List.map_congr_left fun x _ => ?_
        simp only [Function.comp_apply]
        split <;> rfl
      rw [List.foldl_cons, List.foldl_cons, ih _ (by rw [hkeys]; exact he), hstep]
  unfold Device.rosterAges
  rw [hfold _ _ h, foldl_mapOn (key := fun e : RosterEntry => e.station) (f := RosterEntry.aged) (fun _ => rfl) (hperm.nodup_iff.mpr h)]
  refine List.map_congr_left fun x hx => if_pos (hperm.mem_iff.mpr (List.mem_map.mpr ⟨x, hx, rfl⟩))

/-! ## The timers of the station (R36, R37) -/

theorem partnerLosts_peers (l : List Station) (d : Device) : (l.foldl (fun d st => d.partnerLost st) d).peers = d.peers := by
  have h : Moves False False d (l.foldl (fun d st => d.partnerLost st) d) := Moves.foldl (fun _ _ h => h.partnerLost _) _ (.refl d)
  rw [h.station_eq not_false, h.roster_eq not_false]

theorem joinTick_peers (d : Device) (order : List Station) :
    (d.joinTick order).peers.silenceTimer = d.peers.silenceTimer ∧
      ∀ n, d.peers.state = .joining → d.peers.joinTimer = some n →
        (d.joinTick order).peers.joinTimer = if n ≤ 1 then none else some (n - 1) := by
  have hexp : (d.joinExpires order).peers.silenceTimer = d.peers.silenceTimer ∧ (d.joinExpires order).peers.joinTimer = none := by
    have hactive := (becomeActive_stakes (d.withPeers { d.peers with joinTimer := none })).eq
    unfold Device.joinExpires
    dsimp only
    rw [partnerLosts_peers, hactive]
    exact ⟨rfl, rfl⟩
  unfold Device.joinTick
  constructor
  · split
    · split
      · split
        · exact hexp.1
        · rfl
      · rfl
    · rfl
  · intro n hs hn
    simp only [hs, hn, if_true]
    split
    · exact hexp.2
    · rfl

theorem silenceTick_peers (d : Device) :
    d.silenceTick.peers.joinTimer = d.peers.joinTimer ∧
      ∀ n, d.peers.silenceTimer = some n → d.silenceTick.peers.silenceTimer = if n ≤ 1 then none else some (n - 1) := by
  have hexp : d.silenceExpires.peers.joinTimer = d.peers.joinTimer ∧ d.silenceExpires.peers.silenceTimer = none := by
    unfold Device.silenceExpires
    dsimp only
    split <;> exact ⟨rfl, rfl⟩
  unfold Device.silenceTick
  constructor
  · split
    · split
      · exact hexp.1
      · rfl
    · rfl
  · intro n hn
    simp only [hn]
    split
    · exact hexp.2
    · rfl

/-- R36, R37, R43: what a beacon period counts in the Peer Roster. -/
theorem peerRosterBeacon_peers (d : Device) (order : List Station) :
    (∀ n, d.peers.silenceTimer = some n → (d.peerRosterBeacon order).peers.silenceTimer = if n ≤ 1 then none else some (n - 1)) ∧
    (∀ n, d.peers.state = .joining → d.peers.joinTimer = some n →
      (d.peerRosterBeacon order).peers.joinTimer = if n ≤ 1 then none else some (n - 1)) ∧
    ((d.peers.roster.map fun e => e.station).Nodup → (d.peerRosterBeacon order).peers.roster = d.peers.roster.map RosterEntry.aged) := by
  have hm (m : Device) : (m.rosterAges order).offerPresence.peers = { m.peers with roster := (m.rosterAges order).peers.roster } := by
    have h1 : Moves True False m (m.rosterAges order) := Moves.foldl (fun _ _ h => h.ageEntry trivial _) _ (.refl m)
    have h2 : Moves False False (m.rosterAges order) (m.rosterAges order).offerPresence := (Moves.refl _).offerPresence
    rw [h2.station_eq not_false, h2.roster_eq not_false, h1.station_eq not_false]
  have hroster : ((d.joinTick order).silenceTick).peers.roster = d.peers.roster :=
    (((Moves.refl (R := False) (S := True) d).joinTick trivial order).silenceTick trivial).roster_eq not_false
  obtain ⟨hjs, hj⟩ := joinTick_peers d order
  obtain ⟨hsj, hsil⟩ := silenceTick_peers (d.joinTick order)
  unfold Device.peerRosterBeacon
  rw [hm]
  refine ⟨fun n hn => hsil n (hjs.trans hn), fun n hs hn => hsj.trans (hj n hs hn), fun h => ?_⟩
  rw [← hroster] at h ⊢
  exact rosterAges_roster h order

/-! ## The tasks of a beacon period, each beside the others (R163) -/

section Tasks

variable {o : BeaconOrder} {t : BeaconTask}

theorem recordTick_moves (d : Device) (i : Nat) : Moves False False d (d.recordTick i) :=
  (((((Moves.refl d).offerTick i).setdownTick i).answerTick i).agreedTick i).liftedTick i

section Equations

variable (d : Device) (o : BeaconOrder)

theorem beaconTask_linePort : d.beaconTask o .linePort = d.withLine d.line.recentAges := rfl
theorem beaconTask_peerRoster : d.beaconTask o .peerRoster = d.peerRosterBeacon o.stations := rfl
theorem beaconTask_claimMap : d.beaconTask o .claimMap = d.claimMapBeacon o.cells := rfl
theorem beaconTask_record (i : Nat) : d.beaconTask o (.record i) = d.recordTick i := rfl
theorem beaconTask_service : d.beaconTask o .run = d.serviceTick := rfl
theorem beaconTask_adopting : d.beaconTask o .adoption = d.adoptionTick := rfl
theorem beaconTask_ceding : d.beaconTask o .ceding = d.turnTick := rfl

end Equations

/-- The roster, the timers and the own state are counted by the Peer Roster alone; the state turns with a ceding besides. -/
theorem beaconTask_peers (d : Device) (h : t ≠ .peerRoster) :
    (d.beaconTask o t).peers.silenceTimer = d.peers.silenceTimer ∧ (d.beaconTask o t).peers.joinTimer = d.peers.joinTimer ∧
      (d.beaconTask o t).peers.roster = d.peers.roster ∧
      (d.engine.ceding.turn = .none → (d.beaconTask o t).peers.state = d.peers.state) := by
  have hmoves {e : Device} (hm : Moves False False d e) : e.peers.silenceTimer = d.peers.silenceTimer ∧
      e.peers.joinTimer = d.peers.joinTimer ∧ e.peers.roster = d.peers.roster ∧
      (d.engine.ceding.turn = .none → e.peers.state = d.peers.state) := by
    rw [hm.station_eq not_false, hm.roster_eq not_false]
    exact ⟨rfl, rfl, rfl, fun _ => rfl⟩
  cases t with
  | linePort =>
    rw [beaconTask_linePort]
    exact ⟨rfl, rfl, rfl, fun _ => rfl⟩
  | peerRoster => exact absurd rfl h
  | claimMap =>
    rw [beaconTask_claimMap]
    exact hmoves ((Moves.refl d).claimMapBeacon o.cells)
  | record i =>
    rw [beaconTask_record]
    exact hmoves (recordTick_moves d i)
  | run =>
    rw [beaconTask_service]
    exact hmoves (Moves.refl d).serviceTick
  | adoption =>
    rw [beaconTask_adopting]
    exact hmoves (Moves.refl d).adoptionTick
  | ceding =>
    rw [beaconTask_ceding]
    have hm : Moves False True d d.turnTick := (Moves.refl d).turnTick trivial
    exact ⟨(turnTick_ceded d).silence, (turnTick_ceded d).join, hm.roster_eq not_false, fun h => by rw [turnTick_of_none h]⟩

theorem beaconTask_adoption (d : Device) (h : t ≠ .adoption) : (d.beaconTask o t).engine.adoption = d.engine.adoption := by
  cases t with
  | linePort =>
    rw [beaconTask_linePort]
    rfl
  | peerRoster =>
    rw [beaconTask_peerRoster]
    exact (peerRosterBeacon_apart d o.stations).adoption
  | claimMap =>
    rw [beaconTask_claimMap]
    exact (claimMapBeacon_apart d o.cells).adoption
  | record i =>
    rw [beaconTask_record]
    exact (recordTick_apart d i).adoption
  | run =>
    rw [beaconTask_service]
    exact (serviceTick_adoption d).1
  | adoption => exact absurd rfl h
  | ceding =>
    rw [beaconTask_ceding]
    exact (turnTick_ceded d).adoption

theorem beaconTask_run (d : Device) (h : t ≠ .run) (hs : d.engine.run.state = .awaitingNext) :
    (d.beaconTask o t).engine.run.state = .awaitingNext ∧ (d.beaconTask o t).engine.run.timer = d.engine.run.timer := by
  cases t with
  | linePort =>
    rw [beaconTask_linePort]
    exact ⟨hs, rfl⟩
  | peerRoster =>
    rw [beaconTask_peerRoster]
    exact (peerRosterBeacon_apart d o.stations).run hs
  | claimMap =>
    rw [beaconTask_claimMap]
    exact (claimMapBeacon_apart d o.cells).run hs
  | record i =>
    rw [beaconTask_record]
    exact (recordTick_apart d i).run hs
  | run => exact absurd rfl h
  | adoption =>
    rw [beaconTask_adopting]
    rw [(adoptionTick_run d).1]
    exact ⟨hs, rfl⟩
  | ceding =>
    rw [beaconTask_ceding]
    exact (turnTick_ceded d).run hs

theorem beaconTask_turn (d : Device) (h : d.engine.ceding.turn = .none) : (d.beaconTask o t).engine.ceding.turn = .none := by
  cases t with
  | linePort =>
    rw [beaconTask_linePort]
    exact h
  | peerRoster =>
    rw [beaconTask_peerRoster]
    exact (peerRosterBeacon_apart d o.stations).turn h
  | claimMap =>
    rw [beaconTask_claimMap]
    exact (claimMapBeacon_apart d o.cells).turn h
  | record i =>
    rw [beaconTask_record]
    exact (recordTick_apart d i).turn h
  | run =>
    rw [beaconTask_service]
    exact (serviceTick_adoption d).2 h
  | adoption =>
    rw [beaconTask_adopting]
    rw [(adoptionTick_run d).2]
    exact h
  | ceding =>
    rw [beaconTask_ceding]
    rw [turnTick_of_none h]
    exact h

theorem beaconTask_recent (d : Device) (h : t ≠ .linePort) : (d.beaconTask o t).line.recent = d.line.recent := by
  have hm : Moves True True d d := .refl d
  cases t with
  | linePort => exact absurd rfl h
  | peerRoster =>
    rw [beaconTask_peerRoster]
    exact (hm.peerRosterBeacon trivial trivial o.stations).line_setting.recent
  | claimMap =>
    rw [beaconTask_claimMap]
    exact (hm.claimMapBeacon o.cells).line_setting.recent
  | record i =>
    rw [beaconTask_record]
    exact (recordTick_moves d i).line_setting.recent
  | run =>
    rw [beaconTask_service]
    exact hm.serviceTick.line_setting.recent
  | adoption =>
    rw [beaconTask_adopting]
    exact hm.adoptionTick.line_setting.recent
  | ceding =>
    rw [beaconTask_ceding]
    exact (hm.turnTick trivial).line_setting.recent

theorem beaconTasks_nodup : beaconTasks.Nodup := by decide

/-- R163: one task turns what the others keep. -/
theorem beaconPeriod_at {A B : Device → Prop} (x : BeaconTask) (hx : x ∈ beaconTasks) (hA : ∀ e t, t ≠ x → A e → A (e.beaconTask o t))
    (hAB : ∀ e, A e → B (e.beaconTask o x)) (hB : ∀ e t, t ≠ x → B e → B (e.beaconTask o t)) (h : A d) : B (d.beaconPeriod o) := by
  have hperm := orderBy_perm o.tasks beaconTasks
  exact foldl_at (f := Device.beaconTask o) (hperm.nodup_iff.mpr beaconTasks_nodup) (hperm.mem_iff.mpr hx) hA hAB hB h

/-- R163, in any order: recent pairs, host silence, join listen, adoption, service window and roster, each counted once. -/
theorem beaconPeriod_counts (d : Device) (o : BeaconOrder) :
    (d.beaconPeriod o).line.recent = (d.line.recent.map fun p => { p with age := p.age + 1 }).filter (fun p => p.age < 4) ∧
    (∀ n, d.peers.silenceTimer = some n → (d.beaconPeriod o).peers.silenceTimer = if n ≤ 1 then none else some (n - 1)) ∧
    (∀ n, d.peers.state = .joining → d.engine.ceding.turn = .none → d.peers.joinTimer = some n →
      (d.beaconPeriod o).peers.joinTimer = if n ≤ 1 then none else some (n - 1)) ∧
    (∀ n, d.engine.adoption.timer = some n → 2 ≤ n →
      (d.beaconPeriod o).engine.adoption = { d.engine.adoption with timer := some (n - 1) }) ∧
    (∀ n, d.engine.run.state = .awaitingNext → d.engine.run.timer = some n → n ≤ 10 →
      (d.beaconPeriod o).engine.run.state = .awaitingNext ∧ (d.beaconPeriod o).engine.run.timer = some (n + 1)) ∧
    ((d.peers.roster.map fun e => e.station).Nodup → (d.beaconPeriod o).peers.roster = d.peers.roster.map RosterEntry.aged) := by
  refine ⟨?_, fun n hn => ?_, fun n hs ht hn => ?_, fun n hn h2 => ?_, fun n hs hn h10 => ?_, fun hnodup => ?_⟩
  · refine beaconPeriod_at (A := fun e => e.line.recent = d.line.recent) .linePort (by decide)
      (fun e t h he => (beaconTask_recent e h).trans he) (fun e he => ?_) (fun e t h he => (beaconTask_recent e h).trans he) rfl
    show (e.line.recent.map _).filter _ = _
    rw [he]
    rfl
  · exact beaconPeriod_at (A := fun e => e.peers.silenceTimer = some n) .peerRoster (by decide)
      (fun e t h he => (beaconTask_peers e h).1.trans he) (fun e he => by rw [beaconTask_peerRoster]; exact (peerRosterBeacon_peers e o.stations).1 n he)
      (fun e t h he => (beaconTask_peers e h).1.trans he) hn
  · refine beaconPeriod_at (A := fun e => e.peers.state = .joining ∧ e.engine.ceding.turn = .none ∧ e.peers.joinTimer = some n)
      .peerRoster (by decide) (fun e t h he => ?_) (fun e he => by rw [beaconTask_peerRoster]; exact (peerRosterBeacon_peers e o.stations).2.1 n he.1 he.2.2)
      (fun e t h he => (beaconTask_peers e h).2.1.trans he) ⟨hs, ht, hn⟩
    obtain ⟨hs, ht, hn⟩ := he
    obtain ⟨-, hj, -, hst⟩ := beaconTask_peers (o := o) e h
    exact ⟨(hst ht).trans hs, beaconTask_turn e ht, hj.trans hn⟩
  · refine beaconPeriod_at (A := fun e => e.engine.adoption = d.engine.adoption) .adoption (by decide)
      (fun e t h he => (beaconTask_adoption e h).trans he) (fun e he => ?_) (fun e t h he => (beaconTask_adoption e h).trans he) rfl
    have hnot : ¬n ≤ 1 := by omega
    rw [beaconTask_adopting]
    simp only [Device.adoptionTick, he, hn, if_neg hnot]
    rfl
  · refine beaconPeriod_at (A := fun e => e.engine.run.state = .awaitingNext ∧ e.engine.run.timer = some n)
      (B := fun e => e.engine.run.state = .awaitingNext ∧ e.engine.run.timer = some (n + 1)) .run (by decide)
      (fun e t h he => ?_) (fun e he => ?_) (fun e t h he => ?_) ⟨hs, hn⟩
    · obtain ⟨h1, h2⟩ := beaconTask_run (o := o) e h he.1
      exact ⟨h1, h2.trans he.2⟩
    · have hlt : n + 1 < Config.serviceWindow := Nat.lt_of_le_of_lt (Nat.succ_le_succ h10) (by decide)
      have hrun : e.serviceTick = e.withRun { e.engine.run with timer := some (n + 1) } := by
        simp only [Device.serviceTick, he.1, he.2, if_pos hlt, if_true]
      rw [beaconTask_service, hrun]
      exact ⟨he.1, rfl⟩
    · obtain ⟨h1, h2⟩ := beaconTask_run (o := o) e h he.1
      exact ⟨h1, h2.trans he.2⟩
  · refine beaconPeriod_at (A := fun e => e.peers.roster = d.peers.roster) .peerRoster (by decide)
      (fun e t h he => (beaconTask_peers e h).2.2.1.trans he) (fun e he => ?_) (fun e t h he => (beaconTask_peers e h).2.2.1.trans he) rfl
    have haged := (peerRosterBeacon_peers e o.stations).2.2
    rw [he] at haged
    rw [beaconTask_peerRoster]
    exact haged hnodup

end Tasks


end Sys2Proof.Machine
end

section
/-! PROOF. A beacon period with nothing else due: one PRESENCE (R40, R163). -/

namespace Sys2Proof.Machine

set_option Elab.async false

variable {d e : Device} {s : State} {i j n : Nat} {r q : Record} {st : Station} {c : Cell}

/-! ## The PRESENCE that joins the queue (R5, R40) -/

theorem offerPresence_of_room {l : LinePort} (hroom : l.queue.length < Config.queueSize)
    (hnone : ∀ x ∈ l.queue, bodyIsPresence x.frame.body = false) (b : Body) : l.offerPresence b = l.joinTail .peerRoster b := by
  simp only [LinePort.offerPresence, presenceAt_eq_none.mpr hnone, LinePort.offerPlain, if_pos hroom]

theorem offer_presence_of_room (hsend : d.canSend) (hnone : ∀ x ∈ d.line.queue, bodyIsPresence x.frame.body = false) (x : Sender)
    (b : PresenceBody) : (d.offer x (.presence b)).1 = d.withLine (d.sent .peerRoster (.presence b)) := by
  have hmode : ¬d.line.mode = .mute := by rw [hsend.1]; decide
  simp only [Device.offer, LinePort.offer, if_neg hmode, bodyIsPresence, if_true, offerPresence_of_room hsend.2 hnone]
  rfl

theorem joinTail_recent (l : LinePort) (rs : List RecentPair) (x : Sender) (b : Body) :
    (({ l with recent := rs } : LinePort).joinTail x b).1 = { (l.joinTail x b).1 with recent := rs } := by
  unfold LinePort.joinTail LinePort.append
  dsimp only
  split <;> rfl

/-! ## A bare ACTIVE station -/

/-- Nothing stands in the claim map, the table, the roster or a timer but host silence. -/
structure Device.Bare (d : Device) : Prop where
  claims : d.claims.entries = []
  records : ∀ i, d.recordAt i = none
  roster : d.peers.roster = []
  run : d.engine.run.timer = none
  adoption : d.engine.adoption.timer = none
  turn : d.engine.ceding.turn = .none

theorem Device.Bare.claimMap (h : d.Bare) (order : List Cell) : d.claimMapBeacon order = d := by
  have hentries : d.withEntries [] = d := by rw [← h.claims]; rfl
  have hage : d.claimsAge = d := by
    unfold Device.claimsAge
    rw [h.claims]
    show ((d.withEntries []).removeHeardAll _).1.retryRemoved ((d.withEntries []).removeHeardAll _).2 = d
    rw [hentries]
    simp only [Device.removeHeardAll, h.claims, List.filter_nil, List.foldl_nil, List.map_nil]
    exact retry_of_nobody fun _ hc => nomatch hc
  have hmine : orderBy order ([] : List Cell) = [] := List.perm_nil.mp (orderBy_perm order [])
  have hall : d.retryAll = d := by
    refine forSlots_keeps (Q := fun e => e = d) (fun e i he => ?_) rfl
    subst he
    rw [if_neg (by simp [Device.recordIs, h.records i])]
  unfold Device.claimMapBeacon
  dsimp only
  rw [hage, Device.ownClaims, h.claims]
  show (List.foldl _ (List.foldl _ d (orderBy order [])) (orderBy order [])).retryAll = d
  rw [hmine]
  exact hall

theorem recordTick_of_none (hr : d.recordAt i = none) : d.recordTick i = d := by
  have h1 : d.offerTick i = d := by simp only [Device.offerTick, hr]
  have h2 : d.setdownTick i = d := if_neg (by simp [Device.recordIs, hr])
  have h3 : d.answerTick i = d := by simp only [Device.answerTick, hr]
  have h4 : d.agreedTick i = d := by simp only [Device.agreedTick, hr]
  have h5 : d.liftedTick i = d := if_neg (by simp [Device.recordIs, hr])
  rw [Device.recordTick, h1, h2, h3, h4, h5]

theorem Device.Bare.task (h : d.Bare) (o : BeaconOrder) {t : BeaconTask} (h1 : t ≠ .linePort) (h2 : t ≠ .peerRoster) :
    d.beaconTask o t = d := by
  cases t with
  | linePort => exact absurd rfl h1
  | peerRoster => exact absurd rfl h2
  | claimMap => exact h.claimMap _
  | record i => exact recordTick_of_none (h.records i)
  | run =>
    show d.serviceTick = d
    simp only [Device.serviceTick, h.run]
  | adoption =>
    show d.adoptionTick = d
    simp only [Device.adoptionTick, h.adoption]
  | ceding => exact turnTick_of_none h.turn

/-- R37, R40: the roster's beacon at a bare ACTIVE station. -/
theorem Device.Bare.peerRoster (h : d.Bare) (hact : d.peers.state = .active) (hsend : d.canSend)
    (hnone : ∀ x ∈ d.line.queue, bodyIsPresence x.frame.body = false) (hn : d.peers.silenceTimer = some n) (h2 : 2 ≤ n)
    {b : PresenceBody}
    (hb : b = { state := 2, position := d.link.position, hoistBin := (d.accounts.hoist.map fun a => a.bin).getD 0, stakes := [] })
    (order : List Station) :
    d.peerRosterBeacon order = { d with
      line := d.sent .peerRoster (.presence b),
      peers := { d.peers with silenceTimer := some (n - 1) } } := by
  have hjoin : d.joinTick order = d := if_neg (by rw [hact]; decide)
  have hsilence : d.silenceTick = d.withPeers { d.peers with silenceTimer := some (n - 1) } := by
    simp only [Device.silenceTick, hn, if_neg (show ¬n ≤ 1 by omega)]
  have hages (e : Device) (he : e.peers.roster = []) : e.rosterAges order = e := by
    have hstations : orderBy order ([] : List Station) = [] := List.perm_nil.mp (orderBy_perm order [])
    unfold Device.rosterAges
    rw [he]
    show List.foldl _ e (orderBy order []) = e
    rw [hstations]
    rfl
  have hbody : (d.withPeers { d.peers with silenceTimer := some (n - 1) }).presenceBody = b := by
    have hstate : (d.withPeers { d.peers with silenceTimer := some (n - 1) }).peers.state = .active := hact
    have hown : (d.withPeers { d.peers with silenceTimer := some (n - 1) }).ownClaims = [] := by
      rw [Device.ownClaims]
      exact congrArg (List.filter _) h.claims
    have hbin : (d.withPeers { d.peers with silenceTimer := some (n - 1) }).hoistBin = (d.accounts.hoist.map fun a => a.bin).getD 0 := by
      unfold Device.hoistBin
      show (match d.accounts.hoist with | some a => a.bin | none => 0#32) = _
      cases d.accounts.hoist <;> rfl
    unfold Device.presenceBody
    rw [hstate, hown, hbin, hb]
    rfl
  unfold Device.peerRosterBeacon
  rw [hjoin, hsilence, hages (d.withPeers { d.peers with silenceTimer := some (n - 1) }) h.roster, Device.offerPresence, if_pos, Device.sendAbsorbed, hbody]
  · exact (offer_presence_of_room (d := d.withPeers { d.peers with silenceTimer := some (n - 1) }) hsend hnone ..).trans rfl
  · simp [Device.configured, Device.muted, hact, hsend.1]

/-! ## The two blocks that act, in either order -/

/-- The part after the recent pairs have aged, and after the Peer Roster's beacon. -/
def Device.beaconed (d : Device) (n : Nat) (b : PresenceBody) (aged sent : Bool) : Device :=
  let l : LinePort := if sent then d.sent .peerRoster (.presence b) else d.line
  { d with
    line := if aged then { l with recent := d.line.recentAges.recent } else l,
    peers := if sent then { d.peers with silenceTimer := some (n - 1) } else d.peers }

section Both

variable {b : PresenceBody} {x y : Bool}

theorem beaconed_bare (h : d.Bare) : (d.beaconed n b x y).Bare := by
  refine ⟨h.claims, h.records, ?_, h.run, h.adoption, h.turn⟩
  unfold Device.beaconed
  cases y <;> exact h.roster

theorem sent_recent (d : Device) (x : Sender) (b : Body) : (d.sent x b).recent = d.line.recent := (joinTail_setting ..).recent

theorem beaconed_linePort (o : BeaconOrder) : (d.beaconed n b false y).beaconTask o .linePort = d.beaconed n b true y := by
  have hrecent : (d.beaconed n b false y).line.recent = d.line.recent := by
    cases y
    · rfl
    · exact sent_recent ..
  have haged : (d.beaconed n b false y).line.recentAges = { (d.beaconed n b false y).line with recent := d.line.recentAges.recent } := by
    rw [LinePort.recentAges, hrecent]
    rfl
  rw [beaconTask_linePort, haged]
  rfl

theorem beaconed_peerRoster (h : d.Bare) (hact : d.peers.state = .active) (hsend : d.canSend)
    (hnone : ∀ x ∈ d.line.queue, bodyIsPresence x.frame.body = false) (hn : d.peers.silenceTimer = some n) (h2 : 2 ≤ n)
    (hb : b = { state := 2, position := d.link.position, hoistBin := (d.accounts.hoist.map fun a => a.bin).getD 0, stakes := [] })
    (o : BeaconOrder) : (d.beaconed n b x false).beaconTask o .peerRoster = d.beaconed n b x true := by
  have hbare : (d.beaconed n b x false).Bare := beaconed_bare h
  rw [beaconTask_peerRoster]
  cases x with
  | false =>
    have hself : d.beaconed n b false false = d := rfl
    rw [hself, h.peerRoster hact hsend hnone hn h2 hb]
    rfl
  | true =>
    have hsend' : (d.beaconed n b true false).canSend := hsend
    have hline : (d.beaconed n b true false).sent .peerRoster (.presence b) =
        { d.sent .peerRoster (.presence b) with recent := d.line.recentAges.recent } := joinTail_recent ..
    rw [hbare.peerRoster hact hsend' hnone hn h2 hb, hline]
    rfl

theorem beaconed_other (h : d.Bare) (o : BeaconOrder) {t : BeaconTask} (h1 : t ≠ .linePort) (h2 : t ≠ .peerRoster) :
    (d.beaconed n b x y).beaconTask o t = d.beaconed n b x y := (beaconed_bare h).task o h1 h2

theorem beaconed_foldl (h : d.Bare) (hact : d.peers.state = .active) (hsend : d.canSend)
    (hnone : ∀ x ∈ d.line.queue, bodyIsPresence x.frame.body = false) (hn : d.peers.silenceTimer = some n) (h2 : 2 ≤ n)
    (hb : b = { state := 2, position := d.link.position, hoistBin := (d.accounts.hoist.map fun a => a.bin).getD 0, stakes := [] })
    (o : BeaconOrder) {l : List BeaconTask} (hl : l.Nodup) (hx : x = true → BeaconTask.linePort ∉ l)
    (hy : y = true → BeaconTask.peerRoster ∉ l) :
    l.foldl (Device.beaconTask o) (d.beaconed n b x y) =
      d.beaconed n b (x || decide (BeaconTask.linePort ∈ l)) (y || decide (BeaconTask.peerRoster ∈ l)) := by
  induction l generalizing x y with
  | nil => simp
  | cons t l ih =>
    obtain ⟨hno, hnodup⟩ := List.nodup_cons.mp hl
    rw [List.foldl_cons]
    by_cases h1 : t = .linePort
    · subst h1
      obtain rfl : x = false := by
        cases x
        · rfl
        · exact absurd List.mem_cons_self (hx rfl)
      rw [beaconed_linePort, ih hnodup (fun _ => hno) fun hy' => fun hm => hy hy' (List.mem_cons_of_mem _ hm)]
      simp
    · by_cases h2' : t = .peerRoster
      · subst h2'
        obtain rfl : y = false := by
          cases y
          · rfl
          · exact absurd List.mem_cons_self (hy rfl)
        rw [beaconed_peerRoster h hact hsend hnone hn h2 hb,
          ih hnodup (fun hx' => fun hm => hx hx' (List.mem_cons_of_mem _ hm)) fun _ => hno]
        simp
      · rw [beaconed_other h o h1 h2', ih hnodup (fun hx' => fun hm => hx hx' (List.mem_cons_of_mem _ hm))
          fun hy' => fun hm => hy hy' (List.mem_cons_of_mem _ hm)]
        simp [Ne.symm h1, Ne.symm h2']

end Both

/-- R40, R163: a bare ACTIVE station queues its PRESENCE, and its recent pairs age. -/
theorem beaconPeriod_bare (h : d.Bare) (hact : d.peers.state = .active) (hsend : d.canSend)
    (hnone : ∀ x ∈ d.line.queue, bodyIsPresence x.frame.body = false) (hn : d.peers.silenceTimer = some n) (h2 : 2 ≤ n) (o : BeaconOrder) :
    d.beaconPeriod o = d.beaconed n
      { state := 2, position := d.link.position, hoistBin := (d.accounts.hoist.map fun a => a.bin).getD 0, stakes := [] } true true := by
  have hperm := orderBy_perm o.tasks beaconTasks
  have hfold := beaconed_foldl h hact hsend hnone hn h2 rfl o (hperm.nodup_iff.mpr beaconTasks_nodup) (x := false) (y := false)
    (fun hx => nomatch hx) fun hy => nomatch hy
  have h1 : BeaconTask.linePort ∈ orderBy o.tasks beaconTasks := hperm.mem_iff.mpr (by decide)
  have h2 : BeaconTask.peerRoster ∈ orderBy o.tasks beaconTasks := hperm.mem_iff.mpr (by decide)
  rw [decide_eq_true h1, decide_eq_true h2] at hfold
  exact hfold

end Sys2Proof.Machine
end

section
/-! PROOF. A beacon period at the claim map, with nothing due (R52, R60, R67). -/

namespace Sys2Proof.Machine

set_option Elab.async false

variable {d e : Device} {s : State} {i j n : Nat} {r q : Record} {st : Station} {c : Cell} {es : List Claim} {x y : Claim}

/-! ## Own stakes stand on different cells -/

/-- At most one own stake stands on a cell. -/
def OwnApart (es : List Claim) : Prop := ((es.filter fun x => x.own.isSome).map fun x => x.cell).Nodup

theorem OwnApart.eq (h : OwnApart es) (hx : x ∈ es) (hy : y ∈ es) (hox : x.own.isSome = true) (hoy : y.own.isSome = true)
    (hc : x.cell = y.cell) : x = y :=
  List.inj_on_of_nodup_map h (List.mem_filter.mpr ⟨hx, hox⟩) (List.mem_filter.mpr ⟨hy, hoy⟩) hc

theorem ownCells_map {f : Claim → Claim} (hc : ∀ x, (f x).cell = x.cell) (ho : ∀ x, (f x).own.isSome = x.own.isSome) (es : List Claim) :
    ((es.map f).filter fun x => x.own.isSome).map (fun x => x.cell) = (es.filter fun x => x.own.isSome).map fun x => x.cell := by
  have hp : (fun x : Claim => x.own.isSome) ∘ f = fun x => x.own.isSome := funext ho
  have hq : (fun x : Claim => x.cell) ∘ f = fun x => x.cell := funext hc
  rw [List.filter_map, List.map_map, hp, hq]

theorem OwnApart.map {f : Claim → Claim} (h : OwnApart es) (hc : ∀ x, (f x).cell = x.cell) (ho : ∀ x, (f x).own.isSome = x.own.isSome) :
    OwnApart (es.map f) := by
  unfold OwnApart
  rw [ownCells_map hc ho]
  exact h

theorem OwnApart.filter (h : OwnApart es) (p : Claim → Bool) : OwnApart (es.filter p) :=
  h.sublist ((List.filter_sublist.filter _).map _)

theorem ownApart_of_sound (h : d.claims.Sound st) : OwnApart d.claims.entries := by
  refine List.pairwise_map.mpr ((h.ordered.sublist List.filter_sublist).imp_of_mem fun {x y} hx hy hlt hc => ?_)
  obtain ⟨hx, hox⟩ := List.mem_filter.mp hx
  obtain ⟨hy, hoy⟩ := List.mem_filter.mp hy
  rw [hc, (h.ours x hx).mp hox, (h.ours y hy).mp hoy] at hlt
  exact Nat.lt_irrefl _ hlt

/-! ## Heard entries age out (R52) -/

/-- R65: an own stake whose rival has gone has none any more. -/
def Claim.rivalsGone (gone : List Claim) (x : Claim) : Claim :=
  { x with own := x.own.map fun o =>
      { o with rival := if gone.any fun y => y.cell == x.cell && o.rival == some y.claimant then none else o.rival } }

theorem rivalsGone_nil (x : Claim) : x.rivalsGone [] = x := by
  simp [Claim.rivalsGone]

theorem rivalsGone_cons (g : Claim) (gone : List Claim) (x : Claim) :
    (x.rivalCleared g.cell g.claimant).rivalsGone gone = x.rivalsGone (g :: gone) := by
  unfold Claim.rivalCleared Claim.rivalsGone
  cases ho : x.own with
  | none => simp [ho]
  | some o =>
    by_cases hc : x.cell = g.cell
    · by_cases hr : o.rival = some g.claimant
      · simp [hc, hr]
      · simp [hc, hr]
    · have hne : (g.cell == x.cell) = false := beq_eq_false_iff_ne.mpr (Ne.symm hc)
      simp [ho, hc, hne]

theorem removeHeards_eq (gone : List Claim) (d : Device) :
    gone.foldl (fun d x => d.removeHeard x.cell x.claimant) d = d.withEntries
      ((d.claims.entries.filter fun x => !(x.own.isNone && gone.any fun y => y.cell == x.cell && y.claimant == x.claimant)).map
        (Claim.rivalsGone gone)) := by
  induction gone generalizing d with
  | nil =>
    have hmap : d.claims.entries.map (Claim.rivalsGone []) = d.claims.entries := by
      rw [funext rivalsGone_nil]
      exact List.map_id _
    simp only [List.foldl_nil, List.any_nil, Bool.and_false, Bool.not_false, List.filter_true, hmap]
    rfl
  | cons g gone ih =>
    have hstep : d.removeHeard g.cell g.claimant = d.withEntries
        ((d.claims.entries.filter fun x => !(x.own.isNone && x.cell == g.cell && x.claimant == g.claimant)).map
          (Claim.rivalCleared g.cell g.claimant)) := rfl
    rw [List.foldl_cons, ih, hstep]
    refine congrArg d.withEntries ?_
    show (((d.claims.entries.filter _).map _).filter _).map _ = _
    rw [List.filter_map, List.map_map, List.filter_filter]
    refine congrArg₂ List.map (funext fun x => rivalsGone_cons g gone x) (List.filter_congr fun x _ => ?_)
    obtain ⟨h1, h2, -, -, -, -, h3, -⟩ := rivalCleared_rest (c := g.cell) (st := g.claimant) x
    have hnone : (x.rivalCleared g.cell g.claimant).own.isNone = x.own.isNone := by rw [← Option.not_isSome, h3, Option.not_isSome]
    simp only [Function.comp_apply, h1, h2, hnone, List.any_cons]
    rw [BEq.comm (a := x.cell), BEq.comm (a := x.claimant)]
    cases x.own.isNone <;> simp [Bool.and_comm]

/-- R52: a heard entry ages; an own one does not. -/
def Claim.older (x : Claim) : Claim := if x.own.isNone then { x with age := x.age + 1 } else x

theorem older_rest (x : Claim) : x.older.cell = x.cell ∧ x.older.claimant = x.claimant ∧ x.older.own = x.own := by
  unfold Claim.older
  split <;> exact ⟨rfl, rfl, rfl⟩

theorem older_agesOut (x : Claim) : (x.older.own.isNone && decide (Config.claimAge ≤ x.older.age)) = x.agesOut := by
  unfold Claim.older Claim.agesOut
  split
  · next h => simp [h, Config.claimAge]
  · next h => simp [h]

/-- A claim map in its order holds at most one entry of a station on a cell. -/
theorem claims_inj (h : es.Pairwise fun x y => claimRank x.cell x.claimant < claimRank y.cell y.claimant) (hx : x ∈ es) (hy : y ∈ es)
    (hc : x.cell = y.cell) (ho : x.claimant = y.claimant) : x = y := by
  have hnodup : (es.map fun x => claimRank x.cell x.claimant).Nodup := List.pairwise_map.mpr (h.imp fun hlt => Nat.ne_of_lt hlt)
  exact List.inj_on_of_nodup_map hnodup hx hy (by rw [hc, ho])

/-- R52: the entries that stand after the heard ones have aged. -/
def Device.olderClaims (d : Device) : List Claim :=
  ((d.claims.entries.filter fun x => !x.agesOut).map Claim.older).map (Claim.rivalsGone (d.claims.entries.filter Claim.agesOut))

theorem claimsAge_eq (h : d.claims.Sound st) :
    d.claimsAge = (d.withEntries d.olderClaims).retryRemoved ((d.claims.entries.filter Claim.agesOut).map fun x => x.cell) := by
  let gone := d.claims.entries.filter Claim.agesOut
  have hgone : (d.claims.entries.map Claim.older).filter (fun x => x.own.isNone && decide (Config.claimAge ≤ x.age)) = gone.map Claim.older := by
    rw [List.filter_map]
    exact congrArg (List.map Claim.older) (List.filter_congr fun x _ => older_agesOut x)
  have hcells : (gone.map Claim.older).map (fun x => x.cell) = gone.map fun x => x.cell := by
    rw [List.map_map]
    exact List.map_congr_left fun x _ => (older_rest x).1
  have hrivals : Claim.rivalsGone (gone.map Claim.older) = Claim.rivalsGone gone := by
    funext x
    unfold Claim.rivalsGone
    have hsame (o : OwnStake) : ((fun y : Claim => y.cell == x.cell && o.rival == some y.claimant) ∘ Claim.older) =
        fun y => y.cell == x.cell && o.rival == some y.claimant := by
      funext y
      obtain ⟨h1, h2, -⟩ := older_rest y
      simp only [Function.comp_apply, h1, h2]
    simp only [List.any_map, hsame]
  have hkept : (d.claims.entries.map Claim.older).filter
      (fun x => !(x.own.isNone && (gone.map Claim.older).any fun y => y.cell == x.cell && y.claimant == x.claimant)) =
      (d.claims.entries.filter fun x => !x.agesOut).map Claim.older := by
    rw [List.filter_map]
    refine congrArg (List.map Claim.older) (List.filter_congr fun x hx => ?_)
    obtain ⟨h1, h2, h3⟩ := older_rest x
    refine congrArg (!·) ?_
    show (x.older.own.isNone && _) = _
    rw [h1, h2, h3, Bool.eq_iff_iff, Bool.and_eq_true, List.any_eq_true]
    constructor
    · rintro ⟨hown, z, hz, hzk⟩
      obtain ⟨y, hy, rfl⟩ := List.mem_map.mp hz
      obtain ⟨g1, g2, -⟩ := older_rest y
      rw [g1, g2, Bool.and_eq_true, beq_iff_eq, beq_iff_eq] at hzk
      obtain ⟨hy, hage⟩ := List.mem_filter.mp hy
      rwa [claims_inj h.ordered hy hx hzk.1 hzk.2] at hage
    · intro hage
      obtain ⟨g1, g2, -⟩ := older_rest x
      refine ⟨((Bool.and_eq_true _ _).mp hage).1, _, List.mem_map.mpr ⟨x, List.mem_filter.mpr ⟨hx, hage⟩, rfl⟩, ?_⟩
      rw [g1, g2]
      simp
  have hall : ((d.withEntries (d.claims.entries.map Claim.older)).removeHeardAll fun x => decide (Config.claimAge ≤ x.age)) =
      (d.withEntries d.olderClaims, gone.map fun x => x.cell) := by
    unfold Device.removeHeardAll
    dsimp only
    show (List.foldl _ _ ((d.claims.entries.map Claim.older).filter _), List.map _ ((d.claims.entries.map Claim.older).filter _)) = _
    rw [hgone, hcells, removeHeards_eq]
    refine congrArg (·, _) (congrArg d.withEntries ?_)
    show List.map _ ((d.claims.entries.map Claim.older).filter _) = _
    rw [hkept, hrivals]
    rfl
  have hstart : d.claimsAge = ((d.withEntries (d.claims.entries.map Claim.older)).removeHeardAll fun x => decide (Config.claimAge ≤ x.age)).1.retryRemoved
      ((d.withEntries (d.claims.entries.map Claim.older)).removeHeardAll fun x => decide (Config.claimAge ≤ x.age)).2 := rfl
  rw [hstart, hall]

/-! ## The counts of the own stakes fall (R60, R67) -/

/-- An entry with its own stake, if it is one, changed. -/
def Claim.onOwn (f : OwnStake → OwnStake) (x : Claim) : Claim := { x with own := x.own.map f }

theorem onOwn_self {f : OwnStake → OwnStake} (h : ∀ o, x.own = some o → f o = o) : x.onOwn f = x := by
  have hown : x.own.map f = x.own := by
    cases ho : x.own with
    | none => rfl
    | some o => exact congrArg some (h o ho)
  unfold Claim.onOwn
  rw [hown]

theorem onOwn_heard (f : OwnStake → OwnStake) (x : Claim) (hx : x.own = none) : x.onOwn f = x := onOwn_self fun o ho => by
  rw [hx] at ho
  cases ho

theorem onOwn_congr {f g : OwnStake → OwnStake} {o : OwnStake} (ho : x.own = some o) (h : f o = g o) : x.onOwn f = x.onOwn g := by
  simp only [Claim.onOwn, ho, Option.map_some, h]

/-- R60: the settle count falls. -/
def OwnStake.settleLess (o : OwnStake) : OwnStake := { o with settle := o.settle.map (· - 1) }

/-- R67: the linger count falls. -/
def OwnStake.lingerLess (o : OwnStake) : OwnStake := { o with linger := o.linger.map (· - 1) }

theorem settleLess_self {o : OwnStake} (h : o.settle = none) : o.settleLess = o := by
  obtain ⟨use, outcome, settle, linger, rival⟩ := o
  obtain rfl : settle = none := h
  rfl

theorem lingerLess_self {o : OwnStake} (h : o.linger = none) : o.lingerLess = o := by
  obtain ⟨use, outcome, settle, linger, rival⟩ := o
  obtain rfl : linger = none := h
  rfl

/-- The settle count of an own stake does not run out at the next expiry. -/
def Claim.Settling (x : Claim) : Prop := ∀ o ∈ x.own, ∀ n ∈ o.settle, 2 ≤ n

/-- The linger count of an own stake does not run out at the next expiry. -/
def Claim.Lingering (x : Claim) : Prop := ∀ o ∈ x.own, ∀ n ∈ o.linger, 2 ≤ n

/-- The entries with those of one cell changed. -/
def Device.mapCell (d : Device) (f : Claim → Claim) (c : Cell) : Device :=
  d.withEntries (d.claims.entries.map fun x => if x.cell = c then f x else x)

section Tick

variable {f : OwnStake → OwnStake}

theorem mapCell_of_none (ha : d.ownClaim c = none) : d.mapCell (Claim.onOwn f) c = d := by
  have hmap : (d.claims.entries.map fun x => if x.cell = c then x.onOwn f else x) = d.claims.entries := by
    refine (List.map_congr_left fun x hx => ?_).trans (List.map_id _)
    split
    · next hc =>
      refine onOwn_heard f x ?_
      by_contra hown
      exact ownClaim_eq_none_iff.mp ha x hx hown hc
    · rfl
  unfold Device.mapCell
  rw [hmap]
  rfl

variable (hu : OwnApart d.claims.entries) (hx : d.ownClaim c = some x)
include hu hx

/-- A change of the own stake on a cell is a change of all own entries there. -/
theorem modOwn_eq_mapCell {g : Claim → Claim} (hg : g x = x.onOwn f) : d.modOwn c g = d.mapCell (Claim.onOwn f) c := by
  refine congrArg d.withEntries (List.map_congr_left fun y hy => ?_)
  have hfound := List.find?_some hx
  rw [Bool.and_eq_true, beq_iff_eq] at hfound
  by_cases hc : y.cell = c
  · by_cases hown : y.own.isSome = true
    · have heq : y = x := hu.eq hy (List.mem_of_find?_eq_some hx) hown hfound.1 (hc.trans hfound.2.symm)
      rw [if_pos (by simp [hown, hc]), if_pos hc, heq, hg]
    · rw [if_neg (by simp [hown]), if_pos hc, onOwn_heard f y (by simpa using hown)]
  · rw [if_neg (by simp [hc]), if_neg hc]

theorem mapCell_self {o : OwnStake} (ho : x.own = some o) (h : f o = o) : d.mapCell (Claim.onOwn f) c = d := by
  have hsame : id x = x.onOwn f := (onOwn_self fun o' ho' => by
    obtain rfl := Option.some.inj (ho.symm.trans ho')
    exact h).symm
  rw [← modOwn_eq_mapCell hu hx hsame]
  unfold Device.modOwn
  simp only [id_eq, ite_self, List.map_id']
  rfl

end Tick

/-- What every own stake on a cell promises, the one found there keeps. -/
theorem ownClaim_ready {P : OwnStake → Prop} (h : ∀ x ∈ d.claims.entries, x.cell = c → ∀ o ∈ x.own, P o) (hx : d.ownClaim c = some x) :
    ∃ o, x.own = some o ∧ P o := by
  have hfound := List.find?_some hx
  rw [Bool.and_eq_true, beq_iff_eq, Option.isSome_iff_exists] at hfound
  obtain ⟨⟨o, ho⟩, hc⟩ := hfound
  exact ⟨o, ho, h x (List.mem_of_find?_eq_some hx) hc o ho⟩

theorem settleTick_settling (hu : OwnApart d.claims.entries) (h : ∀ x ∈ d.claims.entries, x.cell = c → x.Settling) :
    d.settleTick c = d.mapCell (Claim.onOwn OwnStake.settleLess) c := by
  unfold Device.settleTick
  cases hx : d.ownClaim c with
  | none => exact (mapCell_of_none hx).symm
  | some x =>
    obtain ⟨o, ho, hready⟩ := ownClaim_ready h hx
    simp only [ho, Option.bind_some]
    cases hs : o.settle with
    | none => exact (mapCell_self hu hx ho (settleLess_self hs)).symm
    | some n =>
      dsimp only
      rw [if_neg (by have := hready n hs; omega)]
      exact modOwn_eq_mapCell hu hx (onOwn_congr ho (by simp [OwnStake.settleLess, hs]))

theorem lingerTick_lingering (hu : OwnApart d.claims.entries) (h : ∀ x ∈ d.claims.entries, x.cell = c → x.Lingering) :
    d.lingerTick c = d.mapCell (Claim.onOwn OwnStake.lingerLess) c := by
  unfold Device.lingerTick
  cases hx : d.ownClaim c with
  | none => exact (mapCell_of_none hx).symm
  | some x =>
    obtain ⟨o, ho, hready⟩ := ownClaim_ready h hx
    simp only [ho, Option.bind_some]
    cases hs : o.linger with
    | none => exact (mapCell_self hu hx ho (lingerLess_self hs)).symm
    | some n =>
      dsimp only
      rw [if_neg (by have := hready n hs; omega)]
      exact modOwn_eq_mapCell hu hx (onOwn_congr ho (by simp [OwnStake.lingerLess, hs]))

/-- One tick after another, on different cells. -/
theorem foldl_ticks {tick : Device → Cell → Device} {f : OwnStake → OwnStake} {P : Claim → Prop}
    (htick : ∀ (d : Device) c, OwnApart d.claims.entries → (∀ x ∈ d.claims.entries, x.cell = c → P x) →
      tick d c = d.mapCell (Claim.onOwn f) c) {cs : List Cell} (hcs : cs.Nodup) {d : Device} (hu : OwnApart d.claims.entries)
    (h : ∀ x ∈ d.claims.entries, x.cell ∈ cs → P x) :
    cs.foldl tick d = d.withEntries (d.claims.entries.map fun x => if x.cell ∈ cs then x.onOwn f else x) := by
  induction cs generalizing d with
  | nil =>
    simp only [List.foldl_nil, List.not_mem_nil, if_false, List.map_id']
    rfl
  | cons c cs ih =>
    obtain ⟨hno, hnodup⟩ := List.nodup_cons.mp hcs
    have hstep := htick d c hu fun x hx hc => h x hx (hc ▸ List.mem_cons_self)
    have hone (x : Claim) : (if x.cell = c then x.onOwn f else x).cell = x.cell ∧
        (if x.cell = c then x.onOwn f else x).own.isSome = x.own.isSome := by
      split
      · exact ⟨rfl, Option.isSome_map ..⟩
      · exact ⟨rfl, rfl⟩
    rw [List.foldl_cons, hstep, ih hnodup (hu.map (fun x => (hone x).1) fun x => (hone x).2)]
    · refine congrArg d.withEntries ((List.map_map ..).trans (List.map_congr_left fun x _ => ?_))
      rw [Function.comp_apply, (hone x).1]
      by_cases hc : x.cell = c
      · rw [if_pos hc, hc, if_neg hno, if_pos List.mem_cons_self]
      · simp [hc]
    · intro y hy hyc
      obtain ⟨x, hx, rfl⟩ := List.mem_map.mp hy
      rw [(hone x).1] at hyc
      have hc : x.cell ≠ c := fun hc => hno (hc ▸ hyc)
      rw [if_neg hc]
      exact h x hx (List.mem_cons_of_mem _ hyc)

/-- The ticks of all own stakes. -/
theorem foldl_ticks_all {tick : Device → Cell → Device} {f : OwnStake → OwnStake} {P : Claim → Prop}
    (htick : ∀ (d : Device) c, OwnApart d.claims.entries → (∀ x ∈ d.claims.entries, x.cell = c → P x) →
      tick d c = d.mapCell (Claim.onOwn f) c) {cs : List Cell} {d : Device} (hu : OwnApart d.claims.entries)
    (hcs : cs.Perm (d.ownClaims.map fun x => x.cell)) (h : ∀ x ∈ d.claims.entries, P x) :
    cs.foldl tick d = d.withEntries (d.claims.entries.map (Claim.onOwn f)) := by
  rw [foldl_ticks htick (hcs.nodup_iff.mpr hu) hu fun x hx _ => h x hx]
  refine congrArg d.withEntries (List.map_congr_left fun x hx => ?_)
  split
  · rfl
  · next hno =>
    refine (onOwn_heard f x ?_).symm
    by_contra hown
    refine hno (hcs.mem_iff.mpr (List.mem_map.mpr ⟨x, List.mem_filter.mpr ⟨hx, ?_⟩, rfl⟩))
    exact Option.isSome_iff_ne_none.mpr hown

/-! ## The claim map of one beacon period -/

/-- R52, R60, R65, R67: the entries after a beacon period in which no count runs out. -/
def Device.countedClaims (d : Device) : List Claim :=
  (d.claims.entries.filter fun x => !x.agesOut).map (Claim.counted (d.claims.entries.filter Claim.agesOut))

theorem counted_eq (gone : List Claim) (x : Claim) :
    (((x.older.rivalsGone gone).onOwn OwnStake.settleLess).onOwn OwnStake.lingerLess) = x.counted gone := by
  unfold Claim.older Claim.counted
  cases ho : x.own with
  | none => simp [Claim.rivalsGone, Claim.onOwn]
  | some o => simp [Claim.rivalsGone, Claim.onOwn, ho, OwnStake.settleLess, OwnStake.lingerLess]

theorem rivalsGone_rest (gone : List Claim) (x : Claim) :
    (x.rivalsGone gone).cell = x.cell ∧ (x.rivalsGone gone).own.isSome = x.own.isSome := ⟨rfl, Option.isSome_map ..⟩

/-- R52, R60, R67: with nobody waiting for a cell that is freed, the entries age and count, and the waiting requests follow. -/
theorem claimMapBeacon_counts (h : d.claims.Sound st) (hc : ∀ x ∈ d.claims.entries, x.Settling ∧ x.Lingering)
    (hw : ∀ c ∈ (d.claims.entries.filter Claim.agesOut).map fun x => x.cell, ∀ i, d.waitsOn c isBlockedOrOutranked i = false)
    (order : List Cell) : d.claimMapBeacon order = (d.withEntries d.countedClaims).retryAll := by
  have hage : d.claimsAge = d.withEntries d.olderClaims := by
    rw [claimsAge_eq h]
    exact retry_of_nobody hw
  have hu : OwnApart d.olderClaims := by
    refine OwnApart.map (OwnApart.map ((ownApart_of_sound h).filter _) (fun x => (older_rest x).1) fun x => ?_)
      (fun x => (rivalsGone_rest _ x).1) fun x => (rivalsGone_rest _ x).2
    rw [(older_rest x).2.2]
  have hold {P : OwnStake → Prop} (hP : ∀ o r, P o → P { o with rival := r }) (h : ∀ x ∈ d.claims.entries, ∀ o ∈ x.own, P o) :
      ∀ x ∈ d.olderClaims, ∀ o ∈ x.own, P o := by
    intro y hy o ho
    obtain ⟨z, hz, rfl⟩ := List.mem_map.mp hy
    obtain ⟨x, hx, rfl⟩ := List.mem_map.mp hz
    obtain ⟨p, hp, rfl⟩ := Option.map_eq_some_iff.mp ho
    rw [(older_rest x).2.2] at hp
    exact hP p _ (h x (List.mem_filter.mp hx).1 p hp)
  have hsettling : ∀ x ∈ d.olderClaims, x.Settling := hold (P := fun o => ∀ n ∈ o.settle, 2 ≤ n) (fun _ _ h => h) fun x hx => (hc x hx).1
  have hlingering : ∀ x ∈ d.olderClaims, x.Lingering := hold (P := fun o => ∀ n ∈ o.linger, 2 ≤ n) (fun _ _ h => h) fun x hx => (hc x hx).2
  have hperm := orderBy_perm order ((d.withEntries d.olderClaims).ownClaims.map fun x => x.cell)
  have hown (f : OwnStake → OwnStake) (x : Claim) : (x.onOwn f).own.isSome = x.own.isSome := Option.isSome_map ..
  have hsettle := foldl_ticks_all (tick := fun d c => d.settleTick c) (P := Claim.Settling) (f := OwnStake.settleLess)
    (d := d.withEntries d.olderClaims) (fun _ _ => settleTick_settling) hu hperm hsettling
  have hperm' : (orderBy order ((d.withEntries d.olderClaims).ownClaims.map fun x => x.cell)).Perm
      ((d.withEntries (d.olderClaims.map (Claim.onOwn OwnStake.settleLess))).ownClaims.map fun x => x.cell) := by
    have hsame : (d.withEntries (d.olderClaims.map (Claim.onOwn OwnStake.settleLess))).ownClaims.map (fun x => x.cell) =
        (d.withEntries d.olderClaims).ownClaims.map fun x => x.cell :=
      ownCells_map (f := Claim.onOwn OwnStake.settleLess) (fun _ => rfl) (hown _) d.olderClaims
    rw [hsame]
    exact hperm
  have hlingering' : ∀ x ∈ d.olderClaims.map (Claim.onOwn OwnStake.settleLess), x.Lingering := by
    intro y hy o ho
    obtain ⟨x, hx, rfl⟩ := List.mem_map.mp hy
    obtain ⟨p, hp, rfl⟩ := Option.map_eq_some_iff.mp ho
    exact hlingering x hx p hp
  have hlinger := foldl_ticks_all (tick := fun d c => d.lingerTick c) (P := Claim.Lingering) (f := OwnStake.lingerLess)
    (d := d.withEntries (d.olderClaims.map (Claim.onOwn OwnStake.settleLess)))
    (fun _ _ => lingerTick_lingering) (hu.map (fun _ => rfl) (hown _)) hperm' hlingering'
  have hentries : (d.olderClaims.map (Claim.onOwn OwnStake.settleLess)).map (Claim.onOwn OwnStake.lingerLess) = d.countedClaims := by
    unfold Device.olderClaims Device.countedClaims
    rw [List.map_map, List.map_map, List.map_map]
    exact List.map_congr_left fun x _ => counted_eq _ x
  unfold Device.claimMapBeacon
  dsimp only
  rw [hage, hsettle]
  show (List.foldl _ (d.withEntries (d.olderClaims.map (Claim.onOwn OwnStake.settleLess))) _).retryAll = _
  rw [hlinger]
  exact congrArg (fun es => (d.withEntries es).retryAll) hentries

end Sys2Proof.Machine
end

section
/-! PROOF. A beacon period in which nothing is due but in one slot (R96, R101, R115, R117, R121, R163): what each task leaves of the others. -/

namespace Sys2Proof.Machine

set_option Elab.async false

variable {d e : Device} {s : Device} {i j n : Nat} {r q : Record} {st : Station} {c : Cell} {t : BeaconTask}

/-! ## A record with nothing due -/

section Ticks

variable (hr : d.recordAt i = some r)
include hr

theorem offerTick_of_other (h : ¬(r.state = .giver .offering ∧ 1 ≤ r.offers)) : d.offerTick i = d := by
  simp only [Device.offerTick, hr, if_neg h]

theorem setdownTick_of_other (h : ¬(r.state = .giver .placed ∧ r.setdownOwed = true)) : d.setdownTick i = d := by
  refine if_neg ?_
  rw [recordIs_of_record hr, Bool.and_eq_true, beq_iff_eq]
  exact h

theorem answerTick_of_other (h : r.state ≠ .taker .invited) : d.answerTick i = d := by
  simp only [Device.answerTick, hr, if_neg h]

theorem agreedTick_of_other (h : ¬(r.state = .taker .agreed ∧ r.agreeFrame = none)) : d.agreedTick i = d := by
  simp only [Device.agreedTick, hr, if_neg h]

theorem liftedTick_of_other (h : r.lifted ≠ .owed) : d.liftedTick i = d := by
  refine if_neg ?_
  rw [recordIs_of_record hr, beq_iff_eq]
  exact h

end Ticks

/-! ### What counts (R96, R115, R117) -/

theorem counted_rest (r : Record) : r.counted.state = r.state ∧ r.counted.lifted = r.lifted ∧ r.counted.setdownOwed = r.setdownOwed ∧
    r.counted.request = r.request := by
  unfold Record.counted
  split
  · split <;> exact ⟨rfl, rfl, rfl, rfl⟩
  · exact ⟨rfl, rfl, rfl, rfl⟩
  · split <;> exact ⟨rfl, rfl, rfl, rfl⟩
  · exact ⟨rfl, rfl, rfl, rfl⟩

/-- A state without a timer of its own. -/
theorem counted_of_other (h1 : r.state ≠ .giver .offering) (h2 : r.state ≠ .taker .invited) (h3 : r.state ≠ .taker .agreed) :
    r.counted = r := by
  unfold Record.counted
  split
  · next h => exact absurd h h1
  · next h => exact absurd h h2
  · next h => exact absurd h h3
  · rfl

section Quiet

variable (hr : d.recordAt i = some r) (h : r.nothingDue)
include hr h

theorem offerTick_of_nothingDue (hst : r.state = .giver .offering) : d.offerTick i = d.setSlot i (some r.counted) := by
  have hdue := h.2
  rw [hst] at hdue
  by_cases ho : r.offers = 0
  · rw [offerTick_of_other hr (by omega)]
    simp only [Record.counted, hst, ho, if_true]
    exact (setSlot_self hr).symm
  · have hcount : r.counted = { r with timer := r.timer + 1 } := by
      simp only [Record.counted, hst]
      exact if_neg ho
    have h1 : ¬(r.timer + 1 = Config.offerSecond ∧ r.offers = 1) := fun hx => hdue (.inl ⟨Nat.succ.inj hx.1, hx.2⟩)
    have h2 : ¬(r.timer + 1 = Config.offerThird ∧ r.offers = 2) := fun hx => hdue (.inr (.inl ⟨Nat.succ.inj hx.1, hx.2⟩))
    have h3 : ¬(r.timer + 1 = Config.offerWindow ∧ r.offers = 3) := fun hx => hdue (.inr (.inr ⟨Nat.succ.inj hx.1, hx.2⟩))
    have hact : r.state = .giver .offering ∧ 1 ≤ r.offers := ⟨hst, Nat.one_le_iff_ne_zero.mpr ho⟩
    rw [hcount]
    simp only [Device.offerTick, hr, if_pos hact, if_neg h1, if_neg h2, if_neg h3]

theorem answerTick_of_nothingDue (hst : r.state = .taker .invited) : d.answerTick i = d.setSlot i (some r.counted) := by
  have hdue := h.2
  rw [hst] at hdue
  have hlt : r.timer + 1 < Config.answerWindow := Nat.succ_lt_succ hdue
  have hcount : r.counted = { r with timer := r.timer + 1 } := by simp only [Record.counted, hst]
  rw [hcount]
  simp only [Device.answerTick, hr, hst, if_true, if_pos hlt]

theorem agreedTick_of_nothingDue (hst : r.state = .taker .agreed) : d.agreedTick i = d.setSlot i (some r.counted) := by
  have hdue := h.2
  rw [hst] at hdue
  by_cases hf : r.agreeFrame = none
  · have hlt : r.timer + 1 < Config.agreedWindow := Nat.succ_lt_succ (hdue.resolve_left (not_not_intro hf))
    have hcount : r.counted = { r with timer := r.timer + 1 } := by simp only [Record.counted, hst, if_pos hf]
    have hact : r.state = .taker .agreed ∧ r.agreeFrame = none := ⟨hst, hf⟩
    rw [hcount]
    simp only [Device.agreedTick, hr, if_pos hact, if_pos hlt]
  · rw [agreedTick_of_other hr fun hx => hf hx.2]
    simp only [Record.counted, hst, if_neg hf]
    exact (setSlot_self hr).symm

/-- R96, R115, R117: a record with nothing due counts its timer. -/
theorem recordTick_of_nothingDue : d.recordTick i = d.setSlot i (some r.counted) := by
  obtain ⟨hstate, hlifted, howed, -⟩ := counted_rest r
  have hset : (d.setSlot i (some r.counted)).recordAt i = some r.counted := recordAt_setSlot_self d _ (recordAt_lt d hr)
  have hl : r.counted.lifted ≠ .owed := by rw [hlifted]; exact h.1
  have hplaced : ¬(r.state = .giver .placed ∧ r.setdownOwed = true) := fun hx => by
    have hdue := h.2
    rw [hx.1] at hdue
    rw [hdue] at hx
    cases hx.2
  unfold Device.recordTick
  by_cases h1 : r.state = .giver .offering
  · rw [offerTick_of_nothingDue hr h h1, setdownTick_of_other hset (by rw [hstate, h1]; simp),
      answerTick_of_other hset (by rw [hstate, h1]; simp), agreedTick_of_other hset (by rw [hstate, h1]; simp), liftedTick_of_other hset hl]
  rw [offerTick_of_other hr fun hx => h1 hx.1, setdownTick_of_other hr hplaced]
  by_cases h2 : r.state = .taker .invited
  · rw [answerTick_of_nothingDue hr h h2, agreedTick_of_other hset (by rw [hstate, h2]; simp), liftedTick_of_other hset hl]
  rw [answerTick_of_other hr h2]
  by_cases h3 : r.state = .taker .agreed
  · rw [agreedTick_of_nothingDue hr h h3, liftedTick_of_other hset hl]
  rw [agreedTick_of_other hr fun hx => h3 hx.1, liftedTick_of_other hr h.1, counted_of_other h1 h2 h3, setSlot_self hr]

end Quiet

end Sys2Proof.Machine
end

section
/-! PROOF. A beacon period in which nothing is due but in one slot (R163): the tasks, each beside the others. -/

namespace Sys2Proof.Machine

set_option Elab.async false

variable {d e : Device} {s : Device} {i j n : Nat} {r q : Record} {st : Station} {c : Cell} {t : BeaconTask}

/-! ## The PRESENCE in the queue (R5, R41) -/

section Presence

variable {l : LinePort} {x : TxEntry}

theorem offerPlain_length (l : LinePort) (y : Sender) (b : Body) : (l.offerPlain y b).1.queue.length ≤ l.queue.length + 1 := by
  unfold LinePort.offerPlain
  split
  · rw [joinTail_queue, List.length_append]
    exact Nat.le_refl _
  · split
    · rw [joinTail_queue, removeAt_queue, List.length_append]
      exact Nat.succ_le_succ (List.length_eraseIdx_le ..)
    · exact Nat.le_succ _

theorem offerPresence_length (l : LinePort) (b : Body) : (l.offerPresence b).1.queue.length ≤ l.queue.length + 1 := by
  unfold LinePort.offerPresence
  split
  · exact offerPlain_length ..
  · split
    · exact Nat.le_succ _
    · exact (List.length_modify ..).trans_le (Nat.le_succ _)

/-- R41: a PRESENCE that takes the place of an older one leaves the other frames. -/
theorem mem_offerPresence (hx : x ∈ l.queue) (hs : x.sender ≠ .relay) (hp : bodyIsPresence x.frame.body = false) (b : Body) :
    x ∈ (l.offerPresence b).1.queue := by
  unfold LinePort.offerPresence
  split
  · exact mem_offerPlain hx hs ..
  · next k hk =>
    split
    · exact hx
    · obtain ⟨hlt, hat, -⟩ := List.findIdx?_eq_some_iff_getElem.mp hk
      obtain ⟨j, hj, rfl⟩ := List.mem_iff_getElem.mp hx
      have hne : k ≠ j := by
        rintro rfl
        rw [hat] at hp
        cases hp
      refine List.mem_iff_getElem?.mpr ⟨j, ?_⟩
      show (l.queue.modify k _)[j]? = _
      rw [List.getElem?_modify, List.getElem?_eq_getElem hj]
      exact congrArg some (if_neg hne)

theorem offerPresence_line (d : Device) :
    d.offerPresence = d.withLine d.offerPresence.line ∧ d.line.SameSetting d.offerPresence.line ∧
      d.offerPresence.line.queue.length ≤ d.line.queue.length + 1 ∧
      ∀ x ∈ d.line.queue, x.sender ≠ .relay → bodyIsPresence x.frame.body = false → x ∈ d.offerPresence.line.queue := by
  have hset : d.line.SameSetting d.offerPresence.line := ((Moves.refl (R := True) (S := True) d).offerPresence).line_setting
  refine ⟨?_, hset, ?_, fun x hx hs hp => ?_⟩
  · unfold Device.offerPresence
    split <;> rfl
  · unfold Device.offerPresence
    split
    · show (d.line.offer _ _).1.queue.length ≤ _
      unfold LinePort.offer
      split
      · exact Nat.le_succ _
      · exact offerPresence_length ..
    · exact Nat.le_succ _
  · unfold Device.offerPresence
    split
    · show x ∈ (d.line.offer _ _).1.queue
      unfold LinePort.offer
      split
      · exact hx
      · exact mem_offerPresence hx hs hp _
    · exact hx

end Presence

/-! ## The Peer Roster with no expiry (R36, R37, R43) -/

/-- The roster, its timers and a flag are all that changes. -/
def Device.RosterOnly (d e : Device) : Prop :=
  e = { d with peers := e.peers, link := { d.link with flags := e.link.flags } } ∧ e.peers.state = d.peers.state

theorem Device.RosterOnly.refl (d : Device) : d.RosterOnly d := ⟨rfl, rfl⟩

theorem Device.RosterOnly.trans {a : Device} (h : a.RosterOnly d) (g : d.RosterOnly e) : a.RosterOnly e :=
  ⟨by rw [g.1, h.1], g.2.trans h.2⟩

theorem joinTick_running (h : ∀ n ∈ d.peers.joinTimer, 2 ≤ n) (order : List Station) : d.RosterOnly (d.joinTick order) := by
  unfold Device.joinTick
  split
  · split
    · next n hn =>
      rw [if_neg (by have := h n hn; omega)]
      exact ⟨rfl, rfl⟩
    · exact .refl d
  · exact .refl d

theorem silenceTick_running (h : ∀ n ∈ d.peers.silenceTimer, 2 ≤ n) : d.RosterOnly d.silenceTick := by
  unfold Device.silenceTick
  split
  · next n hn =>
    rw [if_neg (by have := h n hn; omega)]
    exact ⟨rfl, rfl⟩
  · exact .refl d

theorem ageEntry_live (h : ∀ x ∈ d.peers.roster, x.station = st → x.age ≠ 15) : d.RosterOnly (d.ageEntry st) := by
  unfold Device.ageEntry
  split
  · next x hx =>
    have hfound := List.find?_some hx
    have hage := h x (List.mem_of_find?_eq_some hx) (beq_iff_eq.mp hfound)
    have hlost : ¬min Config.silenceMax (x.age + 1) = Config.lostAge := by
      show ¬min 255 (x.age + 1) = 16
      omega
    dsimp only
    rw [if_neg hlost]
    split <;> exact ⟨rfl, rfl⟩
  · exact .refl d

theorem ageEntry_other (d : Device) (st : Station) : ∀ x ∈ (d.ageEntry st).peers.roster, x.station ≠ st → x ∈ d.peers.roster := by
  have hlost (m : Device) : (m.stationLost st).peers.roster = m.peers.roster :=
    ((Moves.refl (R := False) (S := False) m).stationLost st).roster_eq not_false
  have hset (f : RosterEntry → RosterEntry) (hf : ∀ y, (f y).station = y.station) :
      ∀ x ∈ (d.modEntry st f).peers.roster, x.station ≠ st → x ∈ d.peers.roster := by
    intro x hx hne
    obtain ⟨y, hy, rfl⟩ := List.mem_map.mp hx
    split at hne
    · next hy' => exact absurd ((hf y).trans (beq_iff_eq.mp hy')) hne
    · next hy' =>
      rw [if_neg hy']
      exact hy
  unfold Device.ageEntry
  split
  · dsimp only
    split
    · exact hset _ fun _ => rfl
    · split
      · rw [hlost]
        exact hset _ fun _ => rfl
      · exact hset _ fun _ => rfl
  · exact fun x hx _ => hx

theorem rosterAges_live (hnodup : (d.peers.roster.map fun e => e.station).Nodup) (h : ∀ x ∈ d.peers.roster, x.age ≠ 15)
    (order : List Station) : d.RosterOnly (d.rosterAges order) := by
  have hfold : ∀ (l : List Station) (e : Device), l.Nodup → (∀ x ∈ e.peers.roster, x.station ∈ l → x.age ≠ 15) →
      e.RosterOnly (l.foldl Device.ageEntry e) := by
    intro l
    induction l with
    | nil => exact fun e _ _ => .refl e
    | cons st l ih =>
      intro e hl he
      obtain ⟨hno, hl⟩ := List.nodup_cons.mp hl
      have hstep := ageEntry_live (st := st) fun x hx hst => he x hx (hst ▸ List.mem_cons_self)
      refine hstep.trans (ih _ hl fun x hx hst => ?_)
      exact he x (ageEntry_other e st x hx fun heq => hno (heq ▸ hst)) (List.mem_cons_of_mem _ hst)
  exact hfold _ d ((orderBy_perm order _).nodup_iff.mpr hnodup) fun x hx _ => h x hx

/-! ## What each task leaves of the others -/

/-- What a task leaves of the other tasks' work. -/
structure Device.TaskLeaves (t : BeaconTask) (d e : Device) : Prop where
  peers : t ≠ .peerRoster → e.peers = d.peers
  state : e.peers.state = d.peers.state
  run : t ≠ .run → e.engine.run = d.engine.run
  adoption : t ≠ .adoption → e.engine.adoption = d.engine.adoption
  ceding : e.engine.ceding = d.engine.ceding
  tags : e.engine.tagCounter = d.engine.tagCounter
  size : e.engine.table.length = d.engine.table.length
  records : ∀ j, t ≠ .record j → e.recordAt j = d.recordAt j
  claims : t ≠ .claimMap → e.claims = d.claims
  accounts : e.accounts = d.accounts
  notices : e.link.notices = d.link.notices
  setting : e.line.station = d.line.station ∧ e.line.mode = d.line.mode
  sent : ∀ x ∈ d.line.queue, x.sender ≠ .relay → bodyIsPresence x.frame.body = false → x ∈ e.line.queue

theorem taskLeaves_refl (t : BeaconTask) (d : Device) : d.TaskLeaves t d :=
  ⟨fun _ => rfl, rfl, fun _ => rfl, fun _ => rfl, rfl, rfl, rfl, fun _ _ => rfl, fun _ => rfl, rfl, rfl, ⟨rfl, rfl⟩, fun _ hx _ _ => hx⟩

/-- The conditions under which none of the timers of the roster, the run, the adoption and the ceding runs out. -/
structure Device.NoneExpires (d : Device) : Prop where
  silence : ∀ n ∈ d.peers.silenceTimer, 2 ≤ n
  join : ∀ n ∈ d.peers.joinTimer, 2 ≤ n
  roster : ∀ e ∈ d.peers.roster, e.age ≠ 15
  stations : (d.peers.roster.map fun e => e.station).Nodup

theorem peerRoster_leaves (h : d.NoneExpires) (order : List Station) :
    d.TaskLeaves .peerRoster (d.peerRosterBeacon order) ∧ (d.peerRosterBeacon order).line.queue.length ≤ d.line.queue.length + 1 := by
  have hjoin := joinTick_running h.join order
  have hpeers : (d.joinTick order).silenceTick.peers.roster = d.peers.roster :=
    (((Moves.refl (R := False) (S := True) d).joinTick trivial order).silenceTick trivial).roster_eq not_false
  have hsilence : (d.joinTick order).RosterOnly (d.joinTick order).silenceTick := by
    refine silenceTick_running ?_
    rw [(joinTick_peers d order).1]
    exact h.silence
  have hages : (d.joinTick order).silenceTick.RosterOnly ((d.joinTick order).silenceTick.rosterAges order) := by
    refine rosterAges_live ?_ ?_ order
    · rw [hpeers]
      exact h.stations
    · rw [hpeers]
      exact h.roster
  obtain ⟨heq, hstate⟩ := (hjoin.trans hsilence).trans hages
  unfold Device.peerRosterBeacon
  generalize (d.joinTick order).silenceTick.rosterAges order = m at heq hstate
  obtain ⟨hoff, hset, hlen, hsent⟩ := offerPresence_line m
  have hline : m.line = d.line := by rw [heq]
  rw [hline] at hset hlen hsent
  have hengine : m.offerPresence.engine = d.engine := by rw [hoff, heq]; rfl
  refine ⟨⟨fun h => absurd rfl h, ?_, fun _ => by rw [hengine], fun _ => by rw [hengine], by rw [hengine], by rw [hengine], by rw [hengine],
    fun j _ => recordAt_congr (congrArg Engine.table hengine) j, fun _ => by rw [hoff, heq]; rfl, by rw [hoff, heq]; rfl,
    by rw [hoff, heq]; rfl, ⟨hset.station, hset.mode_eq⟩, hsent⟩, hlen⟩
  rw [hoff]
  exact hstate

theorem linePort_leaves (d : Device) : d.TaskLeaves .linePort (d.withLine d.line.recentAges) :=
  ⟨fun _ => rfl, rfl, fun _ => rfl, fun _ => rfl, rfl, rfl, rfl, fun _ _ => rfl, fun _ => rfl, rfl, rfl, ⟨rfl, rfl⟩, fun _ hx _ _ => hx⟩

theorem claims_leaves (d : Device) (m : List Claim) : d.TaskLeaves .claimMap (d.withEntries m) :=
  ⟨fun _ => rfl, rfl, fun _ => rfl, fun _ => rfl, rfl, rfl, rfl, fun _ _ => rfl, fun h => absurd rfl h, rfl, rfl, ⟨rfl, rfl⟩,
    fun _ hx _ _ => hx⟩

theorem setSlot_leaves (d : Device) (i : Nat) (q : Record) : d.TaskLeaves (.record i) (d.setSlot i (some q)) :=
  ⟨fun _ => rfl, rfl, fun _ => rfl, fun _ => rfl, rfl, rfl, List.length_set, fun _ hj => recordAt_setSlot_of_ne d _ fun h => hj (by rw [h]),
    fun _ => rfl, rfl, rfl, ⟨rfl, rfl⟩, fun _ hx _ _ => hx⟩

theorem run_leaves (h : ∀ n ∈ d.engine.run.timer, n ≤ 10) : d.TaskLeaves .run d.serviceTick ∧ d.serviceTick.line = d.line := by
  have hrun (x : RunList) : d.TaskLeaves .run (d.withRun x) :=
    ⟨fun _ => rfl, rfl, fun h => absurd rfl h, fun _ => rfl, rfl, rfl, rfl, fun _ _ => rfl, fun _ => rfl, rfl, rfl, ⟨rfl, rfl⟩,
      fun _ hx _ _ => hx⟩
  unfold Device.serviceTick
  split
  · next n hn =>
    split
    · rw [if_pos (show n + 1 < Config.serviceWindow from Nat.lt_of_le_of_lt (Nat.succ_le_succ (h n hn)) (by decide))]
      exact ⟨hrun _, rfl⟩
    · exact ⟨taskLeaves_refl _ d, rfl⟩
  · exact ⟨taskLeaves_refl _ d, rfl⟩

theorem adoption_leaves (h : ∀ n ∈ d.engine.adoption.timer, 2 ≤ n) : d.TaskLeaves .adoption d.adoptionTick ∧ d.adoptionTick.line = d.line := by
  have hadopt (x : Adoption) : d.TaskLeaves .adoption (d.withAdoption x) :=
    ⟨fun _ => rfl, rfl, fun _ => rfl, fun h => absurd rfl h, rfl, rfl, rfl, fun _ _ => rfl, fun _ => rfl, rfl, rfl, ⟨rfl, rfl⟩,
      fun _ hx _ _ => hx⟩
  unfold Device.adoptionTick
  split
  · next n hn =>
    rw [if_neg (by have := h n hn; omega)]
    exact ⟨hadopt _, rfl⟩
  · exact ⟨taskLeaves_refl _ d, rfl⟩

theorem turnTick_of_no_tag (h : ∀ t, d.engine.ceding.turn ≠ .tag t) : d.turnTick = d := by
  unfold Device.turnTick
  split
  · next t ht => exact absurd ht (h t)
  · rfl

/-! ## How far a beacon period has come (R163) -/

/-- What is left of the start of a beacon period while some tasks are still to be done; of the records, one slot's is left out. -/
structure Device.Progress (s : Device) (slot : Option Nat) (l : List BeaconTask) (d : Device) : Prop where
  peers : .peerRoster ∈ l → d.peers = s.peers
  state : d.peers.state = s.peers.state
  run : .run ∈ l → d.engine.run = s.engine.run
  adoption : .adoption ∈ l → d.engine.adoption = s.engine.adoption
  ceding : d.engine.ceding = s.engine.ceding
  tags : d.engine.tagCounter = s.engine.tagCounter
  size : d.engine.table.length = s.engine.table.length
  records : ∀ j, slot ≠ some j → d.recordAt j = if .record j ∈ l then s.recordAt j else (s.recordAt j).map Record.counted
  claims : .claimMap ∈ l → d.claims = s.claims
  accounts : d.accounts = s.accounts
  notices : d.link.notices = s.link.notices
  setting : d.line.station = s.line.station ∧ d.line.mode = s.line.mode

variable {slot : Option Nat} {l : List BeaconTask}

theorem progress_start (s : Device) (slot : Option Nat) (h : ∀ j, s.recordAt j ≠ none → .record j ∈ l) : s.Progress slot l s where
  peers _ := rfl
  state := rfl
  run _ := rfl
  adoption _ := rfl
  ceding := rfl
  tags := rfl
  size := rfl
  records j _ := by
    split
    · rfl
    · next hj =>
      have hnone : s.recordAt j = none := by
        by_contra hne
        exact hj (h j hne)
      rw [hnone]
      rfl
  claims _ := rfl
  accounts := rfl
  notices := rfl
  setting := ⟨rfl, rfl⟩

/-- A task done takes the period on, when its own record counts. -/
theorem Device.Progress.step (h : s.Progress slot (t :: l) d) (hn : t ∉ l) (hl : d.TaskLeaves t e)
    (hr : ∀ j, t = .record j → slot ≠ some j → e.recordAt j = (d.recordAt j).map Record.counted) : s.Progress slot l e where
  peers hm := (hl.peers fun ht => hn (ht ▸ hm)).trans (h.peers (List.mem_cons_of_mem _ hm))
  state := hl.state.trans h.state
  run hm := (hl.run fun ht => hn (ht ▸ hm)).trans (h.run (List.mem_cons_of_mem _ hm))
  adoption hm := (hl.adoption fun ht => hn (ht ▸ hm)).trans (h.adoption (List.mem_cons_of_mem _ hm))
  ceding := hl.ceding.trans h.ceding
  tags := hl.tags.trans h.tags
  size := hl.size.trans h.size
  records j hj := by
    by_cases ht : t = .record j
    · subst ht
      rw [hr j rfl hj, h.records j hj, if_pos List.mem_cons_self, if_neg hn]
    · rw [hl.records j ht, h.records j hj]
      simp [Ne.symm ht]
  claims hm := (hl.claims fun ht => hn (ht ▸ hm)).trans (h.claims (List.mem_cons_of_mem _ hm))
  accounts := hl.accounts.trans h.accounts
  notices := hl.notices.trans h.notices
  setting := ⟨hl.setting.1.trans h.setting.1, hl.setting.2.trans h.setting.2⟩

end Sys2Proof.Machine
end

section
/-! PROOF. A beacon period in which nothing is due but one task (R163). -/

namespace Sys2Proof.Machine

set_option Elab.async false

variable {d e s : Device} {i j n : Nat} {r q : Record} {st : Station} {c : Cell} {t x : BeaconTask} {slot : Option Nat} {l : List BeaconTask}
  {o : BeaconOrder}

/-! ## No request waits (R57) -/

/-- No record waits for a cell. -/
def Device.NobodyWaits (d : Device) : Prop :=
  ∀ j r, d.recordAt j = some r → r.state = .giver .staking → r.request = none ∨ r.request = some .contesting

theorem Device.NobodyWaits.waitsOn (h : d.NobodyWaits) (c : Cell) (j : Nat) : d.waitsOn c isBlockedOrOutranked j = false := by
  refine Bool.eq_false_iff.mpr fun hw => ?_
  obtain ⟨r, w, hr, hst, -, hw, hp⟩ := waitsOn_iff.mp hw
  rcases h j r hr hst with hn | hn <;> rw [hn] at hw <;> cases hw
  cases hp

theorem Device.NobodyWaits.retryAll (h : d.NobodyWaits) : d.retryAll = d := by
  refine forSlots_keeps (Q := fun e => e = d) (fun e j he => ?_) rfl
  subst he
  refine if_neg fun hw => ?_
  obtain ⟨r, hr, hp⟩ := recordIs_iff.mp hw
  rw [Bool.and_eq_true, beq_iff_eq] at hp
  rcases h j r hr hp.1 with hn | hn <;> rw [hn] at hp <;> cases hp.2

/-! ## A task with nothing due -/

section Quiet

variable (hs : s.Sound) (hdue : s.NothingDueBut slot) (hp : s.Progress slot (t :: l) d)
include hs hdue hp

theorem progress_noneExpires (ht : t = .peerRoster) : d.NoneExpires := by
  have hpeers : d.peers = s.peers := hp.peers (ht ▸ List.mem_cons_self)
  refine ⟨by rw [hpeers]; exact hdue.silence, by rw [hpeers]; exact hdue.join, by rw [hpeers]; exact hdue.roster, ?_⟩
  rw [hpeers]
  refine List.pairwise_map.mpr (hs.peers.ordered.imp fun hlt heq => ?_)
  rw [heq] at hlt
  exact Nat.lt_irrefl _ hlt

/-- R52, R60, R67: the claim map counts, and the waiting requests follow. -/
theorem progress_claimMap (ht : t = .claimMap)
    (hw : ∀ c ∈ (s.claims.entries.filter Claim.agesOut).map fun x => x.cell, ∀ j, d.waitsOn c isBlockedOrOutranked j = false)
    (order : List Cell) : d.claimMapBeacon order = (d.withEntries s.countedClaims).retryAll := by
  have hclaims : d.claims = s.claims := hp.claims (ht ▸ List.mem_cons_self)
  have hsound : d.claims.Sound s.line.station := by rw [hclaims]; exact hs.claims
  have hcount : d.countedClaims = s.countedClaims := by
    unfold Device.countedClaims
    rw [hclaims]
  rw [← hclaims] at hw
  rw [← hcount]
  refine claimMapBeacon_counts hsound (fun x hx => ?_) hw order
  rw [hclaims] at hx
  exact ⟨fun o ho => (hdue.stakes x hx o ho).1, fun o ho => (hdue.stakes x hx o ho).2⟩

omit hs in
theorem progress_record (ht : t = .record j) (hslot : slot ≠ some j) :
    d.TaskLeaves (.record j) (d.recordTick j) ∧ (d.recordTick j).recordAt j = (d.recordAt j).map Record.counted ∧
      (d.recordTick j).line = d.line := by
  have hsame := hp.records j hslot
  rw [if_pos (ht ▸ List.mem_cons_self)] at hsame
  cases hr : s.recordAt j with
  | none =>
    rw [recordTick_of_none (hsame.trans hr), hsame, hr]
    exact ⟨taskLeaves_refl _ d, rfl, rfl⟩
  | some r =>
    have hrd := hsame.trans hr
    rw [recordTick_of_nothingDue hrd (hdue.records j r hr hslot), hrd]
    exact ⟨setSlot_leaves .., recordAt_setSlot_self d _ (recordAt_lt d hrd), rfl⟩

/-- R163: a task with nothing due. -/
theorem beaconTask_quiet (hself : ∀ j, t = .record j → slot = some j → d.beaconTask o t = d) (hw : t = .claimMap → d.NobodyWaits) :
    d.TaskLeaves t (d.beaconTask o t) ∧
      (∀ j, t = .record j → slot ≠ some j → (d.beaconTask o t).recordAt j = (d.recordAt j).map Record.counted) ∧
      (d.beaconTask o t).line.queue.length ≤ d.line.queue.length + if t = .peerRoster then 1 else 0 := by
  cases t with
  | linePort =>
    rw [beaconTask_linePort]
    exact ⟨linePort_leaves d, (fun _ h => nomatch h), Nat.le_refl _⟩
  | peerRoster =>
    rw [beaconTask_peerRoster]
    obtain ⟨hl, hq⟩ := peerRoster_leaves (progress_noneExpires hs hdue hp rfl) o.stations
    exact ⟨hl, (fun _ h => nomatch h), hq⟩
  | claimMap =>
    rw [beaconTask_claimMap, progress_claimMap hs hdue hp rfl (fun c _ j => (hw rfl).waitsOn c j)]
    have hsame : (d.withEntries s.countedClaims).retryAll = d.withEntries s.countedClaims :=
      Device.NobodyWaits.retryAll (d := d.withEntries s.countedClaims) (hw rfl)
    rw [hsame]
    exact ⟨claims_leaves .., (fun _ h => nomatch h), Nat.le_refl _⟩
  | record j =>
    by_cases hslot : slot = some j
    · rw [hself j rfl hslot]
      exact ⟨taskLeaves_refl _ d, fun k hk hne => absurd (BeaconTask.record.inj hk ▸ hslot) hne, Nat.le_refl _⟩
    · obtain ⟨hl, hr, hline⟩ := progress_record hdue hp rfl hslot
      rw [beaconTask_record]
      exact ⟨hl, fun k hk _ => BeaconTask.record.inj hk ▸ hr, by rw [hline]; exact Nat.le_refl _⟩
  | run =>
    have hrun : d.engine.run = s.engine.run := hp.run List.mem_cons_self
    obtain ⟨hl, hline⟩ := run_leaves (d := d) (by rw [hrun]; exact hdue.run)
    rw [beaconTask_service]
    exact ⟨hl, (fun _ h => nomatch h), (congrArg (fun l : LinePort => l.queue.length) hline).le⟩
  | adoption =>
    have hadopt : d.engine.adoption = s.engine.adoption := hp.adoption List.mem_cons_self
    obtain ⟨hl, hline⟩ := adoption_leaves (d := d) (by rw [hadopt]; exact hdue.adoption)
    rw [beaconTask_adopting]
    exact ⟨hl, (fun _ h => nomatch h), (congrArg (fun l : LinePort => l.queue.length) hline).le⟩
  | ceding =>
    rw [beaconTask_ceding, turnTick_of_no_tag (by rw [hp.ceding]; exact hdue.ceding)]
    exact ⟨taskLeaves_refl _ d, (fun _ h => nomatch h), Nat.le_refl _⟩

end Quiet

/-! ## One task with something due -/

theorem mem_beaconTasks_record (hlen : s.engine.table.length = Config.slotCount) (j : Nat) (hj : s.recordAt j ≠ none) :
    BeaconTask.record j ∈ beaconTasks := by
  obtain ⟨r, hr⟩ := Option.ne_none_iff_exists'.mp hj
  have hlt : j < 16 := Nat.lt_of_lt_of_eq (recordAt_lt s hr) hlen
  have hslot : j ∈ slotList := List.mem_range.mpr hlt
  simp [beaconTasks, hslot]

/-- R163: a part where one task alone has something due; what it does (`F`) stands at the end of the period, whatever the order. -/
theorem beaconPeriod_due {B F : Device → Prop} (hs : s.Sound) (hdue : s.NothingDueBut slot) (hx : x ∈ beaconTasks)
    (hself : ∀ t d, t ≠ x → B d ∨ F d → ∀ j, t = .record j → slot = some j → d.beaconTask o t = d)
    (hwait : ∀ l d, .claimMap ≠ x → s.Progress slot (.claimMap :: l) d → B d ∨ F d → d.NobodyWaits)
    (hkeep : ∀ t (d e : Device), t ≠ x → d.TaskLeaves t e → (∀ j, slot = some j → e.recordAt j = d.recordAt j) →
      (B d → B e) ∧ (F d → F e))
    (hact : ∀ l d, s.Progress slot (x :: l) d → x ∉ l → B d → d.line.queue.length ≤ s.line.queue.length + 1 →
      F (d.beaconTask o x) ∧ s.Progress slot l (d.beaconTask o x))
    (hB : B s) : F (s.beaconPeriod o) ∧ s.Progress slot [] (s.beaconPeriod o) := by
  have hperm := orderBy_perm o.tasks beaconTasks
  have hfold : ∀ (l : List BeaconTask) (d : Device), l.Nodup → s.Progress slot l d →
      (x ∈ l → B d ∧ d.line.queue.length ≤ s.line.queue.length + if BeaconTask.peerRoster ∈ l then 0 else 1) → (x ∉ l → F d) →
      F (l.foldl (Device.beaconTask o) d) ∧ s.Progress slot [] (l.foldl (Device.beaconTask o) d) := by
    intro l
    induction l with
    | nil => exact fun d _ hp _ hF => ⟨hF (by simp), hp⟩
    | cons t l ih =>
      intro d hl hp hbefore hafter
      obtain ⟨hno, hl⟩ := List.nodup_cons.mp hl
      rw [List.foldl_cons]
      by_cases ht : t = x
      · subst ht
        obtain ⟨hBd, hq⟩ := hbefore List.mem_cons_self
        obtain ⟨hF, hpe⟩ := hact l d hp hno hBd (hq.trans (by split <;> omega))
        exact ih _ hl hpe (fun h => absurd h hno) fun _ => hF
      · have hBF : B d ∨ F d := by
          by_cases hxl : x ∈ l
          · exact .inl (hbefore (List.mem_cons_of_mem _ hxl)).1
          · exact .inr (hafter fun h => (List.mem_cons.mp h).elim (fun h => ht h.symm) hxl)
        have hsame := hself t d ht hBF
        obtain ⟨hleaves, hrec, hq⟩ := beaconTask_quiet hs hdue hp (o := o) hsame
          fun hc => hwait l d (hc ▸ ht) (hc ▸ hp) hBF
        have hslot (j : Nat) (hj : slot = some j) : (d.beaconTask o t).recordAt j = d.recordAt j := by
          by_cases hrj : t = .record j
          · rw [hsame j hrj hj]
          · exact hleaves.records j hrj
        obtain ⟨hBk, hFk⟩ := hkeep t d _ ht hleaves hslot
        refine ih _ hl (hp.step hno hleaves hrec) (fun hxl => ?_) fun hxl => ?_
        · obtain ⟨hBd, hqd⟩ := hbefore (List.mem_cons_of_mem _ hxl)
          refine ⟨hBk hBd, hq.trans ?_⟩
          by_cases hpr : t = .peerRoster
          · subst hpr
            rw [if_pos List.mem_cons_self] at hqd
            rw [if_pos rfl, if_neg hno]
            omega
          · rw [if_neg hpr]
            simpa [Ne.symm hpr] using hqd
        · exact hFk (hafter fun h => (List.mem_cons.mp h).elim (fun h => ht h.symm) hxl)
  refine hfold _ s (hperm.nodup_iff.mpr beaconTasks_nodup) (progress_start s slot fun j hj => ?_) (fun _ => ⟨hB, Nat.le_add_right ..⟩) fun h => ?_
  · exact hperm.mem_iff.mpr (mem_beaconTasks_record hs.engine.slots j hj)
  · exact absurd (hperm.mem_iff.mpr hx) h

end Sys2Proof.Machine
end

section
/-! PROOF. A beacon period in which nothing is due but in one record (R101, R121, R163). -/

namespace Sys2Proof.Machine

set_option Elab.async false

variable {d e s : Device} {i j n : Nat} {r q : Record} {st : Station} {c : Cell} {t x : BeaconTask} {slot : Option Nat} {l : List BeaconTask}
  {o : BeaconOrder}

/-! ## Nothing due (R52, R60, R67, R96, R115, R117) -/

/-- R57: no record but perhaps that of the slot waits. -/
theorem progress_idle (hdue : s.NothingDueBut slot) (hp : s.Progress slot l d) (hj : slot ≠ some j) (hr : d.recordAt j = some r)
    (hst : r.state = .giver .staking) : r.request = none ∨ r.request = some .contesting := by
  have hsame := (hp.records j hj).symm.trans hr
  have hidle (q : Record) (hq : s.recordAt j = some q) (hst : q.state = .giver .staking) :
      q.request = none ∨ q.request = some .contesting := by
    have h := (hdue.records j q hq hj).2
    rwa [hst] at h
  split at hsame
  · exact hidle r hsame hst
  · obtain ⟨q, hq, rfl⟩ := Option.map_eq_some_iff.mp hsame
    obtain ⟨hstate, -, -, hrequest⟩ := counted_rest q
    rw [hstate] at hst
    rw [hrequest]
    exact hidle q hq hst

theorem progress_nobodyWaits (hdue : s.NothingDueBut slot) (hp : s.Progress slot l d)
    (hslot : ∀ j r, slot = some j → d.recordAt j = some r → r.state ≠ .giver .staking) : d.NobodyWaits := by
  intro j r hr hst
  by_cases hj : slot = some j
  · exact absurd hst (hslot j r hj hr)
  · exact progress_idle hdue hp hj hr hst

/-- R163: with nothing due at all, the claim map and the records count. -/
theorem beaconPeriod_counted (hs : s.Sound) (hdue : s.NothingDueBut none) :
    (s.beaconPeriod o).claims = { s.claims with entries := s.countedClaims } ∧ s.Progress none [] (s.beaconPeriod o) := by
  refine beaconPeriod_due (x := .claimMap) (B := fun _ => True) (F := fun d => d.claims = { s.claims with entries := s.countedClaims })
    hs hdue (by decide) (fun _ _ _ _ _ _ h => nomatch h) (fun _ _ h => absurd rfl h) (fun t d e ht hl _ => ⟨id, fun h => ?_⟩)
    (fun l d hp hn _ _ => ?_) trivial
  · exact (hl.claims ht).trans h
  · have hnone : d.NobodyWaits := progress_nobodyWaits hdue hp fun _ _ h => nomatch h
    have hsame : (d.withEntries s.countedClaims).retryAll = d.withEntries s.countedClaims :=
      Device.NobodyWaits.retryAll (d := d.withEntries s.countedClaims) hnone
    rw [beaconTask_claimMap, progress_claimMap hs hdue hp rfl fun c _ j => hnone.waitsOn c j, hsame]
    refine ⟨?_, hp.step hn (claims_leaves ..) fun _ h => nomatch h⟩
    show { d.claims with entries := s.countedClaims } = _
    rw [hp.claims List.mem_cons_self]

/-- R163: the table when every task is done. -/
theorem progress_table (hp : s.Progress none [] d) : d.engine.table = s.engine.table.map fun x => x.map Record.counted := by
  refine List.ext_getElem (hp.size.trans (List.length_map _).symm) fun j hd hm => ?_
  have hj : j < s.engine.table.length := hp.size ▸ hd
  have hsame := hp.records j (fun h => nomatch h)
  rw [if_neg List.not_mem_nil] at hsame
  unfold Device.recordAt at hsame
  rw [List.getElem?_eq_getElem hd, List.getElem?_eq_getElem hj] at hsame
  rw [List.getElem_map]
  exact hsame

/-! ## What is due in one record -/

/-- What the task of a record with something due starts from. -/
structure Device.Due (s : Device) (i : Nat) (r : Record) (d : Device) : Prop where
  record : d.recordAt i = some r
  accounts : d.accounts = s.accounts
  setting : d.line.station = s.line.station ∧ d.line.mode = s.line.mode
  queue : d.line.queue.length ≤ s.line.queue.length + 1

/-- R163: what the task of a record does stands at the end of the period, with the frame it queued. -/
theorem beaconPeriod_record {Q : Record → Prop} {K : Device → Prop} (hs : s.Sound) (hdue : s.NothingDueBut (some i)) (hr : s.recordAt i = some r)
    (hst : r.state ≠ .giver .staking) (hQ : ∀ q, Q q → q.state ≠ .giver .staking) (hK : ∀ t (d e : Device), d.TaskLeaves t e → K d → K e)
    (hact : ∀ d, s.Due i r d →
      d.TaskLeaves (.record i) (d.recordTick i) ∧ (∃ q, (d.recordTick i).recordAt i = some q ∧ Q q) ∧ K (d.recordTick i)) :
    (∃ q, (s.beaconPeriod o).recordAt i = some q ∧ Q q) ∧ K (s.beaconPeriod o) := by
  refine (beaconPeriod_due (x := .record i) (B := fun d => d.recordAt i = some r)
    (F := fun d => (∃ q, d.recordAt i = some q ∧ Q q) ∧ K d) hs hdue
    (mem_beaconTasks_record hs.engine.slots i (by rw [hr]; exact Option.some_ne_none r))
    (fun t d ht _ j hj hi => absurd (hj.trans (congrArg BeaconTask.record (Option.some.inj hi).symm)) ht)
    (fun l d _ hp hBF => progress_nobodyWaits hdue hp ?_) (fun t d e _ hl hsame => ?_) (fun l d hp hn hB hq => ?_) hr).1
  · rintro j p ⟨⟩ hj
    rcases hBF with hB | ⟨⟨q, hq, hqq⟩, -⟩
    · obtain rfl := Option.some.inj (hB.symm.trans hj)
      exact hst
    · obtain rfl := Option.some.inj (hq.symm.trans hj)
      exact hQ _ hqq
  · refine ⟨(hsame i rfl).trans, fun ⟨⟨q, hq, hqq⟩, hk⟩ => ⟨⟨q, (hsame i rfl).trans hq, hqq⟩, hK t d e hl hk⟩⟩
  · rw [beaconTask_record]
    obtain ⟨hl, hF, hk⟩ := hact d ⟨hB, hp.accounts, hp.setting, hq⟩
    exact ⟨⟨hF, hk⟩, hp.step hn hl fun j hj hne => absurd (congrArg some (BeaconTask.record.inj hj)) hne⟩

/-! ### A frame sent again (R101, R121) -/

/-- A frame of a block, but a PRESENCE, stays in the queue. -/
theorem queues_leaves {y : Sender} {b : Body} (hy : y ≠ .relay) (hb : bodyIsPresence b = false) (hl : d.TaskLeaves t e) (h : d.queues y b) :
    e.queues y b := by
  obtain ⟨f, hf, rfl, rfl⟩ := h
  exact ⟨f, hl.sent f hf hy hb, rfl, rfl⟩

theorem sentRecord_leaves (d : Device) (i : Nat) (q : Record) (y : Sender) (b : Body) :
    d.TaskLeaves (.record i) { d with line := d.sent y b, engine := d.tableWith i q } := by
  have hset : d.line.SameSetting (d.sent y b) := joinTail_setting ..
  have h := setSlot_leaves d i q
  refine { h with setting := ⟨hset.station, hset.mode_eq⟩, sent := fun x hx _ _ => ?_ }
  show x ∈ (d.sent y b).queue
  rw [Device.sent, joinTail_queue]
  exact List.mem_append_left _ hx

theorem Device.Due.canSend (h : s.Due i r d) (hmode : s.line.mode = .normal) (hq : s.line.queue.length ≤ 6) : d.canSend := by
  refine ⟨h.setting.2.trans hmode, ?_⟩
  have hlen := h.queue
  show d.line.queue.length < 8
  omega

section Setdown

variable (hst : r.state = .giver .placed) (howed : r.setdownOwed = true) (hlifted : r.lifted = .none)
include hst howed hlifted

omit hlifted in
/-- R101: the task of a PLACED record whose SETDOWN is owed sends it. -/
theorem recordTick_setdown (hr : d.recordAt i = some r)
    (hq : ((d.setSlot i (some { r with setdownOwed := false })).sendSetdown i).recordAt i = some q) (hqs : q.state = .giver .placed)
    (hql : q.lifted = .none) : d.recordTick i = (d.setSlot i (some { r with setdownOwed := false })).sendSetdown i := by
  have htick : d.setdownTick i = (d.setSlot i (some { r with setdownOwed := false })).sendSetdown i := by
    have hdue : d.recordIs i (fun r => r.state == .giver .placed && r.setdownOwed) = true := by
      rw [recordIs_of_record hr, hst, howed]
      rfl
    unfold Device.setdownTick
    rw [if_pos hdue, modRecord_of_record hr]
  unfold Device.recordTick
  rw [offerTick_of_other hr (by rw [hst]; simp), htick, answerTick_of_other hq (by rw [hqs]; simp),
    agreedTick_of_other hq (by rw [hqs]; simp), liftedTick_of_other hq (by rw [hql]; simp)]

theorem setdown_sent (h : s.Due i r d) (hmode : s.line.mode = .normal) (hlen : s.line.queue.length ≤ 6) :
    d.TaskLeaves (.record i) (d.recordTick i) ∧
      (∃ q, (d.recordTick i).recordAt i = some q ∧ ∃ seq, q = { r with setdownOwed := false, setdownFrame := some seq }) ∧
      (d.recordTick i).queues .engine (.setdown
        { tag := r.tag, cell := r.cell, bin := r.bin, e := BitVec.ofNat 16 (accountE (s.accountAt (.slot i))) }) := by
  have hlt := recordAt_lt d h.record
  let p : Record := { r with setdownOwed := false }
  let q : Record := { r with setdownOwed := false, setdownFrame := some d.line.seqCounter }
  have hp : (d.setSlot i (some p)).recordAt i = some p := recordAt_setSlot_self d _ hlt
  have hsend := sendSetdown_of_room (d := d.setSlot i (some p)) (h.canSend hmode hlen) hp hst
  have htable : (d.setSlot i (some p)).tableWith i q = d.tableWith i q := by
    show ({ d.engine with table := (d.engine.table.set i (some p)).set i (some q) } : Engine) = _
    rw [List.set_set]
    rfl
  have he : (d.setSlot i (some p)).slotE i = accountE (s.accountAt (.slot i)) := by
    show accountE (d.accountAt (.slot i)) = _
    unfold Device.accountAt
    rw [h.accounts]
  rw [he] at hsend
  have hsent : (d.setSlot i (some p)).sendSetdown i = { d with
      line := d.sent .engine (.setdown
        { tag := r.tag, cell := r.cell, bin := r.bin, e := BitVec.ofNat 16 (accountE (s.accountAt (.slot i))) }),
      engine := d.tableWith i q } :=
    hsend.trans (congrArg (fun g => ({ d with line := _, engine := g } : Device)) htable)
  have hq : ((d.setSlot i (some p)).sendSetdown i).recordAt i = some q := by
    rw [hsent]
    exact recordAt_setSlot_self d (some q) hlt
  rw [recordTick_setdown hst howed h.record hq hst hlifted]
  refine ⟨?_, ⟨q, hq, _, rfl⟩, ?_⟩
  · rw [hsent]
    exact sentRecord_leaves ..
  · rw [hsent]
    exact mem_sent ..

theorem setdown_owed (h : s.Due i r d) (hmode : s.line.mode = .mute) :
    d.TaskLeaves (.record i) (d.recordTick i) ∧
      ∃ q, (d.recordTick i).recordAt i = some q ∧ q = { r with setdownOwed := true, setdownFrame := none } := by
  have hlt := recordAt_lt d h.record
  let p : Record := { r with setdownOwed := false }
  let q : Record := { r with setdownOwed := true, setdownFrame := none }
  have hp : (d.setSlot i (some p)).recordAt i = some p := recordAt_setSlot_self d _ hlt
  have hsent : (d.setSlot i (some p)).sendSetdown i = d.setSlot i (some q) := by
    simp only [Device.sendSetdown, hp]
    rw [offer_of_mute (d := d.setSlot i _) (h.setting.2.trans hmode)]
    dsimp only
    rw [Device.setdownDropped, modRecord_of_record hp, if_pos hst]
    show d.withTable ((d.engine.table.set i (some p)).set i (some q)) = _
    rw [List.set_set]
    rfl
  have hq : ((d.setSlot i (some p)).sendSetdown i).recordAt i = some q := by
    rw [hsent]
    exact recordAt_setSlot_self d (some q) hlt
  rw [recordTick_setdown hst howed h.record hq hst hlifted]
  refine ⟨?_, q, hq, rfl⟩
  rw [hsent]
  exact setSlot_leaves ..

end Setdown

section Lifted

variable (hst : r.state = .taker .ended) (howed : r.lifted = .owed)
include hst howed

/-- R121: the task of an ended record whose LIFTED is owed sends it. -/
theorem recordTick_lifted (hr : d.recordAt i = some r) : d.recordTick i = d.sendLifted i := by
  have hdue : d.recordIs i (fun r => r.lifted == .owed) = true := by
    rw [recordIs_of_record hr, howed]
    rfl
  unfold Device.recordTick
  rw [offerTick_of_other hr (by rw [hst]; simp), setdownTick_of_other hr (by rw [hst]; simp), answerTick_of_other hr (by rw [hst]; simp),
    agreedTick_of_other hr (by rw [hst]; simp), Device.liftedTick, if_pos hdue]

theorem lifted_sent (h : s.Due i r d) (hmode : s.line.mode = .normal) (hlen : s.line.queue.length ≤ 6) :
    d.TaskLeaves (.record i) (d.recordTick i) ∧
      (∃ q, (d.recordTick i).recordAt i = some q ∧ ∃ seq, q = { r with lifted := .awaited, liftedFrame := some seq }) ∧
      (d.recordTick i).queues .engine (.lifted { tag := r.tag, taker := s.line.station, bin := r.bin }) := by
  rw [recordTick_lifted hst howed h.record, sendLifted_of_room (h.canSend hmode hlen) h.record, h.setting.1]
  exact ⟨sentRecord_leaves .., ⟨_, recordAt_setSlot_self d _ (recordAt_lt d h.record), _, rfl⟩, mem_sent ..⟩

theorem lifted_owed (h : s.Due i r d) (hmode : s.line.mode = .mute) :
    d.TaskLeaves (.record i) (d.recordTick i) ∧
      ∃ q, (d.recordTick i).recordAt i = some q ∧ q = { r with lifted := .owed, liftedFrame := none } := by
  rw [recordTick_lifted hst howed h.record, sendLifted_of_mute (h.setting.2.trans hmode) h.record]
  exact ⟨setSlot_leaves .., _, recordAt_setSlot_self d _ (recordAt_lt d h.record), rfl⟩

end Lifted

end Sys2Proof.Machine
end

section
/-! PROOF. A beacon period in which one request alone waits for its cell (R56, R57, R163). -/

namespace Sys2Proof.Machine

set_option Elab.async false

variable {d e s : Device} {i j n : Nat} {r q : Record} {a : Account} {l : List BeaconTask} {o : BeaconOrder} {w : RequestStatus} {x y : Claim}

/-! ## The entries counted -/

theorem claimCounted_rest (gone : List Claim) (x : Claim) :
    (x.counted gone).cell = x.cell ∧ (x.counted gone).own.isSome = x.own.isSome := by
  unfold Claim.counted
  split <;> simp [*]

theorem countedClaims_from (hy : y ∈ s.countedClaims) : ∃ x ∈ s.claims.entries, x.cell = y.cell := by
  obtain ⟨x, hx, rfl⟩ := List.mem_map.mp hy
  exact ⟨x, (List.mem_filter.mp hx).1, (claimCounted_rest _ x).1.symm⟩

theorem countedClaims_length : s.countedClaims.length ≤ s.claims.entries.length :=
  (List.length_map ..).trans_le (List.length_filter_le ..)

theorem countedClaims_ownCount : (d.withEntries s.countedClaims).ownCount ≤ s.ownCount := by
  have hcells := ownCells_map (f := Claim.counted (s.claims.entries.filter Claim.agesOut)) (fun x => (claimCounted_rest _ x).1)
    (fun x => (claimCounted_rest _ x).2) (s.claims.entries.filter fun x => !x.agesOut)
  have hlen := congrArg List.length hcells
  rw [List.length_map, List.length_map] at hlen
  exact hlen.trans_le (List.filter_sublist.filter _).length_le

/-! ## The retries of a beacon period (R57) -/

/-- R57: a request that is tried again. -/
def Record.retried (r : Record) : Bool := r.state == .giver .staking && r.request.any isWaiting

theorem retryAll_eq (d : Device) : d.retryAll = forSlots (fun i d => if d.recordIs i Record.retried then d.stakingAttempt i else d) d := by
  refine congrArg (forSlots · d) (funext fun i => funext fun e => if_congr ?_ rfl rfl)
  rw [recordIs_iff, recordIs_iff]
  refine exists_congr fun r => and_congr_right fun _ => ?_
  unfold Record.retried
  cases r.request <;> exact Iff.rfl

/-! ## The one request that waits (R56, R57) -/

/-- The record whose request alone waits, at a station that can stake its cell. -/
structure Device.Stakeable (s : Device) (i : Nat) (r : Record) (a : Account) : Prop where
  staking : r.state = .giver .staking
  waits : ∃ w, r.request = some w ∧ w ≠ .contesting
  lifted : r.lifted = .none
  active : s.peers.state = .active
  mode : s.line.mode = .normal
  queue : s.line.queue.length ≤ 6
  hoist : s.accounts.hoist = some a
  bin : a.bin = r.bin
  free : ∀ x ∈ s.claims.entries, x.cell ≠ r.cell
  count : s.ownCount < 4
  room : s.claims.entries.length < 48

/-- The record with its cell staked. -/
def Record.staked (r : Record) (key : Nat) : Record := { r with frozenKey := some key, request := some .contesting }

/-- The part with the cell of a record staked. -/
structure Device.Staked (i : Nat) (r : Record) (a : Account) (d : Device) : Prop where
  record : d.recordAt i = some (r.staked a.stakeKey)
  claim : ∃ x, d.ownClaim r.cell = some x ∧ x.tag = r.tag ∧ x.key = a.stakeKey ∧ x.phase = .contested ∧ ownUse x = some (.slot i)
  frame : d.queues .claimMap (.stake { cell := r.cell, tag := r.tag, key := BitVec.ofNat 16 a.stakeKey })

theorem recordTick_of_staking (hr : d.recordAt i = some r) (hst : r.state = .giver .staking) (hl : r.lifted = .none) : d.recordTick i = d := by
  unfold Device.recordTick
  rw [offerTick_of_other hr (by rw [hst]; simp), setdownTick_of_other hr (by rw [hst]; simp), answerTick_of_other hr (by rw [hst]; simp),
    agreedTick_of_other hr (by rw [hst]; simp), liftedTick_of_other hr (by rw [hl]; simp)]

theorem Device.Staked.leaves {t : BeaconTask} (h : d.Staked i r a) (ht : t ≠ .claimMap) (hl : d.TaskLeaves t e)
    (hr : e.recordAt i = d.recordAt i) : e.Staked i r a := by
  obtain ⟨x, hx, hrest⟩ := h.claim
  refine ⟨hr.trans h.record, ⟨x, ?_, hrest⟩, queues_leaves (by decide) rfl hl h.frame⟩
  unfold Device.ownClaim at hx ⊢
  rw [hl.claims ht]
  exact hx

theorem Device.Progress.setSlot (hp : s.Progress (some i) l d) (q : Record) : s.Progress (some i) l (d.setSlot i (some q)) :=
  { hp with
    size := List.length_set.trans hp.size
    records := fun j hj => (recordAt_setSlot_of_ne d _ fun h => hj (congrArg some h)).trans (hp.records j hj) }

/-- A stake made with its entries counted: the frame, the record and the claim map. -/
def Device.stakedAt (d : Device) (i : Nat) (q : Record) (y : Claim) (es : List Claim) (b : Body) : Device :=
  { d with line := d.sent .claimMap b, engine := d.tableWith i q, claims := { d.claims with entries := insertClaim y es } }

theorem stakedAt_progress (hp : s.Progress (some i) (.claimMap :: l) d) (hn : .claimMap ∉ l) (q : Record) (y : Claim) (es : List Claim)
    (b : Body) : s.Progress (some i) l (d.stakedAt i q y es b) := by
  have hset : d.line.SameSetting (d.sent .claimMap b) := joinTail_setting ..
  have hl : d.TaskLeaves .claimMap (({ d with line := d.sent .claimMap b } : Device).withEntries (insertClaim y es)) :=
    { claims_leaves d (insertClaim y es) with
      setting := ⟨hset.station, hset.mode_eq⟩
      sent := fun x hx _ _ => by
        show x ∈ (d.sent .claimMap b).queue
        rw [Device.sent, joinTail_queue]
        exact List.mem_append_left _ hx }
  exact (hp.step hn hl fun _ h => nomatch h).setSlot q

section Waiting

variable (h : s.Stakeable i r a) (hdue : s.NothingDueBut (some i)) (hp : s.Progress (some i) (.claimMap :: l) d) (hr : d.recordAt i = some r)
include h hdue hp hr

omit hdue in
/-- R56: the attempt of the record that waits stakes its cell. -/
theorem stakingAttempt_staked (hq : d.line.queue.length ≤ s.line.queue.length + 1) :
    ∃ y : Claim, y.cell = r.cell ∧ y.own.isSome = true ∧ y.tag = r.tag ∧ y.key = a.stakeKey ∧ y.phase = .contested ∧
      ownUse y = some (.slot i) ∧
      (d.withEntries s.countedClaims).stakingAttempt i =
        d.stakedAt i (r.staked a.stakeKey) y s.countedClaims (.stake { cell := r.cell, tag := r.tag, key := BitVec.ofNat 16 a.stakeKey }) := by
  let m : Device := d.withEntries s.countedClaims
  have hfree (y : Claim) (hy : y ∈ s.countedClaims) : y.cell ≠ r.cell := by
    obtain ⟨x, hx, hc⟩ := countedClaims_from hy
    exact hc ▸ h.free x hx
  have hrm : m.recordAt i = some r := hr
  have hown : m.ownClaim r.cell = none := ownClaim_eq_none (d := m) fun y hy _ => hfree y hy
  have hrivals : m.rivals r.cell = [] := List.filter_eq_nil_iff.mpr fun y hy => by simp [hfree y hy]
  have hkey : m.recordKey r = a.stakeKey := by
    have hhoist : m.accounts.hoist = some a := (congrArg Accounts.hoist hp.accounts).trans h.hoist
    simp only [Device.recordKey, hhoist, if_pos h.bin]
  have hsend : m.canSend := by
    have hlen := h.queue
    refine ⟨hp.setting.2.trans h.mode, ?_⟩
    show d.line.queue.length < 8
    omega
  have hstake := stakeCell_of_room (d := m) hrm (countedClaims_length.trans_lt h.room) hsend a.stakeKey
  refine ⟨{
      cell := r.cell, claimant := d.line.station, tag := r.tag, key := a.stakeKey, phase := .contested, age := 0,
      own := some { use := .slot i, outcome := some (.awaited d.line.seqCounter), settle := none, linger := none, rival := none } },
    rfl, rfl, rfl, rfl, rfl, rfl, ?_⟩
  show attempt (16 + 1) i m = _
  rw [attempt_of_free 16 hrm h.staking (hp.state.trans h.active) hown (countedClaims_ownCount.trans_lt h.count) hrivals (by rw [hkey, hstake]),
    hkey, hstake]
  rfl

/-- R57: the retries of a beacon period stake the cell of the one record that waits. -/
theorem retryAll_staked (hi : i < Config.slotCount) (hq : d.line.queue.length ≤ s.line.queue.length + 1) :
    ∃ y : Claim, y.cell = r.cell ∧ y.own.isSome = true ∧ y.tag = r.tag ∧ y.key = a.stakeKey ∧ y.phase = .contested ∧
      ownUse y = some (.slot i) ∧
      (d.withEntries s.countedClaims).retryAll =
        d.stakedAt i (r.staked a.stakeKey) y s.countedClaims (.stake { cell := r.cell, tag := r.tag, key := BitVec.ofNat 16 a.stakeKey }) := by
  obtain ⟨y, hc, ho, ht, hk, hph, hu, heq⟩ := stakingAttempt_staked h hp hr hq
  refine ⟨y, hc, ho, ht, hk, hph, hu, ?_⟩
  generalize (Body.stake { cell := r.cell, tag := r.tag, key := BitVec.ofNat 16 a.stakeKey }) = b at heq ⊢
  have hidle (e : Device) (j : Nat) (hj : j ≠ i) (he : e.recordAt j = d.recordAt j) : e.recordIs j Record.retried ≠ true := by
    intro hw
    obtain ⟨q, hq, hpq⟩ := recordIs_iff.mp hw
    have hne : some i ≠ some j := fun h => hj (Option.some.inj h).symm
    rw [Record.retried, Bool.and_eq_true, beq_iff_eq] at hpq
    rcases progress_idle hdue hp hne (he.symm.trans hq) hpq.1 with hn | hn <;> rw [hn] at hpq <;> cases hpq.2
  have hdoes : (d.withEntries s.countedClaims).recordIs i Record.retried = true := by
    obtain ⟨w, hw, hne⟩ := h.waits
    refine recordIs_iff.mpr ⟨r, hr, ?_⟩
    simp [Record.retried, hw, h.staking, isWaiting, hne]
  rw [retryAll_eq]
  refine forSlots_at (A := fun e => e = d.withEntries s.countedClaims)
    (B := fun e => e = d.stakedAt i (r.staked a.stakeKey) y s.countedClaims b) hi (fun e j hj he => ?_) (fun e he => ?_) (fun e j hj he => ?_) rfl
  · subst he
    exact if_neg (hidle (d.withEntries s.countedClaims) j hj rfl)
  · subst he
    exact (if_pos hdoes).trans heq
  · subst he
    exact if_neg (hidle (d.stakedAt i _ y _ b) j hj (recordAt_setSlot_of_ne d _ (Ne.symm hj)))

end Waiting

theorem stakedAt_staked (h : ∀ x ∈ s.claims.entries, x.cell ≠ r.cell) (hi : i < d.engine.table.length) (hc : y.cell = r.cell)
    (ho : y.own.isSome = true) (hy : y.tag = r.tag ∧ y.key = a.stakeKey ∧ y.phase = .contested ∧ ownUse y = some (.slot i)) :
    (d.stakedAt i (r.staked a.stakeKey) y s.countedClaims
      (.stake { cell := r.cell, tag := r.tag, key := BitVec.ofNat 16 a.stakeKey })).Staked i r a := by
  refine ⟨recordAt_setSlot_self d _ hi, ⟨y, find_insertClaim_self (by simp [hc, ho]) fun z hz => ?_, hy⟩, mem_sent ..⟩
  obtain ⟨x, hx, hcell⟩ := countedClaims_from hz
  have hne : z.cell ≠ r.cell := hcell ▸ h x hx
  simp [hne]

/-- R56, R57, R163: the one request of an ACTIVE station that waits stakes its free cell. -/
theorem beaconPeriod_staked (hs : s.Sound) (hdue : s.NothingDueBut (some i)) (hr : s.recordAt i = some r) (h : s.Stakeable i r a) :
    (s.beaconPeriod o).Staked i r a := by
  refine (beaconPeriod_due (x := .claimMap) (B := fun d => d.recordAt i = some r) (F := Device.Staked i r a) hs hdue (by decide)
    (fun t d _ hBF j ht hj => ?_) (fun _ _ h => absurd rfl h) (fun t d e ht hl hsame => ⟨(hsame i rfl).trans, fun hd => ?_⟩)
    (fun l d hp hn hB hq => ?_) hr).1
  · obtain rfl := Option.some.inj hj
    subst ht
    rw [beaconTask_record]
    rcases hBF with hB | hF
    · exact recordTick_of_staking hB h.staking h.lifted
    · exact recordTick_of_staking hF.record h.staking h.lifted
  · exact hd.leaves ht hl (hsame i rfl)
  · have hlt := recordAt_lt d hB
    have hi : i < Config.slotCount := hlt.trans_eq (hp.size.trans hs.engine.slots)
    have hw : ∀ c ∈ (s.claims.entries.filter Claim.agesOut).map (fun x => x.cell), ∀ j, d.waitsOn c isBlockedOrOutranked j = false := by
      intro c hc j
      obtain ⟨x, hx, rfl⟩ := List.mem_map.mp hc
      refine Bool.eq_false_iff.mpr fun hw => ?_
      obtain ⟨q, w, hq, hst, hcell, hw, hpw⟩ := waitsOn_iff.mp hw
      by_cases hj : j = i
      · subst hj
        obtain rfl := Option.some.inj (hB.symm.trans hq)
        exact h.free x (List.mem_filter.mp hx).1 hcell.symm
      · have hne : some i ≠ some j := fun h => hj (Option.some.inj h).symm
        rcases progress_idle hdue hp hne hq hst with hn | hn <;> rw [hn] at hw <;> cases hw
        cases hpw
    obtain ⟨y, hc, ho, ht, hk, hph, hu, heq⟩ := retryAll_staked h hdue hp hB hi hq
    rw [beaconTask_claimMap, progress_claimMap hs hdue hp rfl hw, heq]
    exact ⟨stakedAt_staked h.free hlt hc ho ⟨ht, hk, hph, hu⟩, stakedAt_progress hp hn ..⟩

end Sys2Proof.Machine
end

section
/-! PROOF. O35: a beacon period (R163). -/

namespace Sys2Proof.Machine

set_option Elab.async false

theorem exec_beaconPeriod {s : State} (hrun : s.power.state = .run) (order : BeaconOrder) :
    exec (.beaconPeriodExpiry order) s = .next (s.after (s.beaconPeriod order)) :=
  congrArg (fun d => Host.Outcome.next (s.after d)) (if_pos (by simp [Device.running, hrun]))

/-- Settles O35. -/
theorem beaconPeriodReachesEveryBlock : Obligations.BeaconPeriodReachesEveryBlock := by
  refine ⟨fun s order hrun => ⟨_, exec_beaconPeriod hrun order, beaconPeriod_counts s.toDevice order⟩, ?_, ?_, ?_⟩
  · intro s order n hrun hact hsend hnone hn h2 hroster hclaims hrecords htimer hadopt hturn
    rw [exec_beaconPeriod hrun, beaconPeriod_bare ⟨hclaims, hrecords, hroster, htimer, hadopt, hturn⟩ hact hsend hnone hn h2]
    rfl
  · intro s order hrun hs hdue
    obtain ⟨hclaims, hp⟩ := beaconPeriod_counted (o := order) hs hdue
    exact ⟨_, exec_beaconPeriod hrun order, hclaims, progress_table hp, hp.tags, hp.ceding, hp.accounts, hp.notices⟩
  · intro s order i r hrun hs hdue hr
    have hexec := exec_beaconPeriod hrun order
    refine ⟨fun hst howed hlifted => ⟨fun hmode hlen => ?_, fun hmode => ?_⟩,
      fun hst howed => ⟨fun hmode hlen => ?_, fun hmode => ?_⟩,
      fun w a hst hw hne hlifted hact hmode hlen ha hbin hfree hcount hroom => ?_⟩
    · obtain ⟨⟨_, hq, seq, rfl⟩, hqueue⟩ := beaconPeriod_record (o := order) hs hdue hr (by rw [hst]; simp)
        (Q := fun q => ∃ seq, q = { r with setdownOwed := false, setdownFrame := some seq })
        (fun q ⟨_, hq⟩ => by rw [hq, hst]; simp) (fun t d e hl => queues_leaves (by decide) rfl hl)
        fun d hd => setdown_sent hst howed hlifted hd hmode hlen
      exact ⟨_, seq, hexec, hq, hqueue⟩
    · obtain ⟨⟨_, hq, rfl⟩, -⟩ := beaconPeriod_record (o := order) (K := fun _ => True) hs hdue hr (by rw [hst]; simp)
        (Q := fun q => q = { r with setdownOwed := true, setdownFrame := none })
        (fun q hq => by rw [hq, hst]; simp) (fun _ _ _ _ h => h)
        fun d hd => (setdown_owed hst howed hlifted hd hmode).imp_right (⟨·, trivial⟩)
      exact ⟨_, hexec, hq⟩
    · obtain ⟨⟨_, hq, seq, rfl⟩, hqueue⟩ := beaconPeriod_record (o := order) hs hdue hr (by rw [hst]; simp)
        (Q := fun q => ∃ seq, q = { r with lifted := .awaited, liftedFrame := some seq })
        (fun q ⟨_, hq⟩ => by rw [hq, hst]; simp) (fun t d e hl => queues_leaves (by decide) rfl hl)
        fun d hd => lifted_sent hst howed hd hmode hlen
      exact ⟨_, seq, hexec, hq, hqueue⟩
    · obtain ⟨⟨_, hq, rfl⟩, -⟩ := beaconPeriod_record (o := order) (K := fun _ => True) hs hdue hr (by rw [hst]; simp)
        (Q := fun q => q = { r with lifted := .owed, liftedFrame := none })
        (fun q hq => by rw [hq, hst]; simp) (fun _ _ _ _ h => h)
        fun d hd => (lifted_owed hst howed hd hmode).imp_right (⟨·, trivial⟩)
      exact ⟨_, hexec, hq⟩
    · have hstaked := beaconPeriod_staked (o := order) hs hdue hr
        ⟨hst, ⟨w, hw, hne⟩, hlifted, hact, hmode, hlen, ha, hbin, hfree, hcount, hroom⟩
      obtain ⟨x, hx, ht, hk, hph, hu⟩ := hstaked.claim
      exact ⟨_, x, hexec, hstaked.record, hx, ht, hk, hph, hu, hstaked.frame⟩

end Sys2Proof.Machine
end
